-- ==== Sys2Proof/Word.lean ====
section
/-!
DEFINITION. Word.lean: the word types and their plainest arithmetic.
-/

namespace Sys2Proof

/-- A 32-bit register element (R29). -/
abbrev Word := BitVec 32
/-- A 64-bit value: a register pair, an address, an instruction word (R35, R125). -/
abbrev DWord := BitVec 64
/-- One byte of memory. -/
abbrev Byte := BitVec 8
/-- A warp's lane mask, bit `l` for lane `l` (R20). -/
abbrev LaneMask := BitVec 32

/-- The field of `len` bits at bit `pos` of the number `w` (R6). -/
def fld (w pos len : Nat) : Nat := w / 2 ^ pos % 2 ^ len

/-- Bit `i` of the number `w`. -/
def bit (w i : Nat) : Bool := w / 2 ^ i % 2 == 1

/-- A number read as a signed value of `w` bits. -/
def signedOf (w n : Nat) : Int :=
  if n % 2 ^ w < 2 ^ (w - 1) then (n % 2 ^ w : Nat) else ((n % 2 ^ w : Nat) : Int) - 2 ^ w

/-- An integer taken modulo 2^w, as a number. -/
def modW (w : Nat) (x : Int) : Nat := (x % (2 ^ w : Nat)).toNat

/-- The least multiple of `k` at or above `n`. -/
def roundUp (n k : Nat) : Nat := (n + k - 1) / k * k

/-- The ceiling of `n / k`. -/
def ceilDiv (n k : Nat) : Nat := (n + k - 1) / k

/-- The lanes named by a mask, in ascending lane number (R9). -/
def lanesOf (m : LaneMask) : List Nat := (List.range 32).filter (fun l => m.getLsbD l)

/-- The mask of the lanes of a list. -/
def maskOf (ls : List Nat) : LaneMask :=
  ls.foldl (fun m l => m ||| BitVec.ofNat 32 (2 ^ l)) 0

/-- The number of lanes of a mask. -/
def maskCount (m : LaneMask) : Nat := (lanesOf m).length

/-- A 64-bit value from its low and its high word (R35). -/
def join64 (lo hi : Word) : DWord := hi ++ lo

/-- The low word of a 64-bit value. -/
def lo32 (d : DWord) : Word := d.setWidth 32

/-- The high word of a 64-bit value. -/
def hi32 (d : DWord) : Word := (d >>> 32).setWidth 32

end Sys2Proof
end

