-- ==== Sys2Proof/Config.lean ====
section
/-!
DEFINITION. Config.lean: the free values of the model, constants with no body. Nothing in Lean can evaluate
them, so every statement about the machine holds whatever they are.
-/

namespace Sys2Proof.Config

/-- FREE VALUE. Bit number `n` of the values the spec calls not defined: what a scratchpad byte, a full-empty bit, a
tile or an accumulator bank holds at its start (R32, R49, R258), whether the L1 read cache still holds a line that it
filled (R101), and which of two neighbours FRSQ writes (R182). -/
opaque freeBit : Nat → Bool

/-- FREE VALUE. The result of the approximation numbered `op` on the f32 encoding `x` under the flush mode, before it is
held to the bound R182 states (FEXP2 0, FLOG2 1, FSIN 2, FCOS 3). -/
opaque approx : (op x : Nat) → (flush : Bool) → Nat

/-- FREE VALUE. The choice numbered `n` of MSEND and MRECV: which free place of the list an entry takes, and its serial number, bits
[22:8] (R246, R247). -/
opaque handle : (n : Nat) → BitVec 32

/-- FREE VALUE. Byte `i` of the data numbered `k` that no rule of the spec gives: the SHA-256 hashes of the firmware, the public key and
the signature of an attestation report (R391). -/
opaque freeByte : (k i : Nat) → BitVec 8

/-- FREE VALUE. Byte `i` of the SHA-256 of the start record (R391), whose encoding in flash no rule gives: for each step its outcome,
its alternative and its failures.
Log entry 13 (DEDUCED). -/
opaque startHash : (record : List Nat) → (i : Nat) → BitVec 8

/-- FREE VALUE. The memory slice of its home die, taken modulo 32, that serves the line numbered `n` (R76, R233, R344). -/
opaque slice : (n : Nat) → Nat

end Sys2Proof.Config
end

