-- ==== Sys2Proof/Syntax.lean ====
section
/-!
DEFINITION. Syntax.lean: the instructions. One constructor of `Instr` per row of the table of operations and events:
the 174 full-word forms and the 48 pair slots carry their operands as the encoding chapter names them; the
events and the host commands carry nothing.
-/

namespace Sys2Proof

/-- The element formats of R54, in the order of their codes. -/
inductive Fmt
  | n8 | n16 | n32 | n64 | i8 | i16 | i32 | i64 | i4 | f4 | f8e4 | f8e5 | f16 | bf16 | f32 | f64 | c64 | c128
  deriving DecidableEq, Repr

/-- The rounding modes of R109, in the order of their codes. -/
inductive Rm | rne | rtz | rup | rdn | sr
  deriving DecidableEq, Repr

/-- The order and cache qualifiers ORD 0 to 5 of R133. For LDFE, `na` is `.c`. -/
inductive Ord | relaxed | na | ef | acq | rel | ar
  deriving DecidableEq, Repr

/-- The scopes SCP 0 to 5 of R133. -/
inductive Scope | none | wg | cl | die | dev | sys
  deriving DecidableEq, Repr

/-- The guard of a word: predicate PG, negated when PN (R127). -/
structure Guard where
  pg : BitVec 3
  pn : Bool
  deriving DecidableEq, Repr

abbrev VReg := BitVec 8
abbrev SReg := BitVec 6
abbrev PReg := BitVec 3
abbrev RecReg := BitVec 3
abbrev TileReg := BitVec 4
abbrev AccReg := BitVec 6
/-- A barrier field; a well-formed one is below 96 (R128). -/
abbrev BarReg := BitVec 8
/-- A queue code: 0–7 cq0–cq7, 8–9 mq0–mq1, 10–13 aq0–aq3; a well-formed one is below 14 (R128). -/
abbrev QCode := BitVec 4

/-- A source that is a vector register, or a scalar broadcast to every lane (R129). -/
inductive Src
  | v (i : VReg)
  | s (i : SReg)
  deriving DecidableEq, Repr

/-- A destination that a modifier makes a vector register or a scalar (R163, R168). -/
inductive Dst
  | v (i : VReg)
  | s (i : SReg)
  deriving DecidableEq, Repr

/-! ## Operand bundles of the full words -/

structure OpRRR where
  g : Guard
  d : VReg
  a : Src
  b : Src
  ty : Fmt
  deriving DecidableEq, Repr

structure OpRRI where
  g : Guard
  d : VReg
  a : Src
  imm : BitVec 32
  deriving DecidableEq, Repr

structure OpRRS where
  g : Guard
  d : VReg
  a : Src
  imm : BitVec 16
  ty : Fmt
  deriving DecidableEq, Repr

structure OpRRP where
  g : Guard
  d : VReg
  a : Src
  b : Src
  c : PReg
  ty : Fmt
  deriving DecidableEq, Repr

structure OpRRRR where
  g : Guard
  d : VReg
  a : Src
  b : Src
  c : Src
  ty : Fmt
  deriving DecidableEq, Repr

structure OpRR where
  g : Guard
  d : VReg
  a : Src
  ty : Fmt
  deriving DecidableEq, Repr

structure OpCmp where
  g : Guard
  d : PReg
  a : Src
  b : Src
  cc : BitVec 4
  ty : Fmt
  deriving DecidableEq, Repr

structure OpCmpS where
  g : Guard
  d : PReg
  a : Src
  imm : BitVec 16
  cc : BitVec 4
  ty : Fmt
  deriving DecidableEq, Repr

structure OpF2 where
  g : Guard
  d : VReg
  a : Src
  ty : Fmt
  rm : Rm
  deriving DecidableEq, Repr

structure OpF3 where
  g : Guard
  d : VReg
  a : Src
  b : Src
  ty : Fmt
  rm : Rm
  deriving DecidableEq, Repr

structure OpF4 where
  g : Guard
  d : VReg
  a : Src
  b : Src
  c : Src
  ty : Fmt
  rm : Rm
  deriving DecidableEq, Repr

structure OpFS where
  g : Guard
  d : VReg
  a : Src
  imm : BitVec 16
  ty : Fmt
  rm : Rm
  deriving DecidableEq, Repr

structure OpFCmp where
  g : Guard
  d : PReg
  a : Src
  b : Src
  cc : BitVec 4
  ty : Fmt
  rm : Rm
  deriving DecidableEq, Repr

structure OpFCmpS where
  g : Guard
  d : PReg
  a : Src
  imm : BitVec 16
  cc : BitVec 4
  ty : Fmt
  rm : Rm
  deriving DecidableEq, Repr

structure OpFCvt where
  g : Guard
  d : VReg
  a : Src
  n : BitVec 8
  src : BitVec 8
  ty : Fmt
  rm : Rm
  scf : BitVec 2
  deriving DecidableEq, Repr

/-- FCVTI and ICVTF: the source code stands in the C field. -/
structure OpCvt1 where
  g : Guard
  d : VReg
  a : Src
  src : BitVec 8
  ty : Fmt
  rm : Rm
  deriving DecidableEq, Repr

structure OpHad where
  g : Guard
  d : VReg
  a : VReg
  ty : Fmt
  rm : Rm
  len : BitVec 2
  nrm : Bool
  deriving DecidableEq, Repr

structure OpQnt where
  g : Guard
  d : VReg
  a : VReg
  b : Src
  ty : Fmt
  rm : Rm
  deriving DecidableEq, Repr

/-- CMUL: C is named only with ACC = 1 (R188). -/
structure OpCMul where
  g : Guard
  d : VReg
  a : Src
  b : Src
  c : Option Src
  ty : Fmt
  rm : Rm
  cj : Bool
  deriving DecidableEq, Repr

structure OpMovI where
  g : Guard
  d : VReg
  imm : BitVec 32
  deriving DecidableEq, Repr

/-- The three forms of MOVS (R161). -/
inductive MovSSrc
  | scalar (i : SReg)
  | lane (v : VReg) (l : BitVec 8)
  | imm (i : BitVec 16)
  deriving DecidableEq, Repr

structure OpMovS where
  g : Guard
  d : SReg
  src : MovSSrc
  ty : Fmt
  deriving DecidableEq, Repr

/-- MOVRI and MOVRW: `k` is the base constant. -/
structure OpMovR where
  g : Guard
  d : VReg
  a : Src
  k : BitVec 8
  ty : Fmt
  deriving DecidableEq, Repr

structure OpSRd where
  g : Guard
  d : Dst
  x : BitVec 8
  ty : Fmt
  hi : Bool
  deriving DecidableEq, Repr

structure OpSWr where
  g : Guard
  x : BitVec 8
  a : Src
  ty : Fmt
  deriving DecidableEq, Repr

/-- The operand k of SHFL: a register or scalar, or the constant of the field (R166). -/
inductive ShflB
  | reg (s : Src)
  | const (k : BitVec 8)
  deriving DecidableEq, Repr

structure OpShfl where
  g : Guard
  d : VReg
  a : Src
  b : ShflB
  ty : Fmt
  mode : BitVec 2
  segw : BitVec 3
  deriving DecidableEq, Repr

/-- VOTE's destination: a predicate in MODE 3, else a vector register, or a scalar when SD = 1 (R167). -/
inductive VoteDst
  | mask (d : Dst)
  | count (d : Dst)
  | rank (d : Dst)
  | test (sd : Bool) (p : PReg)
  deriving DecidableEq, Repr

structure OpVote where
  g : Guard
  d : VoteDst
  a : PReg
  ty : Fmt
  qual : BitVec 2
  deriving DecidableEq, Repr

structure OpRedux where
  g : Guard
  d : Dst
  a : Src
  ty : Fmt
  op : BitVec 4
  deriving DecidableEq, Repr

structure OpScan where
  g : Guard
  d : VReg
  a : Src
  ty : Fmt
  op : BitVec 4
  exc : Bool
  deriving DecidableEq, Repr

structure OpPlop where
  g : Guard
  d : PReg
  a : PReg
  b : PReg
  ty : Fmt
  lut : BitVec 4
  deriving DecidableEq, Repr

structure OpMatch where
  g : Guard
  d : VReg
  a : Src
  ty : Fmt
  msk : Bool
  deriving DecidableEq, Repr

structure OpPack where
  g : Guard
  d : VReg
  a : Src
  b : Src
  j : BitVec 8
  ty : Fmt
  sat : Bool
  deriving DecidableEq, Repr

structure OpUnpk where
  g : Guard
  d : VReg
  a : Src
  j : BitVec 8
  ty : Fmt
  deriving DecidableEq, Repr

structure OpElect where
  g : Guard
  d : PReg
  a : Option SReg
  ty : Fmt
  hi : Bool
  deriving DecidableEq, Repr

structure OpBra where
  g : Guard
  offw : BitVec 32
  deriving DecidableEq, Repr

structure OpBrx where
  g : Guard
  a : Src
  rk : RecReg
  deriving DecidableEq, Repr

structure OpCall where
  g : Guard
  d : VReg
  offw : BitVec 32
  deriving DecidableEq, Repr

structure OpRet where
  g : Guard
  a : Src
  deriving DecidableEq, Repr

structure OpWsync where
  g : Guard
  m : Option SReg
  deriving DecidableEq, Repr

/-- An instruction with a guard and no operand. -/
structure OpZ where
  g : Guard
  deriving DecidableEq, Repr

structure OpK where
  g : Guard
  n : BitVec 8
  deriving DecidableEq, Repr

structure OpBsync where
  g : Guard
  b : BarReg
  cnt : Option SReg
  deriving DecidableEq, Repr

structure OpBarv where
  g : Guard
  d : Option VReg
  b : BarReg
  cnt : Option SReg
  deriving DecidableEq, Repr

structure OpBwait where
  g : Guard
  b : BarReg
  ph : Src
  deriving DecidableEq, Repr

structure OpBexpect where
  g : Guard
  b : BarReg
  n : SReg
  deriving DecidableEq, Repr

structure OpCbar where
  g : Guard
  mode : BitVec 2
  deriving DecidableEq, Repr

structure OpLaunch where
  g : Guard
  d : SReg
  a : SReg
  deriving DecidableEq, Repr

structure OpFork where
  g : Guard
  q : QCode
  offw : BitVec 32
  deriving DecidableEq, Repr

structure OpLoop where
  g : Guard
  len : BitVec 8
  a : SReg
  b : Option SReg
  c : Option SReg
  deriving DecidableEq, Repr

/-- LD, ST, LDW, STW and CVLD (R134). -/
structure OpMem where
  g : Guard
  d : VReg
  a : VReg
  rk : RecReg
  off : BitVec 24
  ord : Ord
  scp : Scope
  w : BitVec 2
  deriving DecidableEq, Repr

/-- RECLD and RECST. -/
structure OpRec where
  g : Guard
  d : RecReg
  a : Option SReg
  rk : RecReg
  off : BitVec 24
  ord : Ord
  scp : Scope
  deriving DecidableEq, Repr

/-- LDS, STS, LDFE and STF. -/
structure OpSpad where
  g : Guard
  d : VReg
  a : VReg
  nw : BitVec 3
  off : BitVec 24
  ord : Ord
  scp : Scope
  w : BitVec 2
  deriving DecidableEq, Repr

structure OpCmcast where
  g : Guard
  d : VReg
  a : VReg
  nw : BitVec 3
  mask : BitVec 8
  off : BitVec 16
  ord : Ord
  scp : Scope
  w : BitVec 2
  deriving DecidableEq, Repr

/-- ATOM and CAS through a record; ATOMS and CASS in scratchpad, where `sel` is AT. -/
structure OpAtom where
  g : Guard
  d : VReg
  a : VReg
  sel : BitVec 3
  b : VReg
  aop : BitVec 4
  off : BitVec 12
  ord : Ord
  scp : Scope
  deriving DecidableEq, Repr

structure OpAtomo where
  g : Guard
  d : VReg
  a : VReg
  rk : RecReg
  b : VReg
  sk : SReg
  ord : Ord
  scp : Scope
  deriving DecidableEq, Repr

structure OpFeinit where
  g : Guard
  a : Option SReg
  addr : BitVec 16
  cnt : BitVec 16
  deriving DecidableEq, Repr

structure OpFence where
  g : Guard
  kind : BitVec 2
  scp : Scope
  deriving DecidableEq, Repr

structure OpMigrq where
  g : Guard
  d : VReg
  a : Src
  ctx : Option SReg
  deriving DecidableEq, Repr

structure OpTinv where
  g : Guard
  d : SReg
  a : SReg
  b : SReg
  c : SReg
  deriving DecidableEq, Repr

/-- CPBOX and CPSTB, R layout: `b` the descriptor octet, `bar` the barrier when BA = 1; `mc` is MC for CPBOX, and `op` the
reduction for CPSTB. -/
structure OpBox where
  g : Guard
  q : QCode
  rk : RecReg
  b : SReg
  bar : Option BarReg
  mc : Bool
  op : BitVec 2
  deriving DecidableEq, Repr

structure OpBoxS where
  g : Guard
  q : QCode
  rk : RecReg
  imm : BitVec 16
  deriving DecidableEq, Repr

structure OpIdx where
  g : Guard
  q : QCode
  rk : RecReg
  b : Src
  c : SReg
  deriving DecidableEq, Repr

structure OpIdxS where
  g : Guard
  q : QCode
  rk : RecReg
  d : VReg
  imm : BitVec 16
  deriving DecidableEq, Repr

structure OpSs where
  g : Guard
  q : QCode
  a : SReg
  b : SReg
  bar : Option BarReg
  deriving DecidableEq, Repr

structure OpSsS where
  g : Guard
  q : QCode
  a : SReg
  mask : BitVec 8
  deriving DecidableEq, Repr

structure OpFill where
  g : Guard
  q : QCode
  a : SReg
  b : SReg
  fe : Bool
  deriving DecidableEq, Repr

structure OpFillS where
  g : Guard
  q : QCode
  a : SReg
  imm : BitVec 16
  fe : Bool
  deriving DecidableEq, Repr

structure OpQfence where
  g : Guard
  qm : BitVec 10
  deriving DecidableEq, Repr

structure OpCqwait where
  g : Guard
  q : QCode
  t : Option SReg
  deriving DecidableEq, Repr

structure OpCvjoin where
  g : Guard
  d : PReg
  k : BitVec 8
  deriving DecidableEq, Repr

structure OpMsend where
  g : Guard
  d : SReg
  a : Src
  b : SReg
  c : SReg
  mc : Bool
  deriving DecidableEq, Repr

structure OpSSSS where
  g : Guard
  d : SReg
  a : SReg
  b : SReg
  c : SReg
  deriving DecidableEq, Repr

structure OpSS where
  g : Guard
  d : SReg
  a : SReg
  deriving DecidableEq, Repr

structure OpPS where
  g : Guard
  d : PReg
  a : SReg
  deriving DecidableEq, Repr

structure OpColl where
  g : Guard
  d : SReg
  a : SReg
  rk : RecReg
  c : SReg
  deriving DecidableEq, Repr

structure OpS where
  g : Guard
  a : SReg
  deriving DecidableEq, Repr

structure OpShape where
  g : Guard
  d : SReg
  imm : BitVec 16
  ty : Fmt
  spn : BitVec 2
  deriving DecidableEq, Repr

/-- TLD, TST and WBLD. -/
structure OpTile where
  g : Guard
  t : TileReg
  rk : RecReg
  b : Option SReg
  k : BitVec 8
  rb : Bool
  sc : Bool
  mx : Bool
  mq : Bool
  deriving DecidableEq, Repr

structure OpMma where
  g : Guard
  d : AccReg
  a : TileReg
  b : TileReg
  blk : BitVec 8
  ty : Fmt
  wb : Bool
  mq : Bool
  deriving DecidableEq, Repr

structure OpScacc where
  g : Guard
  d : AccReg
  a : AccReg
  b : SReg
  mq : Bool
  deriving DecidableEq, Repr

/-- The row and column block of ACCRD and ACCWR: constants, or a scalar when RS = 1 (R260). -/
inductive RowSel
  | const (row cb : BitVec 8)
  | scalar (s : SReg)
  deriving DecidableEq, Repr

structure OpAcc where
  g : Guard
  v : VReg
  h : AccReg
  row : RowSel
  deriving DecidableEq, Repr

structure OpAccz where
  g : Guard
  d : AccReg
  mq : Bool
  deriving DecidableEq, Repr

structure OpAballoc where
  g : Guard
  d : PReg
  a : AccReg
  n : BitVec 8
  deriving DecidableEq, Repr

structure OpAbfree where
  g : Guard
  a : AccReg
  deriving DecidableEq, Repr

/-- QGATE and QMAP.set. -/
structure OpQ where
  g : Guard
  q : QCode
  a : SReg
  ty : Fmt
  mode : BitVec 3
  deriving DecidableEq, Repr

structure OpQrd where
  g : Guard
  d : SReg
  q : QCode
  k : BitVec 8
  ty : Fmt
  deriving DecidableEq, Repr

/-! ## Pair slots -/

/-- The fields of one slot of a pair word, but its short opcode (R137). -/
structure Slot where
  g : BitVec 3
  d : BitVec 6
  s : BitVec 6
  imm : BitVec 10
  deriving DecidableEq, Repr

/-- The other slot of a pair word, with its short opcode; a well-formed one is below 48 (R142). -/
structure OtherSlot where
  sop : BitVec 6
  slot : Slot
  deriving DecidableEq, Repr

/-- The instructions, the pair slots, and the events and host commands of the table, one constructor per row. An event takes what
the world outside one step supplies from the state (`State.ev`), as an instruction takes its lanes from `State.cur`. -/
inductive Instr
  /-- IADD (R150) -/
  | iadd (o : OpRRR)
  /-- IADD_IMM (R150) -/
  | iaddImm (o : OpRRI)
  /-- ISUB (R150) -/
  | isub (o : OpRRR)
  /-- ISUB_IMM (R150) -/
  | isubImm (o : OpRRI)
  /-- IADDC (R151) -/
  | iaddc (o : OpRRP)
  /-- ISUBB (R151) -/
  | isubb (o : OpRRP)
  /-- IMUL (R150) -/
  | imul (o : OpRRR)
  /-- IMUL_IMM (R150) -/
  | imulImm (o : OpRRI)
  /-- IMULH_I (R152) -/
  | imulhI (o : OpRRR)
  /-- IMULH_N (R152) -/
  | imulhN (o : OpRRR)
  /-- IMAD (R150) -/
  | imad (o : OpRRRR)
  /-- IMADW (R152) -/
  | imadw (o : OpRRRR)
  /-- IMIN_I (R153) -/
  | iminI (o : OpRRR)
  /-- IMIN_I_IMM (R153) -/
  | iminIImm (o : OpRRS)
  /-- IMIN_N (R153) -/
  | iminN (o : OpRRR)
  /-- IMIN_N_IMM (R153) -/
  | iminNImm (o : OpRRS)
  /-- IMAX_I (R153) -/
  | imaxI (o : OpRRR)
  /-- IMAX_I_IMM (R153) -/
  | imaxIImm (o : OpRRS)
  /-- IMAX_N (R153) -/
  | imaxN (o : OpRRR)
  /-- IMAX_N_IMM (R153) -/
  | imaxNImm (o : OpRRS)
  /-- IABS (R153) -/
  | iabs (o : OpRR)
  /-- IADDS (R153) -/
  | iadds (o : OpRRR)
  /-- IADDS_IMM (R153) -/
  | iaddsImm (o : OpRRS)
  /-- ISUBS (R153) -/
  | isubs (o : OpRRR)
  /-- ISUBS_IMM (R153) -/
  | isubsImm (o : OpRRS)
  /-- AND (R154) -/
  | and (o : OpRRR)
  /-- AND_IMM (R154) -/
  | andImm (o : OpRRI)
  /-- OR (R154) -/
  | or (o : OpRRR)
  /-- OR_IMM (R154) -/
  | orImm (o : OpRRI)
  /-- XOR (R154) -/
  | xor (o : OpRRR)
  /-- XOR_IMM (R154) -/
  | xorImm (o : OpRRI)
  /-- ANDN (R154) -/
  | andn (o : OpRRR)
  /-- ANDN_IMM (R154) -/
  | andnImm (o : OpRRI)
  /-- SHL (R155) -/
  | shl (o : OpRRR)
  /-- SHL_IMM (R155) -/
  | shlImm (o : OpRRI)
  /-- SHR (R155) -/
  | shr (o : OpRRR)
  /-- SHR_IMM (R155) -/
  | shrImm (o : OpRRI)
  /-- SAR (R155) -/
  | sar (o : OpRRR)
  /-- SAR_IMM (R155) -/
  | sarImm (o : OpRRI)
  /-- BFX (R156) -/
  | bfx (o : OpRRR)
  /-- BFX_IMM (R156) -/
  | bfxImm (o : OpRRS)
  /-- BFI (R156) -/
  | bfi (o : OpRRRR)
  /-- POPC (R157) -/
  | popc (o : OpRR)
  /-- CLZ (R157) -/
  | clz (o : OpRR)
  /-- ICMP (R158) -/
  | icmp (o : OpCmp)
  /-- ICMP_IMM (R158) -/
  | icmpImm (o : OpCmpS)
  /-- FADD (R176) -/
  | fadd (o : OpF3)
  /-- FADD_IMM (R176) -/
  | faddImm (o : OpFS)
  /-- FSUB (R176) -/
  | fsub (o : OpF3)
  /-- FSUB_IMM (R176) -/
  | fsubImm (o : OpFS)
  /-- FMUL (R176) -/
  | fmul (o : OpF3)
  /-- FMUL_IMM (R176) -/
  | fmulImm (o : OpFS)
  /-- FFMA (R176) -/
  | ffma (o : OpF4)
  /-- FMIN (R177) -/
  | fmin (o : OpF3)
  /-- FMIN_IMM (R177) -/
  | fminImm (o : OpFS)
  /-- FMAX (R177) -/
  | fmax (o : OpF3)
  /-- FMAX_IMM (R177) -/
  | fmaxImm (o : OpFS)
  /-- FCMP (R179) -/
  | fcmp (o : OpFCmp)
  /-- FCMP_IMM (R179) -/
  | fcmpImm (o : OpFCmpS)
  /-- FCLASS (R180) -/
  | fclass (o : OpF2)
  /-- FRCP (R181) -/
  | frcp (o : OpF2)
  /-- FRSQ (R182) -/
  | frsq (o : OpF2)
  /-- FSQRT (R181) -/
  | fsqrt (o : OpF2)
  /-- FEXP2 (R182) -/
  | fexp2 (o : OpF2)
  /-- FLOG2 (R182) -/
  | flog2 (o : OpF2)
  /-- FSIN (R182) -/
  | fsin (o : OpF2)
  /-- FCOS (R182) -/
  | fcos (o : OpF2)
  /-- FCVT (R183) -/
  | fcvt (o : OpFCvt)
  /-- FCVTI (R185) -/
  | fcvti (o : OpCvt1)
  /-- ICVTF (R186) -/
  | icvtf (o : OpCvt1)
  /-- FDOT2 (R187) -/
  | fdot2 (o : OpF4)
  /-- HAD (R189) -/
  | had (o : OpHad)
  /-- QNT (R190) -/
  | qnt (o : OpQnt)
  /-- DQNT (R191) -/
  | dqnt (o : OpF3)
  /-- FSCALE (R178) -/
  | fscale (o : OpF3)
  /-- CMUL (R188) -/
  | cmul (o : OpCMul)
  /-- MOV (R160) -/
  | mov (o : OpRR)
  /-- MOVI (R160) -/
  | movi (o : OpMovI)
  /-- MOVS (R161) -/
  | movs (o : OpMovS)
  /-- MOVRI (R162) -/
  | movri (o : OpMovR)
  /-- MOVRW (R162) -/
  | movrw (o : OpMovR)
  /-- SRD (R163) -/
  | srd (o : OpSRd)
  /-- SWR (R165) -/
  | swr (o : OpSWr)
  /-- SHFL (R166) -/
  | shfl (o : OpShfl)
  /-- VOTE (R167) -/
  | vote (o : OpVote)
  /-- REDUX (R168) -/
  | redux (o : OpRedux)
  /-- SCAN (R169) -/
  | scan (o : OpScan)
  /-- PLOP (R170) -/
  | plop (o : OpPlop)
  /-- SEL (R160) -/
  | sel (o : OpRRP)
  /-- PRMT (R171) -/
  | prmt (o : OpRRRR)
  /-- MATCH (R167) -/
  | matchL (o : OpMatch)
  /-- PACK (R172) -/
  | pack (o : OpPack)
  /-- UNPK (R172) -/
  | unpk (o : OpUnpk)
  /-- ELECT (R167) -/
  | elect (o : OpElect)
  /-- BRA (R196) -/
  | bra (o : OpBra)
  /-- BRX (R198) -/
  | brx (o : OpBrx)
  /-- CALL (R197) -/
  | call (o : OpCall)
  /-- RET (R197) -/
  | ret (o : OpRet)
  /-- WSYNC (R199) -/
  | wsync (o : OpWsync)
  /-- EXIT (R201) -/
  | exit (o : OpZ)
  /-- NOP (R202) -/
  | nop (o : OpZ)
  /-- PAUSE (R202) -/
  | pause (o : OpZ)
  /-- TRAP (R203) -/
  | trap (o : OpK)
  /-- BKPT (R203) -/
  | bkpt (o : OpK)
  /-- RFE (R204) -/
  | rfe (o : OpZ)
  /-- BSYNC (R207) -/
  | bsync (o : OpBsync)
  /-- BARV (R207) -/
  | barv (o : OpBarv)
  /-- BWAIT (R207) -/
  | bwait (o : OpBwait)
  /-- BEXPECT (R208) -/
  | bexpect (o : OpBexpect)
  /-- CBAR (R209) -/
  | cbar (o : OpCbar)
  /-- LAUNCH (R210) -/
  | launch (o : OpLaunch)
  /-- HINTNEXT (R211) -/
  | hintnext (o : OpZ)
  /-- WAITPRED (R212) -/
  | waitpred (o : OpZ)
  /-- FORK (R213) -/
  | fork (o : OpFork)
  /-- RDV (R216) -/
  | rdv (o : OpZ)
  /-- LOOP (R215) -/
  | loop (o : OpLoop)
  /-- ENDL (R215) -/
  | endl (o : OpZ)
  /-- ENDP (R215) -/
  | endp (o : OpZ)
  /-- LD (R222) -/
  | ld (o : OpMem)
  /-- ST (R222) -/
  | st (o : OpMem)
  /-- LDS (R225) -/
  | lds (o : OpSpad)
  /-- STS (R225) -/
  | sts (o : OpSpad)
  /-- LDFE (R226) -/
  | ldfe (o : OpSpad)
  /-- STF (R226) -/
  | stf (o : OpSpad)
  /-- FEINIT (R227) -/
  | feinit (o : OpFeinit)
  /-- LDW (R223) -/
  | ldw (o : OpMem)
  /-- STW (R223) -/
  | stw (o : OpMem)
  /-- ATOM (R229) -/
  | atom (o : OpAtom)
  /-- ATOMS (R229) -/
  | atoms (o : OpAtom)
  /-- ATOMO (R231) -/
  | atomo (o : OpAtomo)
  /-- CAS (R230) -/
  | cas (o : OpAtom)
  /-- CASS (R230) -/
  | cass (o : OpAtom)
  /-- FENCE (R234) -/
  | fence (o : OpFence)
  /-- CMCAST (R228) -/
  | cmcast (o : OpCmcast)
  /-- MIGRQ (R236) -/
  | migrq (o : OpMigrq)
  /-- TINV (R237) -/
  | tinv (o : OpTinv)
  /-- RECLD (R235) -/
  | recld (o : OpRec)
  /-- RECST (R235) -/
  | recst (o : OpRec)
  /-- CPBOX (R239) -/
  | cpbox (o : OpBox)
  /-- CPBOX_IMM (R239) -/
  | cpboxImm (o : OpBoxS)
  /-- CPSTB (R240) -/
  | cpstb (o : OpBox)
  /-- CPSTB_IMM (R240) -/
  | cpstbImm (o : OpBoxS)
  /-- CPIDX (R241) -/
  | cpidx (o : OpIdx)
  /-- CPIDX_IMM (R241) -/
  | cpidxImm (o : OpIdxS)
  /-- CPSS (R242) -/
  | cpss (o : OpSs)
  /-- CPSS_IMM (R242) -/
  | cpssImm (o : OpSsS)
  /-- CPFILL (R242) -/
  | cpfill (o : OpFill)
  /-- CPFILL_IMM (R242) -/
  | cpfillImm (o : OpFillS)
  /-- QFENCE (R243) -/
  | qfence (o : OpQfence)
  /-- CQWAIT (R244) -/
  | cqwait (o : OpCqwait)
  /-- CVJOIN (R245) -/
  | cvjoin (o : OpCvjoin)
  /-- CVLEAVE (R245) -/
  | cvleave (o : OpK)
  /-- CVLD (R224) -/
  | cvld (o : OpMem)
  /-- MSEND (R246) -/
  | msend (o : OpMsend)
  /-- MRECV (R247) -/
  | mrecv (o : OpSSSS)
  /-- MTEST (R248) -/
  | mtest (o : OpSS)
  /-- MCANCEL (R249) -/
  | mcancel (o : OpPS)
  /-- COLL (R250) -/
  | coll (o : OpColl)
  /-- CWAIT (R250) -/
  | cwait (o : OpS)
  /-- SHAPE (R253) -/
  | shape (o : OpShape)
  /-- TLD (R255) -/
  | tld (o : OpTile)
  /-- TST (R255) -/
  | tst (o : OpTile)
  /-- WBLD (R256) -/
  | wbld (o : OpTile)
  /-- MMA (R262) -/
  | mma (o : OpMma)
  /-- SCACC (R263) -/
  | scacc (o : OpScacc)
  /-- ACCRD (R260) -/
  | accrd (o : OpAcc)
  /-- ACCWR (R260) -/
  | accwr (o : OpAcc)
  /-- ACCZ (R264) -/
  | accz (o : OpAccz)
  /-- ABALLOC (R258) -/
  | aballoc (o : OpAballoc)
  /-- ABFREE (R258) -/
  | abfree (o : OpAbfree)
  /-- CRED (R265) -/
  | cred (o : OpS)
  /-- QGATE (R275) -/
  | qgate (o : OpQ)
  /-- QMAP_SET (R271) -/
  | qmapSet (o : OpQ)
  /-- QMAP_RD (R272) -/
  | qmapRd (o : OpQrd)
  /-- PAIR_IADD_RR (R142) -/
  | pairIaddRr (own : Slot) (other : OtherSlot)
  /-- PAIR_IADD_RI (R142) -/
  | pairIaddRi (own : Slot) (other : OtherSlot)
  /-- PAIR_ISUB_RR (R142) -/
  | pairIsubRr (own : Slot) (other : OtherSlot)
  /-- PAIR_IMUL_RR (R142) -/
  | pairImulRr (own : Slot) (other : OtherSlot)
  /-- PAIR_IMUL_RI (R142) -/
  | pairImulRi (own : Slot) (other : OtherSlot)
  /-- PAIR_IMIN_I_RR (R142) -/
  | pairIminIRr (own : Slot) (other : OtherSlot)
  /-- PAIR_IMAX_I_RR (R142) -/
  | pairImaxIRr (own : Slot) (other : OtherSlot)
  /-- PAIR_IMIN_N_RR (R142) -/
  | pairIminNRr (own : Slot) (other : OtherSlot)
  /-- PAIR_IMAX_N_RR (R142) -/
  | pairImaxNRr (own : Slot) (other : OtherSlot)
  /-- PAIR_AND_RR (R142) -/
  | pairAndRr (own : Slot) (other : OtherSlot)
  /-- PAIR_AND_RI (R142) -/
  | pairAndRi (own : Slot) (other : OtherSlot)
  /-- PAIR_OR_RR (R142) -/
  | pairOrRr (own : Slot) (other : OtherSlot)
  /-- PAIR_OR_RI (R142) -/
  | pairOrRi (own : Slot) (other : OtherSlot)
  /-- PAIR_XOR_RR (R142) -/
  | pairXorRr (own : Slot) (other : OtherSlot)
  /-- PAIR_XOR_RI (R142) -/
  | pairXorRi (own : Slot) (other : OtherSlot)
  /-- PAIR_ANDN_RR (R142) -/
  | pairAndnRr (own : Slot) (other : OtherSlot)
  /-- PAIR_SHL_RI (R142) -/
  | pairShlRi (own : Slot) (other : OtherSlot)
  /-- PAIR_SHR_RI (R142) -/
  | pairShrRi (own : Slot) (other : OtherSlot)
  /-- PAIR_SAR_RI (R142) -/
  | pairSarRi (own : Slot) (other : OtherSlot)
  /-- PAIR_SHL_RR (R142) -/
  | pairShlRr (own : Slot) (other : OtherSlot)
  /-- PAIR_ICMP_PC (R158) -/
  | pairIcmpPc (own : Slot) (other : OtherSlot)
  /-- PAIR_POPC_RM (R142) -/
  | pairPopcRm (own : Slot) (other : OtherSlot)
  /-- PAIR_CLZ_RM (R142) -/
  | pairClzRm (own : Slot) (other : OtherSlot)
  /-- PAIR_IABS_RM (R142) -/
  | pairIabsRm (own : Slot) (other : OtherSlot)
  /-- PAIR_FADD_RR (R192) -/
  | pairFaddRr (own : Slot) (other : OtherSlot)
  /-- PAIR_FSUB_RR (R192) -/
  | pairFsubRr (own : Slot) (other : OtherSlot)
  /-- PAIR_FMUL_RR (R192) -/
  | pairFmulRr (own : Slot) (other : OtherSlot)
  /-- PAIR_FMIN_RR (R192) -/
  | pairFminRr (own : Slot) (other : OtherSlot)
  /-- PAIR_FMAX_RR (R192) -/
  | pairFmaxRr (own : Slot) (other : OtherSlot)
  /-- PAIR_FRCP_RM (R192) -/
  | pairFrcpRm (own : Slot) (other : OtherSlot)
  /-- PAIR_FRSQ_RM (R192) -/
  | pairFrsqRm (own : Slot) (other : OtherSlot)
  /-- PAIR_FEXP2_RM (R192) -/
  | pairFexp2Rm (own : Slot) (other : OtherSlot)
  /-- PAIR_FLOG2_RM (R192) -/
  | pairFlog2Rm (own : Slot) (other : OtherSlot)
  /-- PAIR_MOV_RM (R160) -/
  | pairMovRm (own : Slot) (other : OtherSlot)
  /-- PAIR_MOVI_MI (R138) -/
  | pairMoviMi (own : Slot) (other : OtherSlot)
  /-- PAIR_ISUB_RI (R142) -/
  | pairIsubRi (own : Slot) (other : OtherSlot)
  /-- PAIR_IADDS_RR (R153) -/
  | pairIaddsRr (own : Slot) (other : OtherSlot)
  /-- PAIR_LD_MR (R251) -/
  | pairLdMr (own : Slot) (other : OtherSlot)
  /-- PAIR_ST_MR (R251) -/
  | pairStMr (own : Slot) (other : OtherSlot)
  /-- PAIR_LDS_MS (R251) -/
  | pairLdsMs (own : Slot) (other : OtherSlot)
  /-- PAIR_STS_MS (R251) -/
  | pairStsMs (own : Slot) (other : OtherSlot)
  /-- PAIR_LDFE_MF (R251) -/
  | pairLdfeMf (own : Slot) (other : OtherSlot)
  /-- PAIR_BRA_BR (R217) -/
  | pairBraBr (own : Slot) (other : OtherSlot)
  /-- PAIR_EXIT_Z (R217) -/
  | pairExitZ (own : Slot) (other : OtherSlot)
  /-- PAIR_NOP_Z (R217) -/
  | pairNopZ (own : Slot) (other : OtherSlot)
  /-- PAIR_PAUSE_Z (R217) -/
  | pairPauseZ (own : Slot) (other : OtherSlot)
  /-- PAIR_WSYNC_Z (R217) -/
  | pairWsyncZ (own : Slot) (other : OtherSlot)
  /-- PAIR_BSYNC_ZB (R217) -/
  | pairBsyncZb (own : Slot) (other : OtherSlot)
  /-- WARP_SELECTION (R27) -/
  | warpSelection
  /-- ENTRY_ISSUE (R22) -/
  | entryIssue
  /-- CONTROL_TRANSFER_RESOLVE (R195) -/
  | controlTransferResolve
  /-- RETIREMENT (R24) -/
  | retirement
  /-- PAUSE_DEMOTION_EXPIRY (R28) -/
  | pauseDemotionExpiry
  /-- MERGE_READ_ARRIVAL (R76) -/
  | mergeReadArrival
  /-- SLICE_WRITE_ARRIVAL (R93) -/
  | sliceWriteArrival
  /-- PENDING_ACCESS_RETURN (R77) -/
  | pendingAccessReturn
  /-- REPLY_ARRIVAL (R343) -/
  | replyArrival
  /-- ORDERED_CONTRIBUTION_ARRIVAL (R232) -/
  | orderedContributionArrival
  /-- CONVOY_HOLD_EXPIRY (R85) -/
  | convoyHoldExpiry
  /-- REEL_COMMAND_START (R61) -/
  | reelCommandStart
  /-- REEL_PIECE_COMPLETE (R69) -/
  | reelPieceComplete
  /-- REEL_COMMAND_COMPLETE (R69) -/
  | reelCommandComplete
  /-- CPIDX_DEFERRED_FETCH (R71) -/
  | cpidxDeferredFetch
  /-- RETENTION_ENTRY (R74) -/
  | retentionEntry
  /-- RETENTION_EXIT (R74) -/
  | retentionExit
  /-- RETENTION_TIMEOUT_EXIT (R396) -/
  | retentionTimeoutExit
  /-- MATRIX_COMMAND_START (R261) -/
  | matrixCommandStart
  /-- MATRIX_COMMAND_COMPLETE (R261) -/
  | matrixCommandComplete
  /-- CRU_ROW_MERGE (R266) -/
  | cruRowMerge
  /-- SEQUENCER_WORD (R214) -/
  | sequencerWord
  /-- AMP_COMMAND_START (R274) -/
  | ampCommandStart
  /-- AMP_EXCHANGE_ARRIVAL (R277) -/
  | ampExchangeArrival
  /-- AMP_EXCHANGE_COMPLETE (R276) -/
  | ampExchangeComplete
  /-- AMP_PROB_FOLD (R278) -/
  | ampProbFold
  /-- AMP_COMMAND_COMPLETE (R280) -/
  | ampCommandComplete
  /-- LAUNCH_SLOT_WRITE (R294) -/
  | launchSlotWrite
  /-- SYSTEM_CHANNEL_ENTRY (R295) -/
  | systemChannelEntry
  /-- PLACEMENT (R302) -/
  | placement
  /-- EVICTED_WARP_SAVE (R305) -/
  | evictedWarpSave
  /-- WARP_RESUME (R305) -/
  | warpResume
  /-- LAUNCH_COMPLETION (R296) -/
  | launchCompletion
  /-- FEEDS_RAISE (R301) -/
  | feedsRaise
  /-- HALT_ARRIVAL (R312) -/
  | haltArrival
  /-- AGENT_STOP (R312) -/
  | agentStop
  /-- MIGRATION_PIECE (R330) -/
  | migrationPiece
  /-- MIGRATION_COMPLETE (R330) -/
  | migrationComplete
  /-- SHOOTDOWN_INVALIDATE_ARRIVAL (R333) -/
  | shootdownInvalidateArrival
  /-- SHOOTDOWN_ACK (R333) -/
  | shootdownAck
  /-- SHOOTDOWN_TIMEOUT (R334) -/
  | shootdownTimeout
  /-- SHOOTDOWN_COMPLETE (R335) -/
  | shootdownComplete
  /-- UNCORRECTABLE_ERROR (R75) -/
  | uncorrectableError
  /-- TAGMSG_ARRIVAL (R349) -/
  | tagmsgArrival
  /-- TAGMSG_LIFETIME_DROP (R348) -/
  | tagmsgLifetimeDrop
  /-- SEND_REPLY_ARRIVAL (R248) -/
  | sendReplyArrival
  /-- GENERATION_UPDATE (R347) -/
  | generationUpdate
  /-- RANK_REPORT_ARRIVAL (R384) -/
  | rankReportArrival
  /-- COLLECTIVE_START (R360) -/
  | collectiveStart
  /-- STEP_SEND (R363) -/
  | stepSend
  /-- STEP_RECV (R363) -/
  | stepRecv
  /-- STEP_RRS (R363) -/
  | stepRrs
  /-- STEP_COPY (R363) -/
  | stepCopy
  /-- STEP_WAIT (R363) -/
  | stepWait
  /-- STEP_SIGNAL (R371) -/
  | stepSignal
  /-- STEP_QSEND (R368) -/
  | stepQsend
  /-- STEP_LOOP (R363) -/
  | stepLoop
  /-- STEP_ENDL (R363) -/
  | stepEndl
  /-- STEP_END (R369) -/
  | stepEnd
  /-- COLL_GRANT_ARRIVAL (R366) -/
  | collGrantArrival
  /-- COLL_PIECE_ARRIVAL (R366) -/
  | collPieceArrival
  /-- SIGNAL_TOKEN_ARRIVAL (R371) -/
  | signalTokenArrival
  /-- PEER_LOST (R372) -/
  | peerLost
  /-- WINCH_FAILURE (R373) -/
  | winchFailure
  /-- TILIC_LANE_SPARE (R373) -/
  | tilicLaneSpare
  /-- TILIC_PORT_FAILURE (R373) -/
  | tilicPortFailure
  /-- SEMAPHORE_READ (R379) -/
  | semaphoreRead
  /-- SEMAPHORE_WRITE (R379) -/
  | semaphoreWrite
  /-- PCREATE (R382) -/
  | pcreate
  /-- PDESTROY (R382) -/
  | pdestroy
  /-- CCREATE (R382) -/
  | ccreate
  /-- CEND (R320) -/
  | cend
  /-- CSET (R309) -/
  | cset
  /-- CROOT (R322) -/
  | croot
  /-- CSTAND (R326) -/
  | cstand
  /-- CPOOL (R330) -/
  | cpool
  /-- CSPAN (R332) -/
  | cspan
  /-- WBIND (R294) -/
  | wbind
  /-- SDTIME (R334) -/
  | sdtime
  /-- SHOOT (R334) -/
  | shoot
  /-- CSAVE (R316) -/
  | csave
  /-- CREST (R319) -/
  | crest
  /-- ATTEST (R391) -/
  | attest
  /-- RANK (R384) -/
  | rank
  /-- LINKMAP (R384) -/
  | linkmap
  /-- UNKNOWN_COMMAND (R381) -/
  | unknownCommand
  /-- COMMAND_COMPLETION (R383) -/
  | commandCompletion
  /-- PORT_RESET (R386) -/
  | portReset
  /-- POWER_ON_START (R387) -/
  | powerOnStart
  /-- MODE_WRITE (R393) -/
  | modeWrite
  /-- ENVELOPE_SWITCH (R394) -/
  | envelopeSwitch
  /-- JUNCTION_OVERTEMP (R395) -/
  | junctionOvertemp
  /-- DRAM_OVERTEMP (R395) -/
  | dramOvertemp
  /-- THRESHOLD_WRITE (R399) -/
  | thresholdWrite
  /-- COUNTER_CLEAR (R400) -/
  | counterClear
  /-- CORRECTED_ERROR (R398) -/
  | correctedError
  /-- ROW_SPARE_REMAP (R398) -/
  | rowSpareRemap
  /-- TELEMETRY_REFRESH (R401) -/
  | telemetryRefresh
  /-- REGISTER_WRITE (R8) -/
  | registerWrite
  /-- ROUTER_OUTPUT_ARBITRATION (R339) -/
  | routerOutputArbitration
  /-- TILIC_FLIT_RESEND (R373) -/
  | tilicFlitResend
  /-- HOST_LINK_RETRAIN (R377) -/
  | hostLinkRetrain
  /-- GENERATION_REUSE_DELAY_EXPIRY (R348) -/
  | generationReuseDelayExpiry
  deriving DecidableEq, Repr

end Sys2Proof
end

