-- ==== Sys2Proof/WellFormed.lean ====
section
/-!
DEFINITION. WellFormed.lean: which instructions have a word. A value that the encoding chapter calls reserved, or that the
opcode does not accept (reasons 4 and 5 of R143), is ill-formed; an event or a host command has no word and no constraint.
-/

namespace Sys2Proof

/-- The width of FCVT's source code: a scale format for 0, else codes 9 to 15 of R54; 0 for a code that FCVT refuses (R183). -/
def cvtWidth (src : Nat) : Nat :=
  match src with
  | 0 | 10 | 11 => 8
  | 9 => 4
  | 12 | 13 => 16
  | 14 => 32
  | 15 => 64
  | _ => 0

/-- A source group of FCVT that a broadcast cannot name: it takes more than one register or one pair (R183). -/
def cvtWide (src n : Nat) : Bool := max 32 (cvtWidth src) < n * cvtWidth src

/-- An FCVT that broadcasts such a group. -/
def OpFCvt.wide (o : OpFCvt) : Bool :=
  match o.a with
  | .s _ => cvtWide o.src.toNat o.n.toNat
  | .v _ => false

/-- The code of an order qualifier (R133). -/
def Ord.code : Ord → Nat
  | .relaxed => 0 | .na => 1 | .ef => 2 | .acq => 3 | .rel => 4 | .ar => 5

/-- The code of a scope (R133). -/
def Scope.code : Scope → Nat
  | .none => 0 | .wg => 1 | .cl => 2 | .die => 3 | .dev => 4 | .sys => 5

/-- A marked order carries a scope (R133). -/
def okMark (o : Ord) (s : Scope) : Bool := o.code < 3 || s.code != 0

/-- An order among the codes that the opcode accepts, a scope up to its limit, and a scope with every mark (R133). -/
def okQual (ords : List Nat) (maxScope : Nat) (o : Ord) (s : Scope) : Bool :=
  ords.contains o.code && s.code ≤ maxScope && okMark o s

/-- NW is 0 unless W = 3, and then at most 3 (R134). -/
def okNw (w : BitVec 2) (nw : BitVec 3) : Bool := if w == 3 then nw.toNat < 4 else nw == 0

def okBar : Option BarReg → Bool
  | none => true
  | some b => b.toNat < 96

def OpMem.okLoad (o : OpMem) : Bool := okQual [0, 1, 2, 3] 5 o.ord o.scp
def OpMem.okStore (o : OpMem) : Bool := okQual [0, 4] 5 o.ord o.scp
def OpMem.okCvld (o : OpMem) : Bool := okQual [0, 1, 2] 5 o.ord o.scp
def OpRec.okLoad (o : OpRec) : Bool := okQual [0, 1, 2, 3] 5 o.ord o.scp
def OpRec.okStore (o : OpRec) : Bool := okQual [0, 4] 5 o.ord o.scp
def OpSpad.okLds (o : OpSpad) : Bool := okQual [0, 3] 2 o.ord o.scp && okNw o.w o.nw
def OpSpad.okSts (o : OpSpad) : Bool := okQual [0, 4] 2 o.ord o.scp && okNw o.w o.nw
def OpSpad.okLdfe (o : OpSpad) : Bool := okQual [0, 1] 0 o.ord o.scp && okNw o.w o.nw
def OpCmcast.ok (o : OpCmcast) : Bool := okQual [0, 4] 2 o.ord o.scp && okNw o.w o.nw
/-- AOP 0 to 6, and 0 only for CAS and CASS (R134). -/
def OpAtom.okAtom (o : OpAtom) (maxScope : Nat) (cas : Bool) : Bool :=
  okQual [0, 3, 4, 5] maxScope o.ord o.scp && (if cas then o.aop == 0 else o.aop.toNat < 7)
def OpAtom.okAt (o : OpAtom) : Bool := o.sel.toNat < 6
def OpAtomo.ok (o : OpAtomo) : Bool := okQual [0, 4, 5] 5 o.ord o.scp
def OpFence.ok (o : OpFence) : Bool := o.scp.code != 0

/-! ## The pairing rules (R139) -/

/-- The slot writes a vector register (SOP table, R142). -/
def sopWritesVec (sop : Nat) : Bool := sop < 42 && sop != 20 && sop != 38 && sop != 40

/-- The slot is of kind mr, ms or mf. -/
def sopMemory (sop : Nat) : Bool := 37 ≤ sop && sop ≤ 41

/-- The slot's alias is in class 011. -/
def sopControl (sop : Nat) : Bool := 42 ≤ sop && sop ≤ 47

/-- The three rules of R139 on the slots 0 and 1 of a pair word, by short opcode and D field. -/
def okPairing (sop0 d0 sop1 d1 : Nat) : Bool :=
  !(sopWritesVec sop0 && sopWritesVec sop1 && d0 % 4 == d1 % 4)
    && !(sop0 == 20 && sop1 == 20 && d0 % 8 == d1 % 8)
    && !(sopMemory sop0 && sopMemory sop1)
    && !sopControl sop0

/-- Reserved bits of a slot that are set (R138), by mapping kind. -/
def okSlot (sop : Nat) (s : Slot) : Bool :=
  let i := s.imm.toNat
  let rr := [0, 2, 3, 5, 6, 7, 8, 9, 11, 13, 15, 19, 24, 25, 26, 27, 28, 36]
  let rmFloat := [29, 30, 31, 32]
  let rmPlain := [21, 22, 23, 33]
  if rr.contains sop then i % 512 == 0
  else if rmFloat.contains sop then i % 128 == 0 && i / 128 < 5
  else if rmPlain.contains sop then i == 0
  else if sop == 20 then s.d.toNat < 8
  else if 43 ≤ sop && sop ≤ 46 then i == 0 && s.d == 0 && s.s == 0
  else if sop == 47 then i < 96 && s.d == 0 && s.s == 0
  else sop < 48

/-- A pair word headed by a slot of short opcode `sop`: the head is slot 1 for the control short opcodes, which stand only
there, and slot 0 otherwise. -/
def okPair (sop : Nat) (own : Slot) (other : OtherSlot) : Bool :=
  other.sop.toNat < 48 && okSlot sop own && okSlot other.sop.toNat other.slot &&
    (if sopControl sop then okPairing other.sop.toNat other.slot.d.toNat sop own.d.toNat
     else !sopControl other.sop.toNat && okPairing sop own.d.toNat other.sop.toNat other.slot.d.toNat)

/-- The instruction has a word that passes the checks of reasons 1 to 7 (R143). -/
def Instr.wf : Instr → Bool
  | .bsync o => o.b.toNat < 96
  | .barv o => o.b.toNat < 96
  | .bwait o => o.b.toNat < 96
  | .bexpect o => o.b.toNat < 96
  | .cbar o => o.mode.toNat < 3
  | .fork o => o.q.toNat < 14
  | .ld o => o.okLoad
  | .st o => o.okStore
  | .lds o => o.okLds
  | .sts o => o.okSts
  | .ldfe o => o.okLdfe
  | .stf o => o.okSts
  | .ldw o => o.okLoad && o.w.toNat < 3
  | .stw o => o.okStore && o.w.toNat < 3
  | .atom o => o.okAtom 5 false
  | .atoms o => o.okAtom 2 false && o.okAt
  | .atomo o => o.ok
  | .cas o => o.okAtom 5 true
  | .cass o => o.okAtom 2 true && o.okAt
  | .fence o => o.ok
  | .cmcast o => o.ok
  | .recld o => o.okLoad
  | .recst o => o.okStore
  | .cpbox o => o.q.toNat < 14 && okBar o.bar && o.op == 0
  | .cpboxImm o => o.q.toNat < 14
  | .cpstb o => o.q.toNat < 14 && okBar o.bar && !o.mc
  | .cpstbImm o => o.q.toNat < 14
  | .cpidx o => o.q.toNat < 14
  | .cpidxImm o => o.q.toNat < 14
  | .cpss o => o.q.toNat < 14 && okBar o.bar
  | .cpssImm o => o.q.toNat < 14
  | .cpfill o => o.q.toNat < 14
  | .cpfillImm o => o.q.toNat < 14
  | .cqwait o => o.q.toNat < 14
  | .cvld o => o.okCvld
  | .tst o => !o.mx
  | .wbld o => !o.mx && !o.rb
  | .mma o => o.ty == .f4 || o.blk == 0
  | .qgate o => o.q.toNat < 14
  | .qmapSet o => o.q.toNat < 14 && o.mode.toNat < 4 && o.mode.toNat != 1
  | .qmapRd o => o.q.toNat < 14
  | .pairIaddRr own other => okPair 0 own other
  | .pairIaddRi own other => okPair 1 own other
  | .pairIsubRr own other => okPair 2 own other
  | .pairImulRr own other => okPair 3 own other
  | .pairImulRi own other => okPair 4 own other
  | .pairIminIRr own other => okPair 5 own other
  | .pairImaxIRr own other => okPair 6 own other
  | .pairIminNRr own other => okPair 7 own other
  | .pairImaxNRr own other => okPair 8 own other
  | .pairAndRr own other => okPair 9 own other
  | .pairAndRi own other => okPair 10 own other
  | .pairOrRr own other => okPair 11 own other
  | .pairOrRi own other => okPair 12 own other
  | .pairXorRr own other => okPair 13 own other
  | .pairXorRi own other => okPair 14 own other
  | .pairAndnRr own other => okPair 15 own other
  | .pairShlRi own other => okPair 16 own other
  | .pairShrRi own other => okPair 17 own other
  | .pairSarRi own other => okPair 18 own other
  | .pairShlRr own other => okPair 19 own other
  | .fcvt o => !o.wide
  | .pairIcmpPc own other => okPair 20 own other
  | .pairPopcRm own other => okPair 21 own other
  | .pairClzRm own other => okPair 22 own other
  | .pairIabsRm own other => okPair 23 own other
  | .pairFaddRr own other => okPair 24 own other
  | .pairFsubRr own other => okPair 25 own other
  | .pairFmulRr own other => okPair 26 own other
  | .pairFminRr own other => okPair 27 own other
  | .pairFmaxRr own other => okPair 28 own other
  | .pairFrcpRm own other => okPair 29 own other
  | .pairFrsqRm own other => okPair 30 own other
  | .pairFexp2Rm own other => okPair 31 own other
  | .pairFlog2Rm own other => okPair 32 own other
  | .pairMovRm own other => okPair 33 own other
  | .pairMoviMi own other => okPair 34 own other
  | .pairIsubRi own other => okPair 35 own other
  | .pairIaddsRr own other => okPair 36 own other
  | .pairLdMr own other => okPair 37 own other
  | .pairStMr own other => okPair 38 own other
  | .pairLdsMs own other => okPair 39 own other
  | .pairStsMs own other => okPair 40 own other
  | .pairLdfeMf own other => okPair 41 own other
  | .pairBraBr own other => okPair 42 own other
  | .pairExitZ own other => okPair 43 own other
  | .pairNopZ own other => okPair 44 own other
  | .pairPauseZ own other => okPair 45 own other
  | .pairWsyncZ own other => okPair 46 own other
  | .pairBsyncZb own other => okPair 47 own other
  | .warpSelection | .entryIssue | .controlTransferResolve | .retirement | .pauseDemotionExpiry | .mergeReadArrival
  | .sliceWriteArrival | .pendingAccessReturn | .replyArrival | .orderedContributionArrival | .convoyHoldExpiry
  | .reelCommandStart | .reelPieceComplete | .reelCommandComplete | .cpidxDeferredFetch | .retentionEntry
  | .retentionExit | .retentionTimeoutExit | .matrixCommandStart | .matrixCommandComplete | .cruRowMerge
  | .sequencerWord | .ampCommandStart | .ampExchangeArrival | .ampExchangeComplete | .ampProbFold
  | .ampCommandComplete | .launchSlotWrite | .systemChannelEntry | .placement | .evictedWarpSave | .warpResume
  | .launchCompletion | .feedsRaise | .haltArrival | .agentStop | .migrationPiece | .migrationComplete
  | .shootdownInvalidateArrival | .shootdownAck | .shootdownTimeout | .shootdownComplete | .uncorrectableError
  | .tagmsgArrival | .tagmsgLifetimeDrop | .sendReplyArrival | .generationUpdate | .rankReportArrival
  | .collectiveStart | .stepSend | .stepRecv | .stepRrs | .stepCopy | .stepWait | .stepSignal | .stepQsend
  | .stepLoop | .stepEndl | .stepEnd | .collGrantArrival | .collPieceArrival | .signalTokenArrival | .peerLost
  | .winchFailure | .tilicLaneSpare | .tilicPortFailure | .semaphoreRead | .semaphoreWrite | .pcreate | .pdestroy
  | .ccreate | .cend | .cset | .croot | .cstand | .cpool | .cspan | .wbind | .sdtime | .shoot | .csave | .crest
  | .attest | .rank | .linkmap | .unknownCommand | .commandCompletion | .portReset | .powerOnStart | .modeWrite
  | .envelopeSwitch | .junctionOvertemp | .dramOvertemp | .thresholdWrite | .counterClear | .correctedError
  | .rowSpareRemap | .telemetryRefresh | .registerWrite | .iadd _ | .iaddImm _ | .isub _ | .isubImm _ | .iaddc _
  | .isubb _ | .imul _ | .imulImm _ | .imulhI _ | .imulhN _ | .imad _ | .imadw _ | .iminI _ | .iminIImm _
  | .iminN _ | .iminNImm _ | .imaxI _ | .imaxIImm _ | .imaxN _ | .imaxNImm _ | .iabs _ | .iadds _ | .iaddsImm _
  | .isubs _ | .isubsImm _ | .and _ | .andImm _ | .or _ | .orImm _ | .xor _ | .xorImm _ | .andn _ | .andnImm _
  | .shl _ | .shlImm _ | .shr _ | .shrImm _ | .sar _ | .sarImm _ | .bfx _ | .bfxImm _ | .bfi _ | .popc _ | .clz _
  | .icmp _ | .icmpImm _ | .fadd _ | .faddImm _ | .fsub _ | .fsubImm _ | .fmul _ | .fmulImm _ | .ffma _ | .fmin _
  | .fminImm _ | .fmax _ | .fmaxImm _ | .fcmp _ | .fcmpImm _ | .fclass _ | .frcp _ | .frsq _ | .fsqrt _ | .fexp2 _
  | .flog2 _ | .fsin _ | .fcos _ | .fcvti _ | .icvtf _ | .fdot2 _ | .had _ | .qnt _ | .dqnt _ | .fscale _
  | .cmul _ | .mov _ | .movi _ | .movs _ | .movri _ | .movrw _ | .srd _ | .swr _ | .shfl _ | .vote _ | .redux _
  | .scan _ | .plop _ | .sel _ | .prmt _ | .matchL _ | .pack _ | .unpk _ | .elect _ | .bra _ | .brx _ | .call _
  | .ret _ | .wsync _ | .exit _ | .nop _ | .pause _ | .trap _ | .bkpt _ | .rfe _ | .launch _ | .hintnext _
  | .waitpred _ | .rdv _ | .loop _ | .endl _ | .endp _ | .feinit _ | .migrq _ | .tinv _ | .qfence _ | .cvjoin _
  | .cvleave _ | .msend _ | .mrecv _ | .mtest _ | .mcancel _ | .coll _ | .cwait _ | .shape _ | .tld _ | .scacc _
  | .accrd _ | .accwr _ | .accz _ | .aballoc _ | .abfree _ | .cred _ | .routerOutputArbitration | .tilicFlitResend
  | .hostLinkRetrain | .generationReuseDelayExpiry => true

end Sys2Proof
end

