-- ==== Sys2Proof/Decode.lean ====
section
/-!
DEFINITION. Decode.lean: the decoder, total on every 64-bit word and rejecting by reason, and the encoder, both written from
the encoding tables of chapters 7 to 13.
-/

namespace Sys2Proof

/-- Why a word is not an instruction: REASON and FBIT of Table 14 (R143). -/
structure Reject where
  reason : Nat
  fbit : Nat
  deriving DecidableEq, Repr

/-! ## Codes -/

/-- The code of an element format (R54). -/
def Fmt.code : Fmt → Nat
  | .n8 => 0 | .n16 => 1 | .n32 => 2 | .n64 => 3 | .i8 => 4 | .i16 => 5 | .i32 => 6 | .i64 => 7 | .i4 => 8
  | .f4 => 9 | .f8e4 => 10 | .f8e5 => 11 | .f16 => 12 | .bf16 => 13 | .f32 => 14 | .f64 => 15 | .c64 => 16
  | .c128 => 17

/-- The format of a code; codes 18 to 31 are reserved (R54). -/
def Fmt.ofCode? : Nat → Option Fmt
  | 0 => some .n8 | 1 => some .n16 | 2 => some .n32 | 3 => some .n64 | 4 => some .i8 | 5 => some .i16
  | 6 => some .i32 | 7 => some .i64 | 8 => some .i4 | 9 => some .f4 | 10 => some .f8e4 | 11 => some .f8e5
  | 12 => some .f16 | 13 => some .bf16 | 14 => some .f32 | 15 => some .f64 | 16 => some .c64 | 17 => some .c128
  | _ => none

def Fmt.ofCode (n : Nat) : Fmt := (Fmt.ofCode? n).getD .n8

def Rm.code : Rm → Nat
  | .rne => 0 | .rtz => 1 | .rup => 2 | .rdn => 3 | .sr => 4

/-- The mode of a code (R109); 5 to 7 are rejected before this is read. -/
def Rm.ofCode : Nat → Rm
  | 0 => .rne | 1 => .rtz | 2 => .rup | 3 => .rdn | _ => .sr

def Ord.ofCode : Nat → Ord
  | 0 => .relaxed | 1 => .na | 2 => .ef | 3 => .acq | 4 => .rel | _ => .ar

def Scope.ofCode : Nat → Scope
  | 0 => .none | 1 => .wg | 2 => .cl | 3 => .die | 4 => .dev | _ => .sys

/-! ## Field kinds (R128) -/

/-- The kinds of a register field. `vec` may be broadcast where its bit is set (R129); `grp` is a vector register that may
not; `any` is a constant, a special-register number or bits of an immediate. -/
inductive Kind | unused | vec | grp | sca | osc | prd | tile | acc | bar | rcd | que | any
  deriving DecidableEq, Repr

/-- The reason, 4 or 5, for which a field of this kind refuses a value; 0 when it does not (Table 3, R128). -/
def Kind.refuses (k : Kind) (v : Nat) : Nat :=
  match k with
  | .unused => if v = 0 then 0 else 4
  | .vec | .grp | .any => 0
  | .sca | .acc => if v < 64 then 0 else 4
  | .osc => if v < 64 ∨ v = 128 then 0 else 4
  | .prd | .rcd => if v < 8 then 0 else 4
  | .tile => if v < 16 then 0 else 4
  | .que => if 16 ≤ v then 4 else if 14 ≤ v then 5 else 0
  | .bar => if 96 ≤ v then 5 else 0

/-- A failing check as (reason, fbit). -/
abbrev Finding := Nat × Nat

def findIf (bad : Bool) (reason fbit : Nat) : List Finding := if bad then [(reason, fbit)] else []

/-- The check of one register field; `bc` is the field's broadcast bit and its number, where the layout has one. -/
def fieldFinding (k : Kind) (v fbit : Nat) (bc : Bool) : List Finding :=
  let k' := if bc && k == .vec then Kind.sca else k
  findIf (k'.refuses v != 0) (k'.refuses v) fbit

/-- A broadcast bit on a field that is not a vector source is reason 4 (R129). -/
def bcFinding (k : Kind) (on : Bool) (bitNo : Nat) : List Finding := findIf (on && k != .vec) 4 bitNo

/-- Set bits of `w` outside the mask of defined bits, at the positions listed (most significant first), each a field of its own
(R143).
Log entry 80 (DESIGN CHOICE). -/
def undefBits (w defined : Nat) (positions : List Nat) : List Finding :=
  positions.flatMap (fun i => findIf (bit w i && !bit defined i) 4 i)

def modBitsR : List Nat := [14, 13, 12, 11, 10, 9, 8, 7, 6, 5, 4, 3, 1, 0]

/-- The check of a word in the register layout (Table 2, R126): the kinds of D, A, B and C, the modifier bits the
instruction defines, and the findings of its own modifier fields. -/
structure RSpec where
  d : Kind
  a : Kind
  b : Kind
  c : Kind
  mods : Nat
  own : List Finding
  deriving Repr

def RSpec.findings (r : RSpec) (w : Nat) : List Finding :=
  fieldFinding r.d (fld w 43 8) 43 false ++ fieldFinding r.a (fld w 35 8) 35 (bit w 17)
    ++ fieldFinding r.b (fld w 27 8) 27 (bit w 16) ++ fieldFinding r.c (fld w 19 8) 19 (bit w 15)
    ++ findIf (bit w 18) 4 18 ++ bcFinding r.a (bit w 17) 17 ++ bcFinding r.b (bit w 16) 16
    ++ bcFinding r.c (bit w 15) 15 ++ undefBits w r.mods modBitsR ++ r.own

/-- The split-immediate layout (Table 6, R131). -/
def findingsS (w : Nat) (d a : Kind) (mods : Nat) (own : List Finding) : List Finding :=
  fieldFinding d (fld w 43 8) 43 false ++ fieldFinding a (fld w 35 8) 35 (bit w 17)
    ++ findIf (bit w 18) 4 18 ++ bcFinding a (bit w 17) 17 ++ findIf (bit w 16) 4 16 ++ findIf (bit w 15) 4 15
    ++ undefBits w mods modBitsR ++ own

/-- The I32 layout (Table 5, R131). -/
def findingsI (w : Nat) (d a : Kind) : List Finding :=
  fieldFinding d (fld w 43 8) 43 false ++ fieldFinding a (fld w 35 8) 35 (bit w 1)
    ++ bcFinding a (bit w 1) 1 ++ findIf (bit w 0) 4 0

/-- TYPE, M[14:10]: codes 18 to 31 are reason 5 (R130). -/
def typeFinding (w : Nat) : List Finding := findIf (18 ≤ fld w 10 5) 5 10
/-- RM, M[9:7]: codes 5 to 7 are reason 5 (R109). -/
def rmFinding (w : Nat) : List Finding := findIf (5 ≤ fld w 7 3) 5 7

def mType : Nat := 0x7C00
def mRm : Nat := 0x380

/-- Integer, lane and tensor instructions with TYPE. -/
def rT (d a b c : Kind) (extra : Nat) (w : Nat) : RSpec := ⟨d, a, b, c, mType + extra, typeFinding w⟩
/-- Float instructions, with TYPE and RM. -/
def rF (d a b c : Kind) (extra : Nat) (w : Nat) : RSpec := ⟨d, a, b, c, mType + mRm + extra, typeFinding w ++ rmFinding w⟩
/-- Instructions of the other classes: neither TYPE nor RM. -/
def rN (d a b c : Kind) (mods : Nat) (own : List Finding := []) : RSpec := ⟨d, a, b, c, mods, own⟩

/-- How the word of opcode `opc` is checked in the register layout; none where the opcode has no register layout. The kind of D in VOTE
with MODE 2 and SD = 1 is the model's choice: log entry 87 (DESIGN CHOICE). -/
def specR (opc w : Nat) : Option RSpec :=
  match opc with
  -- integer class (R149)
  | 0x00 | 0x01 | 0x04 | 0x05 | 0x06 | 0x09 | 0x0A | 0x0B | 0x0C | 0x0E | 0x0F | 0x10 | 0x11 | 0x12 | 0x13 | 0x14
  | 0x15 | 0x16 | 0x17 => some (rT .vec .vec .vec .unused 0 w)
  | 0x02 | 0x03 => some (rT .vec .vec .vec .prd 0 w)
  | 0x07 | 0x08 | 0x18 => some (rT .vec .vec .vec .vec 0 w)
  | 0x0D | 0x19 | 0x1A => some (rT .vec .vec .unused .unused 0 w)
  | 0x1B => some (rT .prd .vec .vec .unused 0x78 w)
  -- float class (R174)
  | 0x20 | 0x21 | 0x22 | 0x24 | 0x25 | 0x36 => some (rF .vec .vec .vec .unused 0 w)
  | 0x23 | 0x32 => some (rF .vec .vec .vec .vec 0 w)
  | 0x26 => some (rF .prd .vec .vec .unused 0x78 w)
  | 0x27 | 0x28 | 0x29 | 0x2A | 0x2B | 0x2C | 0x2D | 0x2E => some (rF .vec .vec .unused .unused 0 w)
  | 0x2F =>
    let r := rF .vec .vec .any .any 0x18 w
    some { r with own := r.own ++ findIf (bit w 17 && cvtWide (fld w 19 8) (fld w 27 8)) 4 17 }
  | 0x30 | 0x31 => some (rF .vec .vec .unused .any 0 w)
  | 0x33 => some (rF .grp .grp .unused .unused 0x38 w)
  | 0x34 => some (rF .vec .grp .vec .unused 0 w)
  | 0x35 => some (rF .grp .vec .vec .unused 0 w)
  | 0x37 => some (rF .vec .vec .vec (if bit w 4 then .vec else .unused) 0x18 w)
  -- lane and move class (R159)
  | 0x40 => some (rT .vec .vec .unused .unused 0 w)
  | 0x42 => some (if bit w 3 then rT .sca .unused .any .any 8 w
                  else if bit w 17 then rT .sca .vec .unused .unused 8 w
                  else rT .sca .vec .unused .any 8 w)
  | 0x43 => some (rT .vec .vec .any .unused 0 w)
  | 0x44 => some (rT .grp .vec .any .unused 0 w)
  | 0x45 => some (rT (if bit w 4 then .sca else .vec) .any .unused .unused 0x18 w)
  | 0x46 => some (rT .any .vec .unused .unused 0 w)
  | 0x47 => some (rT .vec .vec (if bit w 8 then .any else .vec) .unused 0x1F8 w)
  | 0x48 => some (rT (if fld w 3 2 = 3 then .prd else if bit w 7 then .sca else .vec) .prd .unused .unused 0xF8 w)
  | 0x49 => some (rT (if bit w 7 then .sca else .vec) .vec .unused .unused 0xF8 w)
  | 0x4A => some (rT .vec .vec .unused .unused 0xF8 w)
  | 0x4B => some (rT .prd .prd .prd .unused 0x78 w)
  | 0x4C => some (rT .vec .vec .vec .prd 0 w)
  | 0x4D => some (rT .vec .vec .vec .vec 0 w)
  | 0x4E => some (rT .vec .vec .unused .unused 8 w)
  | 0x4F => some (rT .vec .vec .vec .any 8 w)
  | 0x50 => some (rT .vec .vec .unused .any 0 w)
  | 0x51 => some (rT .prd .osc .unused .unused 8 w)
  -- control class (R193)
  | 0x61 => some (rN .unused .vec .rcd .unused 0)
  | 0x63 => some (rN .unused .vec .unused .unused 0)
  | 0x64 => some (rN .unused (if bit w 3 then .sca else .unused) .unused .unused 8)
  | 0x65 | 0x66 | 0x67 | 0x6A | 0x71 | 0x72 | 0x74 | 0x76 | 0x77 => some (rN .unused .unused .unused .unused 0)
  | 0x68 | 0x69 => some (rN .unused .unused .any .unused 0)
  | 0x6B => some (rN .unused .bar (if bit w 3 then .sca else .unused) .unused 8)
  | 0x6C => some (rN (if bit w 4 then .vec else .unused) .bar (if bit w 3 then .sca else .unused) .unused 0x18)
  | 0x6D => some (rN .unused .bar .vec .unused 0)
  | 0x6E => some (rN .unused .bar .sca .unused 0)
  | 0x6F => some (rN .unused .unused .unused .unused 0x18 (findIf (fld w 3 2 = 3) 5 3))
  | 0x70 => some (rN .sca .sca .unused .unused 0)
  | 0x75 => some (rN .any .sca .osc .osc 0)
  -- memory class (R218)
  | 0x8E => some (rN .unused .unused .unused .unused 0xF8 (findIf (fld w 5 3 = 0 || 6 ≤ fld w 5 3) 5 5))
  | 0x90 => some (rN .vec .vec (if bit w 3 then .sca else .unused) .unused 8)
  | 0x91 => some (rN .sca .sca .sca .sca 0)
  -- engine class (R220)
  | 0xA0 => some (rN .que .rcd .sca (if bit w 3 then .bar else .unused) 0x18)
  | 0xA1 => some (rN .que .rcd .sca (if bit w 3 then .bar else .unused) 0x68)
  | 0xA2 => some (rN .que .rcd .vec .sca 0)
  | 0xA3 => some (rN .que .sca .sca (if bit w 3 then .bar else .unused) 8)
  | 0xA4 => some (rN .que .sca .sca .unused 0x80)
  | 0xA5 => some (rN .unused .unused .unused .unused 0x1FF8)
  | 0xA6 => some (rN .que .unused .osc .unused 0)
  | 0xA7 => some (rN .prd .unused .any .unused 0)
  | 0xA8 => some (rN .unused .unused .any .unused 0)
  | 0xAA => some (rN .sca .vec .sca .sca 8)
  | 0xAB => some (rN .sca .sca .sca .sca 0)
  | 0xAC => some (rN .sca .sca .unused .unused 0)
  | 0xAD => some (rN .prd .sca .unused .unused 0)
  | 0xAE => some (rN .sca .sca .rcd .sca 0)
  | 0xAF => some (rN .unused .sca .unused .unused 0)
  -- tensor and amplitude class (R252, R270): a broadcast bit is always reserved
  | 0xC1 => some (rN .tile .rcd .osc .any 0x39)
  | 0xC2 => some (rN .tile .rcd .osc .any 0x19)
  | 0xC3 => some (rN .tile .rcd .osc .any 0x11)
  | 0xC4 => some (rT .acc .tile .tile .any 9 w)
  | 0xC5 => some (rN .acc .acc .sca .unused 1)
  | 0xC6 => some (rN .grp .acc (if bit w 3 then .sca else .any) (if bit w 3 then .unused else .any) 8)
  | 0xC7 => some (rN .acc .grp (if bit w 3 then .sca else .any) (if bit w 3 then .unused else .any) 8)
  | 0xC8 => some (rN .acc .unused .unused .unused 1)
  | 0xC9 => some (rN .prd .acc .any .unused 0)
  | 0xCA => some (rN .unused .acc .unused .unused 0)
  | 0xCB => some (rN .unused .sca .unused .unused 0)
  | 0xCC => some (rT .que .sca .unused .unused 0x38 w)
  | 0xCD => some (if fld w 3 2 = 1 then rT .sca .que .any .unused 0x18 w else rT .que .sca .unused .unused 0x18 w)
  | _ => none

/-- MMA's block number stands in C for f4 only (R252). -/
def mmaFinding (opc w : Nat) : List Finding :=
  findIf (opc = 0xC4 && fld w 10 5 != 9 && fld w 19 8 != 0) 4 19

/-- The findings of the immediate layout of an opcode; none where it has no immediate layout (R141). -/
def specImm (opc w : Nat) : Option (List Finding) :=
  match opc with
  | 0x00 | 0x01 | 0x04 | 0x10 | 0x11 | 0x12 | 0x13 | 0x14 | 0x15 | 0x16 => some (findingsI w .vec .vec)
  | 0x09 | 0x0A | 0x0B | 0x0C | 0x0E | 0x0F | 0x17 => some (findingsS w .vec .vec mType (typeFinding w))
  | 0x1B => some (findingsS w .prd .vec (mType + 0x78) (typeFinding w))
  | 0x20 | 0x21 | 0x22 | 0x24 | 0x25 => some (findingsS w .vec .vec (mType + mRm) (typeFinding w ++ rmFinding w))
  | 0x26 => some (findingsS w .prd .vec (mType + mRm + 0x78) (typeFinding w ++ rmFinding w))
  | 0x41 => some (findingsI w .vec .unused)
  | 0x86 => some (findingsI w .unused (if bit w 1 then .vec else .unused))
  | 0xA0 | 0xA1 => some (findingsS w .que .rcd 0 [])
  | 0xA2 => some (findingsS w .grp .rcd 0x78 (findIf (14 ≤ fld w 3 4) 5 3))
  | 0xA3 => some (findingsS w .que .sca 0 (findIf (fld w 27 8 != 0) 4 27))
  | 0xA4 => some (findingsS w .que .sca 0x80 [])
  | 0xC0 => some (findingsS w .sca .unused (mType + 0x60) (typeFinding w))
  | _ => none

/-- ORD, SCP and W of a memory-layout word (R133); a marked order without scope offends in ORD.
Log entry 80 (DESIGN CHOICE). -/
def qualFindings (w : Nat) (ords : List Nat) (maxScope : Nat) (ws : Option Nat) : List Finding :=
  findIf (!ords.contains (fld w 5 3) || (3 ≤ fld w 5 3 && fld w 2 3 == 0)) 5 5
    ++ findIf (maxScope < fld w 2 3) 5 2
    ++ (match ws with
        | none => findIf (fld w 0 2 != 0) 4 0
        | some m => findIf (m < fld w 0 2) 5 0)

/-- NW (R134); with W other than 3 it is a reserved field.
Log entry 80 (DESIGN CHOICE). -/
def nwFindings (w : Nat) : List Finding :=
  if fld w 0 2 = 3 then findIf (4 ≤ fld w 32 3) 5 32 else findIf (fld w 32 3 != 0) 4 32

def fieldsDA (w : Nat) (d a : Kind) : List Finding :=
  fieldFinding d (fld w 43 8) 43 false ++ fieldFinding a (fld w 35 8) 35 false

/-- AOP: 0 to 6, and 0 only for CAS and CASS (R134). -/
def aopFinding (w : Nat) (cas : Bool) : List Finding :=
  findIf (7 ≤ fld w 20 4 || (cas && fld w 20 4 != 0)) 5 20

/-- The findings of a word in the memory layout (R132 to R134, R218); none where the opcode has another layout. -/
def specM (opc w : Nat) : Option (List Finding) :=
  match opc with
  | 0x80 => some (qualFindings w [0, 1, 2, 3] 5 (some 3))
  | 0x81 => some (qualFindings w [0, 4] 5 (some 3))
  | 0x82 => some (nwFindings w ++ qualFindings w [0, 3] 2 (some 3))
  | 0x83 | 0x85 | 0x8F => some (nwFindings w ++ qualFindings w [0, 4] 2 (some 3))
  | 0x84 => some (nwFindings w ++ qualFindings w [0, 1] 0 (some 3))
  | 0x87 => some (qualFindings w [0, 1, 2, 3] 5 (some 2))
  | 0x88 => some (qualFindings w [0, 4] 5 (some 2))
  | 0x89 => some (aopFinding w false ++ qualFindings w [0, 3, 4, 5] 5 none)
  | 0x8A => some (findIf (6 ≤ fld w 32 3) 5 32 ++ aopFinding w false ++ qualFindings w [0, 3, 4, 5] 2 none)
  | 0x8B => some (findIf (fld w 20 4 != 0) 5 20 ++ findIf (fld w 8 6 != 0) 4 8 ++ qualFindings w [0, 4, 5] 5 none)
  | 0x8C => some (aopFinding w true ++ qualFindings w [0, 3, 4, 5] 5 none)
  | 0x8D => some (findIf (6 ≤ fld w 32 3) 5 32 ++ aopFinding w true ++ qualFindings w [0, 3, 4, 5] 2 none)
  | 0x92 => some (fieldsDA w .rcd .osc ++ qualFindings w [0, 1, 2, 3] 5 none)
  | 0x93 => some (fieldsDA w .rcd .osc ++ qualFindings w [0, 4] 5 none)
  | 0xA9 => some (qualFindings w [0, 1, 2] 5 (some 3))
  | _ => none

/-- The findings of a word in the branch layout (R136, R193): bits [2:0] are reserved. -/
def specB (opc w : Nat) : Option (List Finding) :=
  let low := undefBits w 0 [2, 1, 0]
  match opc with
  | 0x60 => some (fieldsDA w .unused .unused ++ low)
  | 0x62 => some (fieldsDA w .vec .unused ++ low)
  | 0x73 => some (fieldsDA w .que .unused ++ low)
  | _ => none

/-- The first failure under R143: the lowest reason, and within it the most significant field. -/
def firstFinding (fs : List Finding) : Option Reject :=
  fs.foldl (fun best f =>
    match best with
    | none => some ⟨f.1, f.2⟩
    | some b => if f.1 < b.reason || (f.1 == b.reason && b.fbit < f.2) then some ⟨f.1, f.2⟩ else some b) none

/-- The check of a full word (R143, reasons 2 and 4 to 6). -/
def checkFull (w : Nat) : Option Reject :=
  let opc := fld w 55 8
  match specM opc w, specB opc w with
  | some fs, _ => firstFinding fs
  | none, some fs => firstFinding fs
  | none, none =>
    match specR opc w, specImm opc w with
    | none, none => some ⟨2, 55⟩
    | none, some fs => firstFinding (fs ++ findIf (!bit w 2) 6 2)
    | some r, none => firstFinding (r.findings w ++ mmaFinding opc w ++ findIf (bit w 2) 6 2)
    | some r, some fs => if bit w 2 then firstFinding fs else firstFinding (r.findings w)

/-! ## Reading the operands of a checked word -/

def gOf (w : Nat) : Guard := ⟨BitVec.ofNat 3 (fld w 52 3), bit w 51⟩
def vD (w : Nat) : VReg := BitVec.ofNat 8 (fld w 43 8)
def vA (w : Nat) : VReg := BitVec.ofNat 8 (fld w 35 8)
def vB (w : Nat) : VReg := BitVec.ofNat 8 (fld w 27 8)
def vC (w : Nat) : VReg := BitVec.ofNat 8 (fld w 19 8)
def sD (w : Nat) : SReg := BitVec.ofNat 6 (fld w 43 6)
def sA (w : Nat) : SReg := BitVec.ofNat 6 (fld w 35 6)
def sB (w : Nat) : SReg := BitVec.ofNat 6 (fld w 27 6)
def sC (w : Nat) : SReg := BitVec.ofNat 6 (fld w 19 6)
def pD (w : Nat) : PReg := BitVec.ofNat 3 (fld w 43 3)
def pA (w : Nat) : PReg := BitVec.ofNat 3 (fld w 35 3)
def pB (w : Nat) : PReg := BitVec.ofNat 3 (fld w 27 3)
def pC (w : Nat) : PReg := BitVec.ofNat 3 (fld w 19 3)
def qD (w : Nat) : QCode := BitVec.ofNat 4 (fld w 43 4)
def tyOf (w : Nat) : Fmt := Fmt.ofCode (fld w 10 5)
def rmOf (w : Nat) : Rm := Rm.ofCode (fld w 7 3)
def immS (w : Nat) : BitVec 16 := BitVec.ofNat 16 (fld w 19 16)
def immI (w : Nat) : BitVec 32 := BitVec.ofNat 32 (fld w 3 32)
def recM (w : Nat) : BitVec 3 := BitVec.ofNat 3 (fld w 32 3)
def ordM (w : Nat) : Ord := Ord.ofCode (fld w 5 3)
def scpM (w : Nat) : Scope := Scope.ofCode (fld w 2 3)
def wM (w : Nat) : BitVec 2 := BitVec.ofNat 2 (fld w 0 2)

/-- A vector source at bit `pos`, broadcast when bit `bc` is set (R129). -/
def srcAt (w pos bc : Nat) : Src :=
  if bit w bc then .s (BitVec.ofNat 6 (fld w pos 6)) else .v (BitVec.ofNat 8 (fld w pos 8))
def srcA (w : Nat) : Src := srcAt w 35 17
def srcB (w : Nat) : Src := srcAt w 27 16
def srcC (w : Nat) : Src := srcAt w 19 15
/-- An optional scalar at bit `pos` (R128). -/
def oscAt (w pos : Nat) : Option SReg := if bit w (pos + 7) then none else some (BitVec.ofNat 6 (fld w pos 6))
def dstAt (w : Nat) (sd : Bool) : Dst := if sd then .s (sD w) else .v (vD w)
def optIf {α : Type} (b : Bool) (x : α) : Option α := if b then some x else none

def rdRRR (w : Nat) : OpRRR := ⟨gOf w, vD w, srcA w, srcB w, tyOf w⟩
def rdRRI (w : Nat) : OpRRI := ⟨gOf w, vD w, srcAt w 35 1, immI w⟩
def rdRRS (w : Nat) : OpRRS := ⟨gOf w, vD w, srcA w, immS w, tyOf w⟩
def rdRRP (w : Nat) : OpRRP := ⟨gOf w, vD w, srcA w, srcB w, pC w, tyOf w⟩
def rdRRRR (w : Nat) : OpRRRR := ⟨gOf w, vD w, srcA w, srcB w, srcC w, tyOf w⟩
def rdRR (w : Nat) : OpRR := ⟨gOf w, vD w, srcA w, tyOf w⟩
def rdF2 (w : Nat) : OpF2 := ⟨gOf w, vD w, srcA w, tyOf w, rmOf w⟩
def rdF3 (w : Nat) : OpF3 := ⟨gOf w, vD w, srcA w, srcB w, tyOf w, rmOf w⟩
def rdF4 (w : Nat) : OpF4 := ⟨gOf w, vD w, srcA w, srcB w, srcC w, tyOf w, rmOf w⟩
def rdFS (w : Nat) : OpFS := ⟨gOf w, vD w, srcA w, immS w, tyOf w, rmOf w⟩
def ccOf (w : Nat) : BitVec 4 := BitVec.ofNat 4 (fld w 3 4)
def rdCmp (w : Nat) : OpCmp := ⟨gOf w, pD w, srcA w, srcB w, ccOf w, tyOf w⟩
def rdCmpS (w : Nat) : OpCmpS := ⟨gOf w, pD w, srcA w, immS w, ccOf w, tyOf w⟩
def rdFCmp (w : Nat) : OpFCmp := ⟨gOf w, pD w, srcA w, srcB w, ccOf w, tyOf w, rmOf w⟩
def rdFCmpS (w : Nat) : OpFCmpS := ⟨gOf w, pD w, srcA w, immS w, ccOf w, tyOf w, rmOf w⟩
def rdFCvt (w : Nat) : OpFCvt := ⟨gOf w, vD w, srcA w, vB w, vC w, tyOf w, rmOf w, BitVec.ofNat 2 (fld w 3 2)⟩
def rdCvt1 (w : Nat) : OpCvt1 := ⟨gOf w, vD w, srcA w, vC w, tyOf w, rmOf w⟩
def rdHad (w : Nat) : OpHad := ⟨gOf w, vD w, vA w, tyOf w, rmOf w, BitVec.ofNat 2 (fld w 3 2), bit w 5⟩
def rdQnt (w : Nat) : OpQnt := ⟨gOf w, vD w, vA w, srcB w, tyOf w, rmOf w⟩
def rdCMul (w : Nat) : OpCMul := ⟨gOf w, vD w, srcA w, srcB w, optIf (bit w 4) (srcC w), tyOf w, rmOf w, bit w 3⟩
def rdMovI (w : Nat) : OpMovI := ⟨gOf w, vD w, immI w⟩
def rdMovS (w : Nat) : OpMovS :=
  ⟨gOf w, sD w, if bit w 3 then .imm (immS w) else if bit w 17 then .scalar (sA w) else .lane (vA w) (vC w), tyOf w⟩
def rdMovR (w : Nat) : OpMovR := ⟨gOf w, vD w, srcA w, vB w, tyOf w⟩
def rdSRd (w : Nat) : OpSRd := ⟨gOf w, dstAt w (bit w 4), vA w, tyOf w, bit w 3⟩
def rdSWr (w : Nat) : OpSWr := ⟨gOf w, vD w, srcA w, tyOf w⟩
def rdShfl (w : Nat) : OpShfl :=
  ⟨gOf w, vD w, srcA w, if bit w 8 then .const (vB w) else .reg (srcB w), tyOf w, BitVec.ofNat 2 (fld w 3 2),
    BitVec.ofNat 3 (fld w 5 3)⟩
def rdVote (w : Nat) : OpVote :=
  ⟨gOf w, (match fld w 3 2 with
    | 0 => .mask (dstAt w (bit w 7))
    | 1 => .count (dstAt w (bit w 7))
    | 2 => .rank (dstAt w (bit w 7))
    | _ => .test (bit w 7) (pD w)), pA w, tyOf w, BitVec.ofNat 2 (fld w 5 2)⟩
def rdRedux (w : Nat) : OpRedux := ⟨gOf w, dstAt w (bit w 7), srcA w, tyOf w, ccOf w⟩
def rdScan (w : Nat) : OpScan := ⟨gOf w, vD w, srcA w, tyOf w, ccOf w, bit w 7⟩
def rdPlop (w : Nat) : OpPlop := ⟨gOf w, pD w, pA w, pB w, tyOf w, ccOf w⟩
def rdMatch (w : Nat) : OpMatch := ⟨gOf w, vD w, srcA w, tyOf w, bit w 3⟩
def rdPack (w : Nat) : OpPack := ⟨gOf w, vD w, srcA w, srcB w, vC w, tyOf w, bit w 3⟩
def rdUnpk (w : Nat) : OpUnpk := ⟨gOf w, vD w, srcA w, vC w, tyOf w⟩
def rdElect (w : Nat) : OpElect := ⟨gOf w, pD w, oscAt w 35, tyOf w, bit w 3⟩
def rdZ (w : Nat) : OpZ := ⟨gOf w⟩
def rdK (w : Nat) : OpK := ⟨gOf w, vB w⟩
def rdMem (w : Nat) : OpMem :=
  ⟨gOf w, vD w, vA w, recM w, BitVec.ofNat 24 (fld w 8 24), ordM w, scpM w, wM w⟩
def rdRec (w : Nat) : OpRec :=
  ⟨gOf w, pD w, oscAt w 35, recM w, BitVec.ofNat 24 (fld w 8 24), ordM w, scpM w⟩
def rdSpad (w : Nat) : OpSpad :=
  ⟨gOf w, vD w, vA w, recM w, BitVec.ofNat 24 (fld w 8 24), ordM w, scpM w, wM w⟩
def rdCmcast (w : Nat) : OpCmcast :=
  ⟨gOf w, vD w, vA w, recM w, BitVec.ofNat 8 (fld w 24 8), BitVec.ofNat 16 (fld w 8 16), ordM w, scpM w, wM w⟩
def rdAtom (w : Nat) : OpAtom :=
  ⟨gOf w, vD w, vA w, recM w, BitVec.ofNat 8 (fld w 24 8), BitVec.ofNat 4 (fld w 20 4), BitVec.ofNat 12 (fld w 8 12),
    ordM w, scpM w⟩
def rdAtomo (w : Nat) : OpAtomo :=
  ⟨gOf w, vD w, vA w, recM w, BitVec.ofNat 8 (fld w 24 8), BitVec.ofNat 6 (fld w 14 6), ordM w, scpM w⟩
def rdBox (w : Nat) (sto : Bool) : OpBox :=
  ⟨gOf w, qD w, pA w, sB w, optIf (bit w 3) (vC w), !sto && bit w 4, if sto then BitVec.ofNat 2 (fld w 5 2) else 0⟩
def rdBoxS (w : Nat) : OpBoxS := ⟨gOf w, qD w, pA w, immS w⟩
def rdTile (w : Nat) : OpTile :=
  ⟨gOf w, BitVec.ofNat 4 (fld w 43 4), pA w, oscAt w 27, vC w, bit w 3, bit w 4, bit w 5, bit w 0⟩
def rowAt (w : Nat) : RowSel := if bit w 3 then .scalar (sB w) else .const (vB w) (vC w)
def rdQ (w : Nat) : OpQ := ⟨gOf w, qD w, sA w, tyOf w, BitVec.ofNat 3 (fld w 3 3)⟩

/-- The instruction of a word in an immediate layout. -/
def extractImm (opc w : Nat) : Option Instr :=
  match opc with
  | 0x00 => some (.iaddImm (rdRRI w)) | 0x01 => some (.isubImm (rdRRI w)) | 0x04 => some (.imulImm (rdRRI w))
  | 0x09 => some (.iminIImm (rdRRS w)) | 0x0A => some (.iminNImm (rdRRS w)) | 0x0B => some (.imaxIImm (rdRRS w))
  | 0x0C => some (.imaxNImm (rdRRS w)) | 0x0E => some (.iaddsImm (rdRRS w)) | 0x0F => some (.isubsImm (rdRRS w))
  | 0x10 => some (.andImm (rdRRI w)) | 0x11 => some (.orImm (rdRRI w)) | 0x12 => some (.xorImm (rdRRI w))
  | 0x13 => some (.andnImm (rdRRI w)) | 0x14 => some (.shlImm (rdRRI w)) | 0x15 => some (.shrImm (rdRRI w))
  | 0x16 => some (.sarImm (rdRRI w)) | 0x17 => some (.bfxImm (rdRRS w)) | 0x1B => some (.icmpImm (rdCmpS w))
  | 0x20 => some (.faddImm (rdFS w)) | 0x21 => some (.fsubImm (rdFS w)) | 0x22 => some (.fmulImm (rdFS w))
  | 0x24 => some (.fminImm (rdFS w)) | 0x25 => some (.fmaxImm (rdFS w)) | 0x26 => some (.fcmpImm (rdFCmpS w))
  | 0x41 => some (.movi (rdMovI w))
  | 0x86 => some (.feinit ⟨gOf w, optIf (bit w 1) (sA w), BitVec.ofNat 16 (fld w 3 16), BitVec.ofNat 16 (fld w 19 16)⟩)
  | 0xA0 => some (.cpboxImm (rdBoxS w)) | 0xA1 => some (.cpstbImm (rdBoxS w))
  | 0xA2 => some (.cpidxImm ⟨gOf w, BitVec.ofNat 4 (fld w 3 4), pA w, vD w, immS w⟩)
  | 0xA3 => some (.cpssImm ⟨gOf w, qD w, sA w, BitVec.ofNat 8 (fld w 19 8)⟩)
  | 0xA4 => some (.cpfillImm ⟨gOf w, qD w, sA w, immS w, bit w 7⟩)
  | 0xC0 => some (.shape ⟨gOf w, sD w, immS w, tyOf w, BitVec.ofNat 2 (fld w 5 2)⟩)
  | _ => none

/-- The instruction of a word in the register, memory or branch layout. -/
def extractReg (opc w : Nat) : Option Instr :=
  match opc with
  | 0x00 => some (.iadd (rdRRR w)) | 0x01 => some (.isub (rdRRR w)) | 0x02 => some (.iaddc (rdRRP w))
  | 0x03 => some (.isubb (rdRRP w)) | 0x04 => some (.imul (rdRRR w)) | 0x05 => some (.imulhI (rdRRR w))
  | 0x06 => some (.imulhN (rdRRR w)) | 0x07 => some (.imad (rdRRRR w)) | 0x08 => some (.imadw (rdRRRR w))
  | 0x09 => some (.iminI (rdRRR w)) | 0x0A => some (.iminN (rdRRR w)) | 0x0B => some (.imaxI (rdRRR w))
  | 0x0C => some (.imaxN (rdRRR w)) | 0x0D => some (.iabs (rdRR w)) | 0x0E => some (.iadds (rdRRR w))
  | 0x0F => some (.isubs (rdRRR w)) | 0x10 => some (.and (rdRRR w)) | 0x11 => some (.or (rdRRR w))
  | 0x12 => some (.xor (rdRRR w)) | 0x13 => some (.andn (rdRRR w)) | 0x14 => some (.shl (rdRRR w))
  | 0x15 => some (.shr (rdRRR w)) | 0x16 => some (.sar (rdRRR w)) | 0x17 => some (.bfx (rdRRR w))
  | 0x18 => some (.bfi (rdRRRR w)) | 0x19 => some (.popc (rdRR w)) | 0x1A => some (.clz (rdRR w))
  | 0x1B => some (.icmp (rdCmp w))
  | 0x20 => some (.fadd (rdF3 w)) | 0x21 => some (.fsub (rdF3 w)) | 0x22 => some (.fmul (rdF3 w))
  | 0x23 => some (.ffma (rdF4 w)) | 0x24 => some (.fmin (rdF3 w)) | 0x25 => some (.fmax (rdF3 w))
  | 0x26 => some (.fcmp (rdFCmp w)) | 0x27 => some (.fclass (rdF2 w)) | 0x28 => some (.frcp (rdF2 w))
  | 0x29 => some (.frsq (rdF2 w)) | 0x2A => some (.fsqrt (rdF2 w)) | 0x2B => some (.fexp2 (rdF2 w))
  | 0x2C => some (.flog2 (rdF2 w)) | 0x2D => some (.fsin (rdF2 w)) | 0x2E => some (.fcos (rdF2 w))
  | 0x2F => some (.fcvt (rdFCvt w)) | 0x30 => some (.fcvti (rdCvt1 w)) | 0x31 => some (.icvtf (rdCvt1 w))
  | 0x32 => some (.fdot2 (rdF4 w)) | 0x33 => some (.had (rdHad w)) | 0x34 => some (.qnt (rdQnt w))
  | 0x35 => some (.dqnt (rdF3 w)) | 0x36 => some (.fscale (rdF3 w)) | 0x37 => some (.cmul (rdCMul w))
  | 0x40 => some (.mov (rdRR w)) | 0x42 => some (.movs (rdMovS w)) | 0x43 => some (.movri (rdMovR w))
  | 0x44 => some (.movrw (rdMovR w)) | 0x45 => some (.srd (rdSRd w)) | 0x46 => some (.swr (rdSWr w))
  | 0x47 => some (.shfl (rdShfl w)) | 0x48 => some (.vote (rdVote w)) | 0x49 => some (.redux (rdRedux w))
  | 0x4A => some (.scan (rdScan w)) | 0x4B => some (.plop (rdPlop w)) | 0x4C => some (.sel (rdRRP w))
  | 0x4D => some (.prmt (rdRRRR w)) | 0x4E => some (.matchL (rdMatch w)) | 0x4F => some (.pack (rdPack w))
  | 0x50 => some (.unpk (rdUnpk w)) | 0x51 => some (.elect (rdElect w))
  | 0x60 => some (.bra ⟨gOf w, immI w⟩)
  | 0x61 => some (.brx ⟨gOf w, srcA w, pB w⟩)
  | 0x62 => some (.call ⟨gOf w, vD w, immI w⟩)
  | 0x63 => some (.ret ⟨gOf w, srcA w⟩)
  | 0x64 => some (.wsync ⟨gOf w, optIf (bit w 3) (sA w)⟩)
  | 0x65 => some (.exit (rdZ w)) | 0x66 => some (.nop (rdZ w)) | 0x67 => some (.pause (rdZ w))
  | 0x68 => some (.trap (rdK w)) | 0x69 => some (.bkpt (rdK w)) | 0x6A => some (.rfe (rdZ w))
  | 0x6B => some (.bsync ⟨gOf w, vA w, optIf (bit w 3) (sB w)⟩)
  | 0x6C => some (.barv ⟨gOf w, optIf (bit w 4) (vD w), vA w, optIf (bit w 3) (sB w)⟩)
  | 0x6D => some (.bwait ⟨gOf w, vA w, srcB w⟩)
  | 0x6E => some (.bexpect ⟨gOf w, vA w, sB w⟩)
  | 0x6F => some (.cbar ⟨gOf w, BitVec.ofNat 2 (fld w 3 2)⟩)
  | 0x70 => some (.launch ⟨gOf w, sD w, sA w⟩)
  | 0x71 => some (.hintnext (rdZ w)) | 0x72 => some (.waitpred (rdZ w))
  | 0x73 => some (.fork ⟨gOf w, qD w, immI w⟩)
  | 0x74 => some (.rdv (rdZ w))
  | 0x75 => some (.loop ⟨gOf w, vD w, sA w, oscAt w 27, oscAt w 19⟩)
  | 0x76 => some (.endl (rdZ w)) | 0x77 => some (.endp (rdZ w))
  | 0x80 => some (.ld (rdMem w)) | 0x81 => some (.st (rdMem w)) | 0x82 => some (.lds (rdSpad w))
  | 0x83 => some (.sts (rdSpad w)) | 0x84 => some (.ldfe (rdSpad w)) | 0x85 => some (.stf (rdSpad w))
  | 0x87 => some (.ldw (rdMem w)) | 0x88 => some (.stw (rdMem w)) | 0x89 => some (.atom (rdAtom w))
  | 0x8A => some (.atoms (rdAtom w)) | 0x8B => some (.atomo (rdAtomo w)) | 0x8C => some (.cas (rdAtom w))
  | 0x8D => some (.cass (rdAtom w))
  | 0x8E => some (.fence ⟨gOf w, BitVec.ofNat 2 (fld w 3 2), Scope.ofCode (fld w 5 3)⟩)
  | 0x8F => some (.cmcast (rdCmcast w))
  | 0x90 => some (.migrq ⟨gOf w, vD w, srcA w, optIf (bit w 3) (sB w)⟩)
  | 0x91 => some (.tinv ⟨gOf w, sD w, sA w, sB w, sC w⟩)
  | 0x92 => some (.recld (rdRec w)) | 0x93 => some (.recst (rdRec w))
  | 0xA0 => some (.cpbox (rdBox w false)) | 0xA1 => some (.cpstb (rdBox w true))
  | 0xA2 => some (.cpidx ⟨gOf w, qD w, pA w, srcB w, sC w⟩)
  | 0xA3 => some (.cpss ⟨gOf w, qD w, sA w, sB w, optIf (bit w 3) (vC w)⟩)
  | 0xA4 => some (.cpfill ⟨gOf w, qD w, sA w, sB w, bit w 7⟩)
  | 0xA5 => some (.qfence ⟨gOf w, BitVec.ofNat 10 (fld w 3 10)⟩)
  | 0xA6 => some (.cqwait ⟨gOf w, qD w, oscAt w 27⟩)
  | 0xA7 => some (.cvjoin ⟨gOf w, pD w, vB w⟩) | 0xA8 => some (.cvleave (rdK w)) | 0xA9 => some (.cvld (rdMem w))
  | 0xAA => some (.msend ⟨gOf w, sD w, srcA w, sB w, sC w, bit w 3⟩)
  | 0xAB => some (.mrecv ⟨gOf w, sD w, sA w, sB w, sC w⟩)
  | 0xAC => some (.mtest ⟨gOf w, sD w, sA w⟩) | 0xAD => some (.mcancel ⟨gOf w, pD w, sA w⟩)
  | 0xAE => some (.coll ⟨gOf w, sD w, sA w, pB w, sC w⟩) | 0xAF => some (.cwait ⟨gOf w, sA w⟩)
  | 0xC1 => some (.tld (rdTile w)) | 0xC2 => some (.tst (rdTile w)) | 0xC3 => some (.wbld (rdTile w))
  | 0xC4 => some (.mma ⟨gOf w, BitVec.ofNat 6 (fld w 43 6), BitVec.ofNat 4 (fld w 35 4), BitVec.ofNat 4 (fld w 27 4),
      vC w, tyOf w, bit w 3, bit w 0⟩)
  | 0xC5 => some (.scacc ⟨gOf w, BitVec.ofNat 6 (fld w 43 6), BitVec.ofNat 6 (fld w 35 6), sB w, bit w 0⟩)
  | 0xC6 => some (.accrd ⟨gOf w, vD w, BitVec.ofNat 6 (fld w 35 6), rowAt w⟩)
  | 0xC7 => some (.accwr ⟨gOf w, vA w, BitVec.ofNat 6 (fld w 43 6), rowAt w⟩)
  | 0xC8 => some (.accz ⟨gOf w, BitVec.ofNat 6 (fld w 43 6), bit w 0⟩)
  | 0xC9 => some (.aballoc ⟨gOf w, pD w, BitVec.ofNat 6 (fld w 35 6), vB w⟩)
  | 0xCA => some (.abfree ⟨gOf w, BitVec.ofNat 6 (fld w 35 6)⟩)
  | 0xCB => some (.cred ⟨gOf w, sA w⟩)
  | 0xCC => some (.qgate (rdQ w))
  | 0xCD => if fld w 3 2 = 1 then some (.qmapRd ⟨gOf w, sD w, BitVec.ofNat 4 (fld w 35 4), vB w, tyOf w⟩)
            else some (.qmapSet ⟨gOf w, qD w, sA w, tyOf w, BitVec.ofNat 3 (fld w 3 2)⟩)
  | _ => none

/-! ## Pair words -/

/-- The findings of one slot (R138, R142); `base` is the word bit of slot bit 0. -/
def slotFindings (sop : Nat) (s : Slot) (base : Nat) : List Finding :=
  let i := s.imm.toNat
  let rr := [0, 2, 3, 5, 6, 7, 8, 9, 11, 13, 15, 19, 24, 25, 26, 27, 28, 36]
  let rmFloat := [29, 30, 31, 32]
  let rmPlain := [21, 22, 23, 33]
  if 48 ≤ sop then [(3, base + 25)]
  else if rr.contains sop then findIf (i % 512 != 0) 4 base
  else if rmFloat.contains sop then
    undefBits i 0x380 [6, 5, 4, 3, 2, 1, 0] |>.map (fun f => (f.1, base + f.2))
      |>.append (findIf (5 ≤ i / 128) 5 (base + 7))
  else if rmPlain.contains sop then undefBits i 0 [9, 8, 7, 6, 5, 4, 3, 2, 1, 0] |>.map (fun f => (f.1, base + f.2))
  else if sop == 20 then findIf (8 ≤ s.d.toNat) 4 (base + 19)
  else if 43 ≤ sop && sop ≤ 46 then findIf (i != 0 || s.d != 0 || s.s != 0) 4 base
  else if sop == 47 then
    findIf (s.d != 0) 4 (base + 16) ++ findIf (s.s != 0) 4 (base + 10) ++ findIf (128 ≤ i) 4 (base + 7)
      ++ findIf (96 ≤ i % 128) 5 base
  else []

/-- The slot whose bits begin at word bit `base` (R137). -/
def slotAt (w base : Nat) : Slot :=
  ⟨BitVec.ofNat 3 (fld w (base + 22) 3), BitVec.ofNat 6 (fld w (base + 16) 6), BitVec.ofNat 6 (fld w (base + 10) 6),
    BitVec.ofNat 10 (fld w base 10)⟩

def sopAt (w base : Nat) : Nat := fld w (base + 25) 6

/-- The check of a pair word: slot 0 before slot 1 within a reason, then the pairing rules (R139, R143). -/
def checkPair (w : Nat) : Option Reject :=
  let s0 := slotAt w 31
  let s1 := slotAt w 0
  let o0 := sopAt w 31
  let o1 := sopAt w 0
  firstFinding (slotFindings o0 s0 31 ++ slotFindings o1 s1 0
    ++ findIf (!okPairing o0 s0.d.toNat o1 s1.d.toNat) 7 0xFF)

/-- The pair instruction headed by short opcode `sop`. -/
def pairInstr (sop : Nat) (own : Slot) (other : OtherSlot) : Option Instr :=
  match sop with
  | 0 => some (.pairIaddRr own other)
  | 1 => some (.pairIaddRi own other)
  | 2 => some (.pairIsubRr own other)
  | 3 => some (.pairImulRr own other)
  | 4 => some (.pairImulRi own other)
  | 5 => some (.pairIminIRr own other)
  | 6 => some (.pairImaxIRr own other)
  | 7 => some (.pairIminNRr own other)
  | 8 => some (.pairImaxNRr own other)
  | 9 => some (.pairAndRr own other)
  | 10 => some (.pairAndRi own other)
  | 11 => some (.pairOrRr own other)
  | 12 => some (.pairOrRi own other)
  | 13 => some (.pairXorRr own other)
  | 14 => some (.pairXorRi own other)
  | 15 => some (.pairAndnRr own other)
  | 16 => some (.pairShlRi own other)
  | 17 => some (.pairShrRi own other)
  | 18 => some (.pairSarRi own other)
  | 19 => some (.pairShlRr own other)
  | 20 => some (.pairIcmpPc own other)
  | 21 => some (.pairPopcRm own other)
  | 22 => some (.pairClzRm own other)
  | 23 => some (.pairIabsRm own other)
  | 24 => some (.pairFaddRr own other)
  | 25 => some (.pairFsubRr own other)
  | 26 => some (.pairFmulRr own other)
  | 27 => some (.pairFminRr own other)
  | 28 => some (.pairFmaxRr own other)
  | 29 => some (.pairFrcpRm own other)
  | 30 => some (.pairFrsqRm own other)
  | 31 => some (.pairFexp2Rm own other)
  | 32 => some (.pairFlog2Rm own other)
  | 33 => some (.pairMovRm own other)
  | 34 => some (.pairMoviMi own other)
  | 35 => some (.pairIsubRi own other)
  | 36 => some (.pairIaddsRr own other)
  | 37 => some (.pairLdMr own other)
  | 38 => some (.pairStMr own other)
  | 39 => some (.pairLdsMs own other)
  | 40 => some (.pairStsMs own other)
  | 41 => some (.pairLdfeMf own other)
  | 42 => some (.pairBraBr own other)
  | 43 => some (.pairExitZ own other)
  | 44 => some (.pairNopZ own other)
  | 45 => some (.pairPauseZ own other)
  | 46 => some (.pairWsyncZ own other)
  | 47 => some (.pairBsyncZb own other)
  | _ => none

/-- Slot 1 heads the word where it is a control slot, which stands only there (R139); slot 0 heads it otherwise. -/
def extractPair (w : Nat) : Option Instr :=
  let o0 := sopAt w 31
  let o1 := sopAt w 0
  if sopControl o1 then pairInstr o1 (slotAt w 0) ⟨BitVec.ofNat 6 o0, slotAt w 31⟩
  else pairInstr o0 (slotAt w 31) ⟨BitVec.ofNat 6 o1, slotAt w 0⟩

/-! ## The decoder -/

/-- The instruction of a 64-bit word, or the reason why it is none (R125, R143). -/
def decodeNat (w : Nat) : Except Reject Instr :=
  if bit w 63 then
    if bit w 62 then .error ⟨1, 62⟩
    else match checkPair w with
      | some r => .error r
      | none => match extractPair w with
        | some i => .ok i
        | none => .error ⟨3, 56⟩
  else match checkFull w with
    | some r => .error r
    | none =>
      let opc := fld w 55 8
      match (if bit w 2 && (specM opc w).isNone && (specB opc w).isNone then extractImm opc w else extractReg opc w) with
      | some i => .ok i
      | none => .error ⟨2, 55⟩

def decode (w : DWord) : Except Reject Instr := decodeNat w.toNat

/-- Eight bytes as a little-endian number (R125). -/
def leNat (bs : List Byte) : Nat := bs.foldr (fun b n => b.toNat + 256 * n) 0

/-- The `n` bytes of a number, least significant first. -/
def leBytes (n v : Nat) : List Byte := (List.range n).map (fun i => BitVec.ofNat 8 (v / 256 ^ i))

/-- Decoding from bytes: the first eight are the word, the rest is returned. -/
def decodeBytes (bs : List Byte) : Option (Except Reject Instr × List Byte) :=
  if bs.length < 8 then none else some (decodeNat (leNat (bs.take 8)), bs.drop 8)

/-- The instruction that the decoder reads from the word whose bits are `w`, laid out as the hardware stores it: eight
bytes, little-endian. The bits at and above `nbits` are zero. -/
def decodeTableWord (nbits w : Nat) : Option Instr :=
  match decodeBytes (leBytes 8 (w % 2 ^ min nbits 64)) with
  | some (.ok i, _) => some i
  | _ => none

/-! ## The encoder -/

/-- The register number of a source. -/
def Src.num : Src → Nat
  | .v i => i.toNat
  | .s i => i.toNat
/-- The broadcast bit of a source, at word bit `pos` (R129). -/
def Src.bc (s : Src) (pos : Nat) : Nat :=
  match s with
  | .v _ => 0
  | .s _ => 2 ^ pos
def Dst.num : Dst → Nat
  | .v i => i.toNat
  | .s i => i.toNat
def Dst.sd (d : Dst) (pos : Nat) : Nat :=
  match d with
  | .v _ => 0
  | .s _ => 2 ^ pos
def oscN : Option SReg → Nat
  | none => 128
  | some s => s.toNat
def optN (n : Nat) : Option (BitVec n) → Nat
  | none => 0
  | some b => b.toNat
def flag (b : Bool) (pos : Nat) : Nat := if b then 2 ^ pos else 0

/-- Bits [63:35] of a full word (Table 2). -/
def encHead (opc : Nat) (g : Guard) (d a : Nat) : Nat :=
  opc * 2 ^ 55 + g.pg.toNat * 2 ^ 52 + flag g.pn 51 + d * 2 ^ 43 + a * 2 ^ 35
/-- The register layout: `m` holds the modifiers and broadcast bits at their word bits. -/
def encR (opc : Nat) (g : Guard) (d a b c m : Nat) : Nat := encHead opc g d a + b * 2 ^ 27 + c * 2 ^ 19 + m
/-- The S layout, with the I bit. -/
def encS (opc : Nat) (g : Guard) (d a imm m : Nat) : Nat := encHead opc g d a + imm * 2 ^ 19 + m + 4
/-- The I32 layout, with the I bit. -/
def encI (opc : Nat) (g : Guard) (d a imm m : Nat) : Nat := encHead opc g d a + imm * 2 ^ 3 + 4 + m
/-- The memory layout: `mid` is bits [31:8]. -/
def encM (opc : Nat) (g : Guard) (d a sel mid : Nat) (o : Ord) (s : Scope) (w : Nat) : Nat :=
  encHead opc g d a + sel * 2 ^ 32 + mid * 2 ^ 8 + o.code * 2 ^ 5 + s.code * 2 ^ 2 + w
/-- The branch layout. -/
def encB (opc : Nat) (g : Guard) (d : Nat) (offw : BitVec 32) : Nat := encHead opc g d 0 + offw.toNat * 2 ^ 3

def tyN (t : Fmt) : Nat := t.code * 2 ^ 10
def rmN (r : Rm) : Nat := r.code * 2 ^ 7

def enRRR (opc : Nat) (o : OpRRR) : Nat := encR opc o.g o.d.toNat o.a.num o.b.num 0 (o.a.bc 17 + o.b.bc 16 + tyN o.ty)
def enRRI (opc : Nat) (o : OpRRI) : Nat := encI opc o.g o.d.toNat o.a.num o.imm.toNat (o.a.bc 1)
def enRRS (opc : Nat) (o : OpRRS) : Nat := encS opc o.g o.d.toNat o.a.num o.imm.toNat (o.a.bc 17 + tyN o.ty)
def enRRP (opc : Nat) (o : OpRRP) : Nat :=
  encR opc o.g o.d.toNat o.a.num o.b.num o.c.toNat (o.a.bc 17 + o.b.bc 16 + tyN o.ty)
def enRRRR (opc : Nat) (o : OpRRRR) : Nat :=
  encR opc o.g o.d.toNat o.a.num o.b.num o.c.num (o.a.bc 17 + o.b.bc 16 + o.c.bc 15 + tyN o.ty)
def enRR (opc : Nat) (o : OpRR) : Nat := encR opc o.g o.d.toNat o.a.num 0 0 (o.a.bc 17 + tyN o.ty)
def enF2 (opc : Nat) (o : OpF2) : Nat := encR opc o.g o.d.toNat o.a.num 0 0 (o.a.bc 17 + tyN o.ty + rmN o.rm)
def enF3 (opc : Nat) (o : OpF3) : Nat :=
  encR opc o.g o.d.toNat o.a.num o.b.num 0 (o.a.bc 17 + o.b.bc 16 + tyN o.ty + rmN o.rm)
def enF4 (opc : Nat) (o : OpF4) : Nat :=
  encR opc o.g o.d.toNat o.a.num o.b.num o.c.num (o.a.bc 17 + o.b.bc 16 + o.c.bc 15 + tyN o.ty + rmN o.rm)
def enFS (opc : Nat) (o : OpFS) : Nat := encS opc o.g o.d.toNat o.a.num o.imm.toNat (o.a.bc 17 + tyN o.ty + rmN o.rm)
def enCmp (opc : Nat) (o : OpCmp) : Nat :=
  encR opc o.g o.d.toNat o.a.num o.b.num 0 (o.a.bc 17 + o.b.bc 16 + tyN o.ty + o.cc.toNat * 2 ^ 3)
def enCmpS (opc : Nat) (o : OpCmpS) : Nat :=
  encS opc o.g o.d.toNat o.a.num o.imm.toNat (o.a.bc 17 + tyN o.ty + o.cc.toNat * 2 ^ 3)
def enFCmp (opc : Nat) (o : OpFCmp) : Nat :=
  encR opc o.g o.d.toNat o.a.num o.b.num 0 (o.a.bc 17 + o.b.bc 16 + tyN o.ty + rmN o.rm + o.cc.toNat * 2 ^ 3)
def enFCmpS (opc : Nat) (o : OpFCmpS) : Nat :=
  encS opc o.g o.d.toNat o.a.num o.imm.toNat (o.a.bc 17 + tyN o.ty + rmN o.rm + o.cc.toNat * 2 ^ 3)
def enCvt1 (opc : Nat) (o : OpCvt1) : Nat :=
  encR opc o.g o.d.toNat o.a.num 0 o.src.toNat (o.a.bc 17 + tyN o.ty + rmN o.rm)
def enMovR (opc : Nat) (o : OpMovR) : Nat := encR opc o.g o.d.toNat o.a.num o.k.toNat 0 (o.a.bc 17 + tyN o.ty)
def enZ (opc : Nat) (o : OpZ) : Nat := encR opc o.g 0 0 0 0 0
def enK (opc : Nat) (o : OpK) : Nat := encR opc o.g 0 0 o.n.toNat 0 0
def enMem (opc : Nat) (o : OpMem) : Nat :=
  encM opc o.g o.d.toNat o.a.toNat o.rk.toNat o.off.toNat o.ord o.scp o.w.toNat
def enRec (opc : Nat) (o : OpRec) : Nat := encM opc o.g o.d.toNat (oscN o.a) o.rk.toNat o.off.toNat o.ord o.scp 0
def enSpad (opc : Nat) (o : OpSpad) : Nat :=
  encM opc o.g o.d.toNat o.a.toNat o.nw.toNat o.off.toNat o.ord o.scp o.w.toNat
def enAtom (opc : Nat) (o : OpAtom) : Nat :=
  encM opc o.g o.d.toNat o.a.toNat o.sel.toNat (o.b.toNat * 2 ^ 16 + o.aop.toNat * 2 ^ 12 + o.off.toNat) o.ord o.scp 0
def enBox (opc : Nat) (o : OpBox) : Nat :=
  encR opc o.g o.q.toNat o.rk.toNat o.b.toNat (optN 8 o.bar)
    (flag o.bar.isSome 3 + flag o.mc 4 + o.op.toNat * 2 ^ 5)
def enBoxS (opc : Nat) (o : OpBoxS) : Nat := encS opc o.g o.q.toNat o.rk.toNat o.imm.toNat 0
def enTile (opc : Nat) (o : OpTile) : Nat :=
  encR opc o.g o.t.toNat o.rk.toNat (oscN o.b) o.k.toNat (flag o.rb 3 + flag o.sc 4 + flag o.mx 5 + flag o.mq 0)
def rowB : RowSel → Nat
  | .const r _ => r.toNat
  | .scalar s => s.toNat
def rowC : RowSel → Nat
  | .const _ c => c.toNat
  | .scalar _ => 0
def rowM : RowSel → Nat
  | .const _ _ => 0
  | .scalar _ => 8
def movSA : MovSSrc → Nat
  | .scalar i => i.toNat
  | .lane v _ => v.toNat
  | .imm _ => 0
/-- Bits [34:19] and the form bits of MOVS (R161). -/
def movSM : MovSSrc → Nat
  | .scalar _ => 2 ^ 17
  | .lane _ l => l.toNat * 2 ^ 19
  | .imm i => i.toNat * 2 ^ 19 + 8
def shflB : ShflB → Nat
  | .reg s => s.num * 2 ^ 27 + s.bc 16
  | .const k => k.toNat * 2 ^ 27 + 2 ^ 8
def voteD : VoteDst → Nat
  | .mask d | .count d | .rank d => d.num
  | .test _ p => p.toNat
/-- MODE and SD of VOTE (R167). -/
def voteM : VoteDst → Nat
  | .mask d => d.sd 7
  | .count d => 8 + d.sd 7
  | .rank d => 16 + d.sd 7
  | .test sd _ => 24 + flag sd 7

/-- A pair word from its two slots: slot 0 at bit 31, slot 1 at bit 0 (R137). -/
def slotN (sop : Nat) (s : Slot) : Nat :=
  sop * 2 ^ 25 + s.g.toNat * 2 ^ 22 + s.d.toNat * 2 ^ 16 + s.s.toNat * 2 ^ 10 + s.imm.toNat
def encPair (sop : Nat) (own : Slot) (other : OtherSlot) : Nat :=
  if sopControl sop then 2 ^ 63 + slotN other.sop.toNat other.slot * 2 ^ 31 + slotN sop own
  else 2 ^ 63 + slotN sop own * 2 ^ 31 + slotN other.sop.toNat other.slot

/-- The word of an instruction, as a number; an event or a host command has none. -/
def encodeNat : Instr → Option Nat
  | .iadd o => some (enRRR 0x00 o)
  | .iaddImm o => some (enRRI 0x00 o)
  | .isub o => some (enRRR 0x01 o)
  | .isubImm o => some (enRRI 0x01 o)
  | .iaddc o => some (enRRP 0x02 o)
  | .isubb o => some (enRRP 0x03 o)
  | .imul o => some (enRRR 0x04 o)
  | .imulImm o => some (enRRI 0x04 o)
  | .imulhI o => some (enRRR 0x05 o)
  | .imulhN o => some (enRRR 0x06 o)
  | .imad o => some (enRRRR 0x07 o)
  | .imadw o => some (enRRRR 0x08 o)
  | .iminI o => some (enRRR 0x09 o)
  | .iminIImm o => some (enRRS 0x09 o)
  | .iminN o => some (enRRR 0x0A o)
  | .iminNImm o => some (enRRS 0x0A o)
  | .imaxI o => some (enRRR 0x0B o)
  | .imaxIImm o => some (enRRS 0x0B o)
  | .imaxN o => some (enRRR 0x0C o)
  | .imaxNImm o => some (enRRS 0x0C o)
  | .iabs o => some (enRR 0x0D o)
  | .iadds o => some (enRRR 0x0E o)
  | .iaddsImm o => some (enRRS 0x0E o)
  | .isubs o => some (enRRR 0x0F o)
  | .isubsImm o => some (enRRS 0x0F o)
  | .and o => some (enRRR 0x10 o)
  | .andImm o => some (enRRI 0x10 o)
  | .or o => some (enRRR 0x11 o)
  | .orImm o => some (enRRI 0x11 o)
  | .xor o => some (enRRR 0x12 o)
  | .xorImm o => some (enRRI 0x12 o)
  | .andn o => some (enRRR 0x13 o)
  | .andnImm o => some (enRRI 0x13 o)
  | .shl o => some (enRRR 0x14 o)
  | .shlImm o => some (enRRI 0x14 o)
  | .shr o => some (enRRR 0x15 o)
  | .shrImm o => some (enRRI 0x15 o)
  | .sar o => some (enRRR 0x16 o)
  | .sarImm o => some (enRRI 0x16 o)
  | .bfx o => some (enRRR 0x17 o)
  | .bfxImm o => some (enRRS 0x17 o)
  | .bfi o => some (enRRRR 0x18 o)
  | .popc o => some (enRR 0x19 o)
  | .clz o => some (enRR 0x1A o)
  | .icmp o => some (enCmp 0x1B o)
  | .icmpImm o => some (enCmpS 0x1B o)
  | .fadd o => some (enF3 0x20 o)
  | .faddImm o => some (enFS 0x20 o)
  | .fsub o => some (enF3 0x21 o)
  | .fsubImm o => some (enFS 0x21 o)
  | .fmul o => some (enF3 0x22 o)
  | .fmulImm o => some (enFS 0x22 o)
  | .ffma o => some (enF4 0x23 o)
  | .fmin o => some (enF3 0x24 o)
  | .fminImm o => some (enFS 0x24 o)
  | .fmax o => some (enF3 0x25 o)
  | .fmaxImm o => some (enFS 0x25 o)
  | .fcmp o => some (enFCmp 0x26 o)
  | .fcmpImm o => some (enFCmpS 0x26 o)
  | .fclass o => some (enF2 0x27 o)
  | .frcp o => some (enF2 0x28 o)
  | .frsq o => some (enF2 0x29 o)
  | .fsqrt o => some (enF2 0x2A o)
  | .fexp2 o => some (enF2 0x2B o)
  | .flog2 o => some (enF2 0x2C o)
  | .fsin o => some (enF2 0x2D o)
  | .fcos o => some (enF2 0x2E o)
  | .fcvt o => some (encR 0x2F o.g o.d.toNat o.a.num o.n.toNat o.src.toNat (o.a.bc 17 + tyN o.ty + rmN o.rm + o.scf.toNat * 2 ^ 3))
  | .fcvti o => some (enCvt1 0x30 o)
  | .icvtf o => some (enCvt1 0x31 o)
  | .fdot2 o => some (enF4 0x32 o)
  | .had o => some (encR 0x33 o.g o.d.toNat o.a.toNat 0 0 (tyN o.ty + rmN o.rm + o.len.toNat * 2 ^ 3 + flag o.nrm 5))
  | .qnt o => some (encR 0x34 o.g o.d.toNat o.a.toNat o.b.num 0 (o.b.bc 16 + tyN o.ty + rmN o.rm))
  | .dqnt o => some (enF3 0x35 o)
  | .fscale o => some (enF3 0x36 o)
  | .cmul o => some (encR 0x37 o.g o.d.toNat o.a.num o.b.num ((o.c.map Src.num).getD 0)
      (o.a.bc 17 + o.b.bc 16 + (o.c.map (Src.bc · 15)).getD 0 + tyN o.ty + rmN o.rm + flag o.cj 3 + flag o.c.isSome 4))
  | .mov o => some (enRR 0x40 o)
  | .movi o => some (encI 0x41 o.g o.d.toNat 0 o.imm.toNat 0)
  | .movs o => some (encR 0x42 o.g o.d.toNat (movSA o.src) 0 0 (movSM o.src + tyN o.ty))
  | .movri o => some (enMovR 0x43 o)
  | .movrw o => some (enMovR 0x44 o)
  | .srd o => some (encR 0x45 o.g o.d.num o.x.toNat 0 0 (tyN o.ty + flag o.hi 3 + o.d.sd 4))
  | .swr o => some (encR 0x46 o.g o.x.toNat o.a.num 0 0 (o.a.bc 17 + tyN o.ty))
  | .shfl o => some (encR 0x47 o.g o.d.toNat o.a.num 0 0 (shflB o.b + o.a.bc 17 + tyN o.ty + o.mode.toNat * 2 ^ 3 + o.segw.toNat * 2 ^ 5))
  | .vote o => some (encR 0x48 o.g (voteD o.d) o.a.toNat 0 0 (voteM o.d + tyN o.ty + o.qual.toNat * 2 ^ 5))
  | .redux o => some (encR 0x49 o.g o.d.num o.a.num 0 0 (o.a.bc 17 + tyN o.ty + o.op.toNat * 2 ^ 3 + o.d.sd 7))
  | .scan o => some (encR 0x4A o.g o.d.toNat o.a.num 0 0 (o.a.bc 17 + tyN o.ty + o.op.toNat * 2 ^ 3 + flag o.exc 7))
  | .plop o => some (encR 0x4B o.g o.d.toNat o.a.toNat o.b.toNat 0 (tyN o.ty + o.lut.toNat * 2 ^ 3))
  | .sel o => some (enRRP 0x4C o)
  | .prmt o => some (enRRRR 0x4D o)
  | .matchL o => some (encR 0x4E o.g o.d.toNat o.a.num 0 0 (o.a.bc 17 + tyN o.ty + flag o.msk 3))
  | .pack o => some (encR 0x4F o.g o.d.toNat o.a.num o.b.num o.j.toNat (o.a.bc 17 + o.b.bc 16 + tyN o.ty + flag o.sat 3))
  | .unpk o => some (encR 0x50 o.g o.d.toNat o.a.num 0 o.j.toNat (o.a.bc 17 + tyN o.ty))
  | .elect o => some (encR 0x51 o.g o.d.toNat (oscN o.a) 0 0 (tyN o.ty + flag o.hi 3))
  | .bra o => some (encB 0x60 o.g 0 o.offw)
  | .brx o => some (encR 0x61 o.g 0 o.a.num o.rk.toNat 0 (o.a.bc 17))
  | .call o => some (encB 0x62 o.g o.d.toNat o.offw)
  | .ret o => some (encR 0x63 o.g 0 o.a.num 0 0 (o.a.bc 17))
  | .wsync o => some (encR 0x64 o.g 0 (optN 6 o.m) 0 0 (flag o.m.isSome 3))
  | .exit o => some (enZ 0x65 o)
  | .nop o => some (enZ 0x66 o)
  | .pause o => some (enZ 0x67 o)
  | .trap o => some (enK 0x68 o)
  | .bkpt o => some (enK 0x69 o)
  | .rfe o => some (enZ 0x6A o)
  | .bsync o => some (encR 0x6B o.g 0 o.b.toNat (optN 6 o.cnt) 0 (flag o.cnt.isSome 3))
  | .barv o => some (encR 0x6C o.g (optN 8 o.d) o.b.toNat (optN 6 o.cnt) 0 (flag o.cnt.isSome 3 + flag o.d.isSome 4))
  | .bwait o => some (encR 0x6D o.g 0 o.b.toNat o.ph.num 0 (o.ph.bc 16))
  | .bexpect o => some (encR 0x6E o.g 0 o.b.toNat o.n.toNat 0 0)
  | .cbar o => some (encR 0x6F o.g 0 0 0 0 (o.mode.toNat * 2 ^ 3))
  | .launch o => some (encR 0x70 o.g o.d.toNat o.a.toNat 0 0 0)
  | .hintnext o => some (enZ 0x71 o)
  | .waitpred o => some (enZ 0x72 o)
  | .fork o => some (encB 0x73 o.g o.q.toNat o.offw)
  | .rdv o => some (enZ 0x74 o)
  | .loop o => some (encR 0x75 o.g o.len.toNat o.a.toNat (oscN o.b) (oscN o.c) 0)
  | .endl o => some (enZ 0x76 o)
  | .endp o => some (enZ 0x77 o)
  | .ld o => some (enMem 0x80 o)
  | .st o => some (enMem 0x81 o)
  | .lds o => some (enSpad 0x82 o)
  | .sts o => some (enSpad 0x83 o)
  | .ldfe o => some (enSpad 0x84 o)
  | .stf o => some (enSpad 0x85 o)
  | .feinit o => some (encI 0x86 o.g 0 (optN 6 o.a) (o.cnt.toNat * 2 ^ 16 + o.addr.toNat) (flag o.a.isSome 1))
  | .ldw o => some (enMem 0x87 o)
  | .stw o => some (enMem 0x88 o)
  | .atom o => some (enAtom 0x89 o)
  | .atoms o => some (enAtom 0x8A o)
  | .atomo o => some (encM 0x8B o.g o.d.toNat o.a.toNat o.rk.toNat (o.b.toNat * 2 ^ 16 + o.sk.toNat * 2 ^ 6) o.ord o.scp 0)
  | .cas o => some (enAtom 0x8C o)
  | .cass o => some (enAtom 0x8D o)
  | .fence o => some (encR 0x8E o.g 0 0 0 0 (o.kind.toNat * 2 ^ 3 + o.scp.code * 2 ^ 5))
  | .cmcast o => some (encM 0x8F o.g o.d.toNat o.a.toNat o.nw.toNat (o.mask.toNat * 2 ^ 16 + o.off.toNat) o.ord o.scp o.w.toNat)
  | .migrq o => some (encR 0x90 o.g o.d.toNat o.a.num (optN 6 o.ctx) 0 (o.a.bc 17 + flag o.ctx.isSome 3))
  | .tinv o => some (encR 0x91 o.g o.d.toNat o.a.toNat o.b.toNat o.c.toNat 0)
  | .recld o => some (enRec 0x92 o)
  | .recst o => some (enRec 0x93 o)
  | .cpbox o => some (enBox 0xA0 o)
  | .cpboxImm o => some (enBoxS 0xA0 o)
  | .cpstb o => some (enBox 0xA1 o)
  | .cpstbImm o => some (enBoxS 0xA1 o)
  | .cpidx o => some (encR 0xA2 o.g o.q.toNat o.rk.toNat o.b.num o.c.toNat (o.b.bc 16))
  | .cpidxImm o => some (encS 0xA2 o.g o.d.toNat o.rk.toNat o.imm.toNat (o.q.toNat * 2 ^ 3))
  | .cpss o => some (encR 0xA3 o.g o.q.toNat o.a.toNat o.b.toNat (optN 8 o.bar) (flag o.bar.isSome 3))
  | .cpssImm o => some (encS 0xA3 o.g o.q.toNat o.a.toNat o.mask.toNat 0)
  | .cpfill o => some (encR 0xA4 o.g o.q.toNat o.a.toNat o.b.toNat 0 (flag o.fe 7))
  | .cpfillImm o => some (encS 0xA4 o.g o.q.toNat o.a.toNat o.imm.toNat (flag o.fe 7))
  | .qfence o => some (encR 0xA5 o.g 0 0 0 0 (o.qm.toNat * 2 ^ 3))
  | .cqwait o => some (encR 0xA6 o.g o.q.toNat 0 (oscN o.t) 0 0)
  | .cvjoin o => some (encR 0xA7 o.g o.d.toNat 0 o.k.toNat 0 0)
  | .cvleave o => some (enK 0xA8 o)
  | .cvld o => some (enMem 0xA9 o)
  | .msend o => some (encR 0xAA o.g o.d.toNat o.a.num o.b.toNat o.c.toNat (o.a.bc 17 + flag o.mc 3))
  | .mrecv o => some (encR 0xAB o.g o.d.toNat o.a.toNat o.b.toNat o.c.toNat 0)
  | .mtest o => some (encR 0xAC o.g o.d.toNat o.a.toNat 0 0 0)
  | .mcancel o => some (encR 0xAD o.g o.d.toNat o.a.toNat 0 0 0)
  | .coll o => some (encR 0xAE o.g o.d.toNat o.a.toNat o.rk.toNat o.c.toNat 0)
  | .cwait o => some (encR 0xAF o.g 0 o.a.toNat 0 0 0)
  | .shape o => some (encS 0xC0 o.g o.d.toNat 0 o.imm.toNat (tyN o.ty + o.spn.toNat * 2 ^ 5))
  | .tld o => some (enTile 0xC1 o)
  | .tst o => some (enTile 0xC2 o)
  | .wbld o => some (enTile 0xC3 o)
  | .mma o => some (encR 0xC4 o.g o.d.toNat o.a.toNat o.b.toNat o.blk.toNat (tyN o.ty + flag o.wb 3 + flag o.mq 0))
  | .scacc o => some (encR 0xC5 o.g o.d.toNat o.a.toNat o.b.toNat 0 (flag o.mq 0))
  | .accrd o => some (encR 0xC6 o.g o.v.toNat o.h.toNat (rowB o.row) (rowC o.row) (rowM o.row))
  | .accwr o => some (encR 0xC7 o.g o.h.toNat o.v.toNat (rowB o.row) (rowC o.row) (rowM o.row))
  | .accz o => some (encR 0xC8 o.g o.d.toNat 0 0 0 (flag o.mq 0))
  | .aballoc o => some (encR 0xC9 o.g o.d.toNat o.a.toNat o.n.toNat 0 0)
  | .abfree o => some (encR 0xCA o.g 0 o.a.toNat 0 0 0)
  | .cred o => some (encR 0xCB o.g 0 o.a.toNat 0 0 0)
  | .qgate o => some (encR 0xCC o.g o.q.toNat o.a.toNat 0 0 (tyN o.ty + o.mode.toNat * 2 ^ 3))
  | .qmapSet o => some (encR 0xCD o.g o.q.toNat o.a.toNat 0 0 (tyN o.ty + o.mode.toNat * 2 ^ 3))
  | .qmapRd o => some (encR 0xCD o.g o.d.toNat o.q.toNat o.k.toNat 0 (tyN o.ty + 8))
  | .pairIaddRr own other => some (encPair 0 own other)
  | .pairIaddRi own other => some (encPair 1 own other)
  | .pairIsubRr own other => some (encPair 2 own other)
  | .pairImulRr own other => some (encPair 3 own other)
  | .pairImulRi own other => some (encPair 4 own other)
  | .pairIminIRr own other => some (encPair 5 own other)
  | .pairImaxIRr own other => some (encPair 6 own other)
  | .pairIminNRr own other => some (encPair 7 own other)
  | .pairImaxNRr own other => some (encPair 8 own other)
  | .pairAndRr own other => some (encPair 9 own other)
  | .pairAndRi own other => some (encPair 10 own other)
  | .pairOrRr own other => some (encPair 11 own other)
  | .pairOrRi own other => some (encPair 12 own other)
  | .pairXorRr own other => some (encPair 13 own other)
  | .pairXorRi own other => some (encPair 14 own other)
  | .pairAndnRr own other => some (encPair 15 own other)
  | .pairShlRi own other => some (encPair 16 own other)
  | .pairShrRi own other => some (encPair 17 own other)
  | .pairSarRi own other => some (encPair 18 own other)
  | .pairShlRr own other => some (encPair 19 own other)
  | .pairIcmpPc own other => some (encPair 20 own other)
  | .pairPopcRm own other => some (encPair 21 own other)
  | .pairClzRm own other => some (encPair 22 own other)
  | .pairIabsRm own other => some (encPair 23 own other)
  | .pairFaddRr own other => some (encPair 24 own other)
  | .pairFsubRr own other => some (encPair 25 own other)
  | .pairFmulRr own other => some (encPair 26 own other)
  | .pairFminRr own other => some (encPair 27 own other)
  | .pairFmaxRr own other => some (encPair 28 own other)
  | .pairFrcpRm own other => some (encPair 29 own other)
  | .pairFrsqRm own other => some (encPair 30 own other)
  | .pairFexp2Rm own other => some (encPair 31 own other)
  | .pairFlog2Rm own other => some (encPair 32 own other)
  | .pairMovRm own other => some (encPair 33 own other)
  | .pairMoviMi own other => some (encPair 34 own other)
  | .pairIsubRi own other => some (encPair 35 own other)
  | .pairIaddsRr own other => some (encPair 36 own other)
  | .pairLdMr own other => some (encPair 37 own other)
  | .pairStMr own other => some (encPair 38 own other)
  | .pairLdsMs own other => some (encPair 39 own other)
  | .pairStsMs own other => some (encPair 40 own other)
  | .pairLdfeMf own other => some (encPair 41 own other)
  | .pairBraBr own other => some (encPair 42 own other)
  | .pairExitZ own other => some (encPair 43 own other)
  | .pairNopZ own other => some (encPair 44 own other)
  | .pairPauseZ own other => some (encPair 45 own other)
  | .pairWsyncZ own other => some (encPair 46 own other)
  | .pairBsyncZb own other => some (encPair 47 own other)
  | .warpSelection | .entryIssue | .controlTransferResolve | .retirement | .pauseDemotionExpiry | .mergeReadArrival
  | .sliceWriteArrival | .pendingAccessReturn | .replyArrival | .orderedContributionArrival | .convoyHoldExpiry
  | .reelCommandStart | .reelPieceComplete | .reelCommandComplete | .cpidxDeferredFetch | .retentionEntry
  | .retentionExit | .retentionTimeoutExit | .matrixCommandStart | .matrixCommandComplete | .cruRowMerge
  | .sequencerWord | .ampCommandStart | .ampExchangeArrival | .ampExchangeComplete | .ampProbFold
  | .ampCommandComplete | .launchSlotWrite | .systemChannelEntry | .placement | .evictedWarpSave | .warpResume
  | .launchCompletion | .feedsRaise | .haltArrival | .agentStop | .migrationPiece | .migrationComplete
  | .shootdownInvalidateArrival | .shootdownAck | .shootdownTimeout | .shootdownComplete | .uncorrectableError
  | .tagmsgArrival | .tagmsgLifetimeDrop | .sendReplyArrival | .generationUpdate | .rankReportArrival
  | .collectiveStart | .stepSend | .stepRecv | .stepRrs | .stepCopy | .stepWait | .stepSignal | .stepQsend
  | .stepLoop | .stepEndl | .stepEnd | .collGrantArrival | .collPieceArrival | .signalTokenArrival | .peerLost
  | .winchFailure | .tilicLaneSpare | .tilicPortFailure | .semaphoreRead | .semaphoreWrite | .pcreate | .pdestroy
  | .ccreate | .cend | .cset | .croot | .cstand | .cpool | .cspan | .wbind | .sdtime | .shoot | .csave | .crest
  | .attest | .rank | .linkmap | .unknownCommand | .commandCompletion | .portReset | .powerOnStart | .modeWrite
  | .envelopeSwitch | .junctionOvertemp | .dramOvertemp | .thresholdWrite | .counterClear | .correctedError
  | .rowSpareRemap | .telemetryRefresh | .registerWrite | .routerOutputArbitration | .tilicFlitResend
  | .hostLinkRetrain | .generationReuseDelayExpiry => none

/-- The 64-bit word of an instruction. -/
def encode (i : Instr) : Option DWord := (encodeNat i).map (BitVec.ofNat 64)

end Sys2Proof
end

