-- ==== Sys2Proof/Machine/Number.lean ====
section
/-!
DEFINITION. Machine/Number.lean: the number formats of chapter 6 as exact values, the rounding of an exact value to a format,
and exact arithmetic between the two.
-/

namespace Sys2Proof.Machine

/-- An exact value: NaN, an infinity, or (−1)^neg × num × 2^exp; a zero keeps its sign (R104). -/
inductive XVal
  | nan
  | inf (neg : Bool)
  | fin (neg : Bool) (num : Nat) (exp : Int)
  deriving DecidableEq, Repr

def XVal.zero (neg : Bool) : XVal := .fin neg 0 0
def XVal.isZero : XVal → Bool
  | .fin _ n _ => n == 0
  | _ => false
def XVal.isNan : XVal → Bool
  | .nan => true
  | _ => false
def XVal.neg? : XVal → Bool
  | .nan => false
  | .inf n => n
  | .fin n _ _ => n
def XVal.flip : XVal → XVal
  | .nan => .nan
  | .inf n => .inf !n
  | .fin n a e => .fin (!n) a e
def XVal.ofInt (i : Int) : XVal := .fin (i < 0) i.natAbs 0

/-- A floating-point or scale format (Table 1, R104, R106): exponent and mantissa bits, bias, whether codes with the largest
exponent encode infinities and NaNs, whether magnitude 0x7F alone is NaN (f8e4), whether there is a sign, and the canonical
NaN. -/
structure FSpec where
  e : Nat
  m : Nat
  bias : Nat
  ieee : Bool
  top : Bool
  signed : Bool
  qnan : Nat
  deriving DecidableEq, Repr

def specF64 : FSpec := ⟨11, 52, 1023, true, false, true, 0x7FF8000000000000⟩
def specF32 : FSpec := ⟨8, 23, 127, true, false, true, 0x7FC00000⟩
def specF16 : FSpec := ⟨5, 10, 15, true, false, true, 0x7E00⟩
def specBf16 : FSpec := ⟨8, 7, 127, true, false, true, 0x7FC0⟩
def specF8e5 : FSpec := ⟨5, 2, 15, true, false, true, 0x7E⟩
def specF8e4 : FSpec := ⟨4, 3, 7, false, true, true, 0x7F⟩
def specF4 : FSpec := ⟨2, 1, 1, false, false, true, 0⟩
def specE3m5 : FSpec := ⟨3, 5, 3, false, false, false, 0⟩

end Sys2Proof.Machine

namespace Sys2Proof

/-- The floating-point format of a format code. -/
def Fmt.fspec : Fmt → Option Machine.FSpec
  | .f64 => some Machine.specF64
  | .f32 => some Machine.specF32
  | .f16 => some Machine.specF16
  | .bf16 => some Machine.specBf16
  | .f8e5 => some Machine.specF8e5
  | .f8e4 => some Machine.specF8e4
  | .f4 => some Machine.specF4
  | _ => none

/-- The bit width of an element format (R54). -/
def Fmt.bits : Fmt → Nat
  | .n8 | .i8 | .f8e4 | .f8e5 => 8
  | .n16 | .i16 | .f16 | .bf16 => 16
  | .n32 | .i32 | .f32 => 32
  | .n64 | .i64 | .f64 | .c64 => 64
  | .i4 | .f4 => 4
  | .c128 => 128

end Sys2Proof

namespace Sys2Proof.Machine

def FSpec.width (f : FSpec) : Nat := f.e + f.m + (if f.signed then 1 else 0)
def FSpec.signBit (f : FSpec) : Nat := 2 ^ (f.e + f.m)
/-- The exponent of the least significant bit of a subnormal. -/
def FSpec.minExp (f : FSpec) : Int := 1 - (f.bias : Int) - f.m
/-- The largest finite magnitude code. -/
def FSpec.maxCode (f : FSpec) : Nat :=
  if f.ieee then (2 ^ f.e - 1) * 2 ^ f.m - 1 else if f.top then 2 ^ (f.e + f.m) - 2 else 2 ^ (f.e + f.m) - 1
def FSpec.infCode (f : FSpec) : Nat := (2 ^ f.e - 1) * 2 ^ f.m
def FSpec.sgn (f : FSpec) (neg : Bool) : Nat := if neg && f.signed then f.signBit else 0

/-- The value of an encoding (R104 to R106). -/
def FSpec.value (f : FSpec) (c : Nat) : XVal :=
  let neg := f.signed && c / f.signBit % 2 == 1
  let mag := c % f.signBit
  let ex := mag / 2 ^ f.m
  let ma := mag % 2 ^ f.m
  if f.ieee && ex == 2 ^ f.e - 1 then (if ma = 0 then .inf neg else .nan)
  else if f.top && mag == 2 ^ (f.e + f.m) - 1 then .nan
  else if ex = 0 then .fin neg ma f.minExp
  else .fin neg (ma + 2 ^ f.m) (f.minExp + ex - 1)

/-- The value of an E8M0 scale code (R106). -/
def e8m0Value (c : Nat) : XVal := if c % 256 = 255 then .nan else .fin false 1 ((c % 256 : Nat) - 127 : Int)

/-- An encoding that is subnormal and not zero. -/
def FSpec.isSub (f : FSpec) (c : Nat) : Bool :=
  let mag := c % f.signBit
  mag / 2 ^ f.m == 0 && mag != 0

/-! ## Rounding (R109, R110) -/

/-- ⌊log2 (num / den)⌋ for positive numbers. -/
def ilog (num den : Nat) : Int :=
  let d : Int := (Nat.log2 num : Int) - Nat.log2 den
  let lt : Bool := if 0 ≤ d then num < den * 2 ^ d.toNat else num * 2 ^ (-d).toNat < den
  if lt then d - 1 else d

/-- The quotient and remainder of num/den × 2^exp by 2^t, as (q, r, d) with remainder r/d. -/
def scaleDiv (num den : Nat) (exp t : Int) : Nat × Nat × Nat :=
  let sh := exp - t
  let n := if 0 ≤ sh then num * 2 ^ sh.toNat else num
  let d := if 0 ≤ sh then den else den * 2 ^ (-sh).toNat
  (n / d, n % d, d)

/-- The magnitude code below or at |x| = num/den × 2^exp with its remainder (R110's a and f). -/
def FSpec.floorCode (f : FSpec) (num den : Nat) (exp : Int) : Nat × Nat × Nat :=
  if num = 0 then (0, 0, 1)
  else
    let t := max (ilog num den + exp - f.m) f.minExp
    let (q, r, d) := scaleDiv num den exp t
    ((t - f.minExp).toNat * 2 ^ f.m + q, r, d)

/-- Does the mode move a value with remainder r/d, above a code of parity `odd`, away from zero? -/
def roundsUp (mode : Rm) (neg odd : Bool) (r d : Nat) : Bool :=
  match mode with
  | .rne => d < 2 * r || (d == 2 * r && odd)
  | .rtz => false
  | .rup => !neg && r != 0
  | .rdn => neg && r != 0
  | .sr => false

/-- The encoding delivered for a value beyond the largest finite one (Table 5), and whether it is an infinity. -/
def FSpec.overflow (f : FSpec) (mode : Rm) (neg : Bool) : Nat × Bool :=
  if !f.ieee then (f.sgn neg + f.maxCode, false)
  else
    let toInf := match mode with
      | .rne => true
      | .rtz | .sr => false
      | .rup => !neg
      | .rdn => neg
    if toInf then (f.sgn neg + f.infCode, true) else (f.sgn neg + f.maxCode, false)

/-- The encoding of a finite rational value, and whether an infinity came from rounding it (R109, R113, R114). -/
def FSpec.roundRat (f : FSpec) (mode : Rm) (neg : Bool) (num den : Nat) (exp : Int) : Nat × Bool :=
  if neg && !f.signed then (0, false)
  else
    let (c, r, d) := f.floorCode num den exp
    let c' := if roundsUp mode neg (c % 2 == 1) r d then c + 1 else c
    if f.maxCode < c' then f.overflow mode neg else (f.sgn neg + c', false)

/-- The encoding of an infinity (Table 5). -/
def FSpec.ofInf (f : FSpec) (neg : Bool) : Nat :=
  if f.ieee then f.sgn neg + f.infCode else if neg && !f.signed then 0 else f.sgn neg + f.maxCode

/-- The encoding of a NaN; `neg` is the sign of the NaN converted (Table 5). -/
def FSpec.ofNan (f : FSpec) (neg : Bool) : Nat := if f.ieee then f.qnan else f.sgn neg + f.maxCode

/-- Round an exact value to a format (R109, R114), with the NaN sign `ns`, and whether an infinity came from rounding. -/
def FSpec.round (f : FSpec) (mode : Rm) (x : XVal) (ns : Bool := false) : Nat × Bool :=
  match x with
  | .nan => (f.ofNan ns, false)
  | .inf n => (f.ofInf n, false)
  | .fin n a e => f.roundRat mode n a 1 e

/-- Stochastic rounding (R110): the result if no draw is needed, or the code of a and the threshold t. -/
def FSpec.stochastic (f : FSpec) (neg : Bool) (num : Nat) (exp : Int) : Nat × Option Nat :=
  if neg && !f.signed then (0, none)
  else
    let (c, r, d) := f.floorCode num 1 exp
    if f.maxCode < c || (c == f.maxCode && r != 0) then (f.sgn neg + f.maxCode, none)
    else if r = 0 then (f.sgn neg + c, none)
    else (f.sgn neg + c, some (r * 65536 / d))

/-- An exact value rounded to an integer (R114). -/
def roundInt (mode : Rm) (neg : Bool) (num den : Nat) (exp : Int) : Int :=
  let (q, r, d) := scaleDiv num den exp 0
  let q' := if roundsUp mode neg (q % 2 == 1) r d then q + 1 else q
  if neg then -(q' : Int) else q'

/-! ## Exact arithmetic -/

/-- An exact finite value as an integer multiple of 2^t, for t at or below its exponent. -/
def mant (neg : Bool) (num : Nat) (e t : Int) : Int :=
  let m : Int := (num * 2 ^ (e - t).toNat : Nat)
  if neg then -m else m

/-- The exact sum; an exact zero has the sign IEEE 754 gives it in the mode. The flag is the invalid condition. -/
def addX (mode : Rm) (x y : XVal) : XVal × Bool :=
  match x, y with
  | .nan, _ => (.nan, false)
  | _, .nan => (.nan, false)
  | .inf a, .inf b => if a = b then (.inf a, false) else (.nan, true)
  | .inf a, .fin .. => (.inf a, false)
  | .fin .., .inf b => (.inf b, false)
  | .fin a m e, .fin b n f =>
    let t := min e f
    let s := mant a m e t + mant b n f t
    if s = 0 then (.zero (if m = 0 && n = 0 && a == b then a else mode == .rdn), false)
    else (.fin (s < 0) s.natAbs t, false)

/-- The exact product; the flag is the invalid condition. -/
def mulX (x y : XVal) : XVal × Bool :=
  match x, y with
  | .nan, _ => (.nan, false)
  | _, .nan => (.nan, false)
  | .inf a, .inf b => (.inf (a != b), false)
  | .inf a, .fin b n _ => if n = 0 then (.nan, true) else (.inf (a != b), false)
  | .fin a m _, .inf b => if m = 0 then (.nan, true) else (.inf (a != b), false)
  | .fin a m e, .fin b n f => (.fin (a != b) (m * n) (e + f), false)

/-- x × y + z, exact (R176); ∞ × 0 + c is invalid whatever c is. -/
def fmaX (mode : Rm) (x y z : XVal) : XVal × Bool :=
  let (p, i1) := mulX x y
  if i1 then (.nan, true) else addX mode p z

/-- The order of two values that are not NaN. -/
def cmpX (x y : XVal) : Ordering :=
  match x, y with
  | .inf a, .inf b => if a = b then .eq else if a then .lt else .gt
  | .inf a, _ => if a then .lt else .gt
  | _, .inf b => if b then .gt else .lt
  | .fin a m e, .fin b n f => compare (mant a m e (min e f)) (mant b n f (min e f))
  | .nan, _ => .eq
  | _, .nan => .eq

/-- FMIN and FMAX (R177): −0 below +0, one NaN gives the other operand. -/
def minMaxX (isMax : Bool) (x y : XVal) : XVal :=
  match x, y with
  | .nan, .nan => .nan
  | .nan, _ => y
  | _, .nan => x
  | _, _ =>
    match cmpX x y with
    | .lt => if isMax then y else x
    | .gt => if isMax then x else y
    | .eq => if x.neg? == isMax then y else x

/-- The exact sum of a list of values, left to right (used where every partial sum is exact). -/
def sumX (xs : List XVal) : XVal := xs.foldl (fun a x => (addX .rne a x).1) (.fin true 0 0)

/-! ## Flush mode (R112) -/

/-- Flush mode acts on this format. -/
def FSpec.flushes (f : FSpec) : Bool := f == specF32 || f == specBf16

/-- An input read under the flush mode. -/
def FSpec.input (f : FSpec) (flush : Bool) (c : Nat) : XVal :=
  if flush && f.flushes && f.isSub c then .zero (f.signed && c / f.signBit % 2 == 1) else f.value c

/-- A result written under the flush mode. -/
def FSpec.output (f : FSpec) (flush : Bool) (c : Nat) : Nat :=
  if flush && f.flushes && f.isSub c then c / f.signBit % 2 * f.signBit else c

/-! ## Roots and transcendental functions, in fixed point -/

/-- ⌊√n⌋, one bit at a time from the top. -/
def isqrt (n : Nat) : Nat :=
  (List.range (Nat.log2 n / 2 + 1)).reverse.foldl
    (fun r i => if (r + 2 ^ i) * (r + 2 ^ i) ≤ n then r + 2 ^ i else r) 0

/-- The fraction bits of the fixed-point functions. -/
def fxp : Nat := 512

/-- Σ z^(2k+1) / (2k+1), with alternating signs when `alt`, for z = num/den, in fixed point. -/
def atanSeries (alt : Bool) (num den terms : Nat) : Int :=
  ((List.range terms).foldl (fun (acc : Int × Int) k =>
    let (s, p) := acc
    let t := p / (2 * k + 1 : Nat)
    (if alt && k % 2 == 1 then s - t else s + t, p * (num * num : Nat) / (den * den : Nat)))
    ((0 : Int), (2 ^ fxp * num / den : Nat))).1

/-- ln 2 in fixed point. -/
def ln2Fx : Int := 2 * atanSeries false 1 3 170
/-- π in fixed point. -/
def piFx : Int := 16 * atanSeries true 1 5 115 - 4 * atanSeries true 1 239 40

/-- e^y for y in fixed point, 0 ≤ y < 1, by the series of y / 2^8 squared eight times. -/
def expFx (y : Int) : Int :=
  let z := y / 256
  let s := ((List.range 60).foldl (fun (acc : Int × Int) k =>
    (acc.1 + acc.2, acc.2 * z / 2 ^ fxp / (k + 1 : Nat))) ((0 : Int), (2 ^ fxp : Int))).1
  (List.range 8).foldl (fun a _ => a * a / 2 ^ fxp) s

/-- A finite value in fixed point, truncated towards −∞. -/
def toFx (neg : Bool) (num : Nat) (e : Int) : Int :=
  let sh := e + fxp
  let m : Int := if 0 ≤ sh then (num * 2 ^ sh.toNat : Nat) else (num / 2 ^ (-sh).toNat : Nat)
  if neg then -m else m

/-- e^x for a finite x at or below zero and above −256, or 2^x for `two`, as a rational (num, exp). -/
def expRat (two : Bool) (neg : Bool) (num : Nat) (e : Int) : Nat × Int :=
  let x := toFx neg num e
  let y := if two then x else x * 2 ^ fxp / ln2Fx
  let n := y / 2 ^ fxp
  let f := (y % 2 ^ fxp) * ln2Fx / 2 ^ fxp
  ((expFx f).toNat, n - fxp)

/-- ln of a positive finite value, in fixed point. -/
def lnFx (num : Nat) (e : Int) : Int :=
  let b := Nat.log2 num
  let one := 2 ^ b
  2 * atanSeries false (num - one) (num + one) 170 + ((b : Int) + e) * ln2Fx

/-- sin (`cosine` false) or cos of a finite value, in fixed point. -/
def sinFx (cosine neg : Bool) (num : Nat) (e : Int) : Int :=
  let tau := 2 * piFx
  let r := toFx neg num e % tau
  let r := if piFx < r then r - tau else r
  let r2 := r * r / 2 ^ fxp
  let start : Int := if cosine then 2 ^ fxp else r
  ((List.range 45).foldl (fun (acc : Int × Int) k =>
    let n : Nat := if cosine then (2 * k + 1) * (2 * k + 2) else (2 * k + 2) * (2 * k + 3)
    (acc.1 + acc.2, -(acc.2 * r2 / 2 ^ fxp) / (n : Int))) ((0 : Int), start)).1

/-- A fixed-point value rounded to f32 under RNE. -/
def roundFx32 (x : Int) : Nat := (specF32.roundRat .rne (x < 0) x.natAbs 1 (-(fxp : Int))).1

/-- The spacing of f32 values at a magnitude num/den × 2^exp, as an exponent of two. -/
def ulpExp32 (num : Nat) (exp : Int) : Int :=
  if num = 0 then specF32.minExp else max (ilog num 1 + exp - 23) specF32.minExp

/-- A finite value within 2^b of another, both exact.
Log entry 11 (DEDUCED). -/
def within (x y : XVal) (b : Int) : Bool :=
  match (addX .rne x y.flip).1 with
  | .fin _ n e => n = 0 || cmpX (.fin false n e) (.fin false 1 b) != .gt
  | _ => false

end Sys2Proof.Machine
end

