-- ==== Sys2Proof/Machine/Sparse.lean ====
section
/-!
DEFINITION. Machine/Sparse.lean: the one canonical form of every sparse table of the state: keys strictly rising, and no
entry equal to what an unlisted key reads as. Equal tables are equal lists.
-/

namespace Sys2Proof.Machine

/-- A sparse table: pairs of a key and a value, in rising order of the keys. -/
abbrev Tbl (α : Type) := List (Nat × α)

namespace Tbl

variable {α : Type}

/-- The value at a key; an unlisted key reads as `d`. -/
def get (d : α) : Tbl α → Nat → α
  | [], _ => d
  | (k, v) :: t, i => if i = k then v else if i < k then d else get d t i

/-- Insert or replace, keeping the keys rising. -/
def put : Tbl α → Nat → α → Tbl α
  | [], i, x => [(i, x)]
  | (k, v) :: t, i, x =>
    if i < k then (i, x) :: (k, v) :: t
    else if i = k then (i, x) :: t
    else (k, v) :: put t i x

/-- Remove a key. -/
def del : Tbl α → Nat → Tbl α
  | [], _ => []
  | (k, v) :: t, i => if i = k then t else if i < k then (k, v) :: t else (k, v) :: del t i

/-- Write a value; writing what an unlisted key reads as removes the entry. -/
def set [DecidableEq α] (d : α) (m : Tbl α) (i : Nat) (x : α) : Tbl α := if x = d then del m i else put m i x

/-- Every key is above `lo` and the keys rise strictly. -/
def risingFrom : Option Nat → Tbl α → Bool
  | _, [] => true
  | lo, (k, _) :: t => (match lo with | none => true | some l => l < k) && risingFrom (some k) t

/-- The canonical form. -/
def wf [DecidableEq α] (d : α) (m : Tbl α) : Bool := risingFrom none m && m.all (fun e => e.2 != d)

/-- The entries of the keys in `[lo, lo + n)`. -/
def slice (m : Tbl α) (lo n : Nat) : Tbl α := m.filter (fun e => lo ≤ e.1 && e.1 < lo + n)

/-- Drop the entries of the keys in `[lo, lo + n)`. -/
def clear (m : Tbl α) (lo n : Nat) : Tbl α := m.filter (fun e => !(lo ≤ e.1 && e.1 < lo + n))

/-- The optional value at a key. -/
def find? (m : Tbl α) (i : Nat) : Option α := (List.find? (fun e => e.1 = i) m).map (·.2)

end Tbl

/-! ## Lists of records named by a number -/

/-- Replace the records that `p` selects. -/
def updateWhere {α : Type} (p : α → Bool) (f : α → α) (l : List α) : List α := l.map (fun x => if p x then f x else x)

end Sys2Proof.Machine
end

