-- ==== Sys2Proof/Machine/State.lean ====
section
/-!
DEFINITION. Machine/State.lean: everything the spec gives the machine, as plain data. The machine is ONE package KX9-P4 or
one KX9-S1; hosts and peer packages are the world outside, and what they do arrives as events (`ev`, `agenda`).
Sparse tables (`Tbl`) are in the canonical form of Machine/Sparse.lean. A key that joins several numbers is their mixed-radix
number, given at each field.
-/

namespace Sys2Proof.Machine

/-! ## Why a step stops -/

/-- A fault: the machine itself stops. -/
inductive Fault
  /-- Raised by an instruction row executed outside a dispatched word, that is while `State.cur` names no entry. Never
  raised by `step`, which sets `cur` before it executes a word. Safe. -/
  | noEntry
  deriving DecidableEq, Repr

/-- A refusal: the row has no effect to give in this state. -/
inductive Refusal
  /-- Raised by an arm whose row has no meaning yet. Safe. -/
  | notModelled (mnemonic : String)
  /-- Raised by an event row in a state in which the spec's condition for that event does not hold, or whose operands name
  nothing. `step` executes such a row only when `agenda` asks for it. Safe. -/
  | notEnabled (event : String)
  deriving DecidableEq, Repr

/-! ## Traps and context faults as an operation reports them -/

/-- A warp trap: cause, faulting lanes, %trinfo, and %traddr of the lanes that have an address (R41, R306). -/
structure Trap where
  cause : Nat
  fmask : LaneMask
  info : Nat
  addr : Tbl DWord := []
  deriving DecidableEq, Repr

/-- A context fault: cause, the detecting agent's SRC, the lanes, the address and INFO of the origin record (R311, R314). -/
structure CFault where
  cause : Nat
  src : Nat := 1
  lmask : LaneMask := 0
  va : Nat := 0
  info : Nat := 0
  tcause : Nat := 0
  deriving DecidableEq, Repr

/-- A refusal of a word: a warp trap or a context fault. -/
inductive Stop
  | trap (t : Trap)
  | halt (h : CFault)
  deriving DecidableEq, Repr

/-! ## Warps -/

/-- What a thread waits in (R19), with what ends the wait. -/
inductive Wait
  | ready
  | wsync (mask : LaneMask)                     -- R199
  | bsync (bar : Nat) (phase : Word)            -- R207
  | bwait (bar : Nat) (phase : Word)            -- R207
  | ldfe (granules : List Nat)                  -- R226: core granule numbers
  | cvld (since : Nat)                          -- R84: the cycle in which the wait began
  | cqwait (q : Nat) (target : Word)            -- R244
  | cbar (phase : Word)                         -- R209
  | waitpred                                    -- R212
  | rdv                                         -- R216
  | qmapRd (q : Nat) (target : Nat)             -- R272: commands entered in the queue
  | cwait (ticket : Word)                       -- R250
  | tinv (sd : Nat)                             -- R237: the shoot-down waited for
  deriving DecidableEq, Repr

/-- A matrix configuration, as granted by SHAPE (R253). -/
structure Shape where
  m : Nat
  n : Nat
  k : Nat
  fmt : Fmt
  spn : Nat
  deriving DecidableEq, Repr

/-- The scales an f4 MMA keeps with a handle (R262): the M row scales, then the N column scales. -/
structure PlaneTag where
  sa : List Nat
  sb : List Nat
  deriving DecidableEq, Repr

/-- A bound accumulator handle (R258, R259): the core's banks, the step count, the plane tag of its banks, and whether the
last command of the warp that wrote it, in retirement order, was an f4 MMA (R263). -/
structure Handle where
  banks : List Nat
  steps : Word
  tag : Option PlaneTag
  tagRet : Bool
  deriving DecidableEq, Repr

/-- A warp's association with a convoy (R81): declaration, position, active or shed, member slot, last shed cause. -/
structure Assoc where
  decl : Nat
  pos : Nat
  active : Bool
  slot : Nat
  cause : Nat
  deriving DecidableEq, Repr

/-- One reorder entry (R20, R22): the word's address, the word, the group's lane mask, whether it has issued, once a control
transfer has resolved each lane's next program counter (R195), %ctxmode at its dispatch (R309), and a fault found before
its retirement, which is held with it (R24, R198). -/
structure RobEntry where
  pc : DWord
  word : DWord
  mask : LaneMask
  issued : Bool
  next : Option (Tbl DWord)
  mode : Word
  fault : Option Stop
  deriving DecidableEq, Repr

/-- How a warp leaves its slot (R305, R309, R315): its turn in the order of eviction, and its record's offset and length in the pool
and the address that the record is written at, as the settings stood when the eviction began. -/
structure Leave where
  turn : Nat
  off : Nat
  len : Nat
  addr : Nat
  deriving DecidableEq, Repr

/-- A warp in its slot (or evicted from it). Tables by lane read zero where unlisted; vector register r of lane l is at key
32 r + l; predicates p0 to p6 are lane masks (R29, R32). -/
structure Warp where
  wg : Nat                         -- the workgroup's number in `wgs`
  widx : Nat                       -- %warp
  lmask : LaneMask                 -- %lmask (R16)
  exited : LaneMask                -- R38
  pcs : Tbl DWord                  -- per thread, its oldest unretired instruction (R19, R25)
  waits : Tbl Wait                 -- R19
  arrived : LaneMask               -- the threads whose waiting instruction has made its arrival (R43)
  phases : Tbl Word                -- the phase recorded per thread by BSYNC and CBAR (R207, R209)
  arrSaved : LaneMask              -- the two fields above as they stood when the handler was entered (R43)
  phSaved : Tbl Word
  cbarRec : LaneMask               -- the threads with a CBAR phase recorded and not yet waited for (R209)
  cbarPh : Tbl Word                -- those phases
  opp : Tbl Nat                    -- R26: opportunities since dispatch, per thread
  selWait : Nat                    -- R27: cycles ready since dispatch
  demoted : Option Nat             -- R28: the cycle in which the demotion ends
  vregs : Tbl Word
  sregs : Tbl Word
  preds : Tbl LaneMask
  rngSeed : Word                   -- %rngseed (R110)
  rng : Tbl Word                   -- the generator state of each lane (R110)
  handles : Tbl Handle             -- a0 to a63, bound ones only (R258); the default of an unlisted handle is unbound
  shape : Option Shape             -- R253
  inHandler : Bool                 -- R40
  trcause : Word
  tramask : LaneMask
  trfmask : LaneMask
  trpc : DWord
  trpcv : Tbl DWord
  traddr : Tbl DWord
  trinfo : Word                    -- the trap registers (R41)
  assoc : Option Assoc             -- R81
  cvPass : Bool                    -- R85: the held CVLD issues without further check
  rob : List RobEntry              -- R22, oldest first
  forks : List Nat                 -- engine programs forked and not yet joined (R216)
  feeding : Bool                   -- R301
  evicting : Option Leave          -- R305
  deriving DecidableEq, Repr

/-! ## Workgroups, cluster-groups and launches -/

/-- A named barrier, or the cluster barrier (R205, R209). `tgt` is none while unset; ARR of a named barrier has 11 bits, that of
the cluster barrier 14. -/
structure Barrier where
  phase : Word
  arr : Nat
  tgt : Option Nat
  dflt : Bool
  bal : Word
  engine : Bool                    -- an engine arrived in the phase (R102)
  engines : List Word              -- the completed phases in which an engine arrived (R102)
  who : List Nat                   -- the threads that have arrived in the phase (R206)
  deriving DecidableEq, Repr

def Barrier.init : Barrier := ⟨0, 0, none, false, 0, false, [], []⟩

/-- A resident workgroup. -/
structure Wg where
  id : Nat
  launch : Nat                     -- the launch's number in `launches`
  cg : Nat                         -- cluster-group number c (R297)
  rank : Nat                       -- R67
  wg : DWord                       -- %wg
  base : DWord                     -- its lowest identifier
  core : Nat                       -- %core
  scrBase : Nat                    -- core byte address of its scratchpad (R48)
  warps : Nat                      -- its created warps
  exitedWarps : Nat
  bars : Tbl Barrier
  hinted : Bool                    -- R211
  entered : Tbl Nat                -- commands entered, by queue code (R244)
  done : Tbl Nat                   -- completed commands, by queue code (R61)
  deriving DecidableEq, Repr

/-- A cluster-group placed on a cluster, with its cluster barrier (R17, R209). -/
structure Cg where
  launch : Nat
  c : Nat
  cluster : Nat
  wgs : List Nat
  homes : Tbl (Nat × Nat)          -- by rank, a created workgroup's core and scrBase; kept when it is freed (R265)
  bar : Barrier
  deriving DecidableEq, Repr

/-- A lease entry (Table 4 of the launch chapter), in units of 128 KiB. -/
structure Lease where
  base : Nat
  size : Nat
  rw : Bool
  soft : Bool
  deriving DecidableEq, Repr

/-- A convoy declaration of a launch (R79). -/
structure CvDecl where
  srec : Nat
  slip : Nat
  hold : Nat
  quorum : Nat
  deriving DecidableEq, Repr

/-- The packet's scalar fields (R292). -/
structure Packet where
  entry : Nat
  arg : Nat
  cctr : Nat
  limit : Nat
  work : Nat
  res : Nat
  pred : Nat
  ltab : Nat
  leases : List Nat
  shapes : List Nat
  btab : Nat
  ctab : Nat
  deriving DecidableEq, Repr

/-- Where a packet came from: a host port, or a warp through LAUNCH, by its workgroup's number and %warp (R295). -/
inductive Source
  | host (port : Nat)
  | warp (wg widx : Nat)
  deriving DecidableEq, Repr

/-- How far a launch has come. -/
inductive LaunchState
  | queued                         -- R298
  | rejected (code : Nat)          -- R293
  | completed                      -- R296
  | discarded                      -- R313
  deriving DecidableEq, Repr

/-- A launch of a partition, from its entry into the system channel on. Tables by die index. -/
structure Launch where
  id : Nat
  part : Nat
  ctx : Nat                        -- context key, 8 × partition + number
  seq : Nat                        -- R295
  src : Source
  pk : Packet
  entry : Nat                      -- after the bucket match (R303)
  limit : Nat
  bucket : Option Nat
  leases : List Lease              -- inline and table entries (R326)
  convoys : List CvDecl            -- R79
  pred : Option Nat                -- predecessor's sequence number (R295)
  arrived : List Nat               -- by physical die, the die's time at its arrival (R298)
  placed : Tbl Nat                 -- cluster-groups placed, by die index
  released : Tbl Nat               -- cluster-groups released, by die index
  checked : Bool                   -- R300: hard ranges found resident
  hints : Nat                      -- workgroups hinted or freed (R211)
  raised : Tbl Bool                -- R301, by die index
  st : LaunchState
  recorded : Bool                  -- the completion record is written, or there is none (R296)
  deriving DecidableEq, Repr

/-! ## Engines -/

/-- A decoded buffer record with its continuation (R53, R55). -/
structure Rec where
  num : Nat
  base : Nat
  ext : List Nat                   -- EXT0 to EXT4 as read
  str : List Nat                   -- STR1 to STR4
  fmt : Fmt
  bnd : Nat
  cpol : Nat
  space : Nat
  pair : Bool
  peer : Nat
  deriving DecidableEq, Repr

/-- What a reel command does, with its operands captured at retirement (R62, R238 to R242). -/
inductive ReelOp
  | box (r : Rec) (saddr swz mask : Nat) (org : List Int) (size : List Nat) (bar : Option Nat)
  | stb (r : Rec) (saddr swz op : Nat) (org : List Int) (size : List Nat) (bar : Option Nat)
  | idx (r : Rec) (idxs : List Nat) (lanes : LaneMask) (blk list : Nat) (bar : Option Nat)
  | ss (addr len mask : Nat) (bar : Option Nat)
  | fill (addr len : Nat) (pat : Word) (fe : Bool)
  deriving DecidableEq, Repr

/-- What a matrix command does, with the bindings captured at retirement (R261): `tile` numbers a tile of the warp, `rows` the
rows of the box, `scr` the scale record; `banks` are the banks of handle `h`. -/
inductive MatOp
  | tld (r : Rec) (scr : Option Rec) (tile rows : Nat) (mx : Bool) (org0 org1 : Int)
  | tst (r : Rec) (scr : Option Rec) (tile rows : Nat) (org0 org1 : Int)
  | wbld (r : Rec) (scr : Option Rec) (tile : Nat) (org0 org1 : Int)
  | mma (h : Nat) (banks : List Nat) (ta tb blk : Nat) (wb : Bool)
  | scacc (h : Nat) (banks : List Nat) (a : Nat) (plane : List Nat) (band : Word)
  | accz (h : Nat) (banks : List Nat)
  deriving DecidableEq, Repr

/-- Where an engine command came from: the workgroup, the warp's core and slot, the issuing word's address, its opcode and
the engine program it belongs to. -/
structure Issuer where
  wg : Nat
  core : Nat
  slot : Nat
  pc : DWord
  opc : Nat
  prog : Option Nat
  ctx : Nat
  seq : Nat
  mode : Word                      -- %ctxmode at its dispatch (R309)
  deriving DecidableEq, Repr

/-- A reel command in its queue (R60, R66): the pieces performed, and for CPIDX the outcome of each lane so far (R71). -/
structure ReelCmd where
  id : Nat
  core : Nat
  q : Nat
  by' : Issuer
  op : ReelOp
  cuts : List Nat                  -- the walk number at which each piece begins (R66)
  started : Bool
  piece : Nat                      -- the first piece not performed
  after : List Nat                 -- QFENCE: commands to complete first (R103)
  landed : List Nat                -- CPIDX: lanes in landing order
  walk : List (List (Nat × Nat × Nat))   -- CPIDX: the pieces not performed, each a list of parts of blocks: lane, first unit,
                                   -- one after the last
  deferred : List (Nat × List (Nat × Nat))   -- CPIDX: lanes whose page is awaited, with the pieces that their blocks still lack
  status : Tbl Nat                 -- CPIDX: two-bit codes (R71)
  deriving DecidableEq, Repr

/-- A matrix command in its queue (R261), with its pieces or K steps. -/
structure MatCmd where
  id : Nat
  core : Nat
  q : Nat
  by' : Issuer
  shape : Option Shape
  op : MatOp
  started : Bool
  after : List Nat
  cuts : List Nat                  -- where each piece or K step begins (R257, R261)
  piece : Nat                      -- the first piece or K step not performed
  deriving DecidableEq, Repr

/-- A merge command of a cluster reduction unit (R265, R266). -/
structure CruCmd where
  id : Nat
  cluster : Nat
  by' : Issuer
  src : Nat
  dst : Nat
  rows : Nat
  dcol : Nat
  srcs : List (Nat × Nat)          -- core and scrBase of the listed workgroups, in ascending core number
  fin : Bool
  row : Nat                        -- rows performed
  deriving DecidableEq, Repr

/-- A QFENCE that still waits for commands (R103, R243). -/
structure QFence where
  core : Nat
  mask : Nat
  pend : List Nat
  deriving DecidableEq, Repr

/-- An engine program on a sequencer (R213 to R215). -/
structure Seqr where
  id : Nat
  core : Nat
  mat : Bool
  by' : Issuer
  pc : DWord
  lmask : LaneMask                 -- the forking warp's launched mask
  sregs : Tbl Word                 -- the snapshot
  nsc : Nat                        -- declared scalars
  shape : Option Shape
  handles : Tbl Handle             -- bindings at FORK (R261)
  loops : List (DWord × Nat × Option Nat × Option Nat)   -- start, count left, B and C of LOOP, innermost first
  cmds : List Nat                  -- commands issued and not yet completed
  bwait : Option (Nat × Word)      -- stopped in BWAIT
  deriving DecidableEq, Repr

/-- The amplitude state of a context on one die (R268, R269). -/
structure QMap where
  base : Nat
  l : Nat
  db : Nat
  rb : Nat
  rbase : Nat
  c128 : Bool
  perm : List Nat
  seq : Nat                        -- the command sequence number
  deriving DecidableEq, Repr

/-- What an amplitude command does (R271, R273). -/
inductive AmpOp
  | setMap (m : QMap)
  | gate (mode addr : Nat) (t c : List Nat) (cval val : Nat) (c128 : Bool)
  deriving DecidableEq, Repr

/-- How far an amplitude command has come (R276, R278, R281): in an exchange, the pieces sent and received; in its gate, the pieces
performed; in a sum, also the sum so far; `refused` says that it raised a context fault when it started (R274). -/
inductive AmpStage
  | waiting
  | exchanging (xidx sent got : Nat)
  | applying (piece : Nat)
  | summing (piece : Nat) (acc : Option DWord)
  | summed (sum : DWord)
  | done
  | refused
  deriving DecidableEq, Repr

/-- An amplitude command in its queue (R279). -/
structure AmpCmd where
  id : Nat
  die : Nat
  q : Nat
  by' : Issuer
  op : AmpOp
  stage : AmpStage
  seq : Nat                        -- the command sequence number (R277)
  map : Option QMap                -- the map the command works on, from its start
  mat : List Byte                  -- the matrix or diagonal, read at the start (R274)
  grants : Nat                     -- the pieces that a partner package has granted for its exchange (R374)
  deriving DecidableEq, Repr

/-- A piece of an exchange between the queues `q` of two dies of the package (R276, R277, R281). -/
structure AmpMsg where
  src : Nat
  dst : Nat
  q : Nat
  ctx : Nat
  seq : Nat
  ty : Nat
  fp : Nat
  idx : Nat
  data : List Byte
  deriving DecidableEq, Repr

/-- Grants of a partner package that have come before the exchange that they are for (R374): the die and queue that they came to, the
command's sequence number, the index of its exchange, and how many. -/
structure AmpGrant where
  ctx : Nat
  die : Nat
  q : Nat
  seq : Nat
  xidx : Nat
  n : Nat
  deriving DecidableEq, Repr

/-! ## Memory traffic -/

/-- A read request on its way (R76, R343). -/
structure ReadReq where
  id : Nat
  ctx : Nat
  agent : Nat                      -- the requesting agent's key: core, 1000 + die for an amplitude engine, 2000 + port for a winch,
                                   -- 4000 + port for a Tilic ingress agent
  die : Nat                        -- the agent's die
  line : Nat                       -- physical line address ÷ 128
  mir : Option Nat                 -- physical line address ÷ 128 of the mirror copy
  sent : Bool                      -- it has reached its slice and stands in an entry there (R345)
  acc : Option Nat                 -- the pending access it joined
  replied : Option Nat             -- its reply is on its way, with its turn among the replies (R341)
  deriving DecidableEq, Repr

/-- A pending access at a slice (R76). -/
structure Pending where
  id : Nat
  line : Nat
  reqs : List Nat
  dirty : Bool                     -- a write was accepted after its creation
  deriving DecidableEq, Repr

/-- A write that has retired and has not reached its home slice (R96). -/
structure InFlight where
  id : Nat
  die : Nat                        -- the writer's die
  agent : Nat
  ctx : Nat
  pa : Nat
  bytes : List Byte
  mir : Option Nat                 -- physical address of the mirror copy
  unit : Bool                      -- with the other writes of its number it makes a block and its scale (R94)
  deriving DecidableEq, Repr

/-- An ATOMO contribution on its way to, or waiting at, its home slice (R231 to R233). -/
structure Contrib where
  id : Nat
  by' : Issuer
  lane : Nat
  die : Nat
  pa : Nat
  va : Nat
  fmt : Fmt
  key : Nat
  n : Nat
  val : Nat
  waiting : Bool
  mir : Option Nat
  widx : Nat                       -- %warp of its thread
  so : Bool                        -- ordered as an access to an SO page (R97)
  deriving DecidableEq, Repr

/-- An open ordered sequence at a slice (R232). -/
structure OpenSeq where
  pa : Nat
  die : Nat                        -- the home's die, or for a place off the package that of the first contributor
  ctx : Nat
  next : Nat
  n : Nat
  deriving DecidableEq, Repr

/-- The rights that a last-page register keeps (R326, R328): a covering range is writable; a covering range is hard. -/
structure Rights where
  rw : Bool
  hard : Bool
  deriving DecidableEq, Repr

/-- A cached translation (R328): level 0 a thread's last-page register, 1 a core's TLB, 2 a die's walker. -/
structure TEntry where
  level : Nat
  owner : Nat                      -- thread 1024 × core + 32 × slot + lane, core, or die
  ctx : Nat
  vpn : Nat                        -- at 128 KiB granularity
  leaf : Nat                       -- the leaf entry: its frame and attributes
  size : Nat                       -- page bytes
  rights : Option Rights           -- level 0 only
  deriving DecidableEq, Repr

/-- A migration in progress (R330). -/
structure Migration where
  id : Nat
  ctx : Nat
  die : Nat                        -- home die index
  va : Nat                         -- page base
  leafPa : Nat
  size : Nat                       -- page bytes
  src : Nat                        -- host address
  frame : Nat
  piece : Nat
  retried : Bool                   -- the current piece has been copied again
  anyRetry : Bool
  deriving DecidableEq, Repr

/-- A shoot-down in progress, seen from this package (R332 to R335). -/
structure Shootdown where
  id : Nat
  root : Nat                       -- the initiating package's rank
  by' : Nat                        -- the initiating context (R334)
  ctx : Nat
  lo : Nat
  hi : Nat
  host : Bool
  parent : Nat                     -- the package that the invalidation came from
  swept : List Nat                 -- dies of this package that have swept; with 4 added, those that have acknowledged
  kids : List Nat                  -- ranks awaited
  started : Nat                    -- the time of die index 0 at which the current wait began
  fenced : Bool                    -- a package below was fenced
  halted : Bool
  done : Bool
  marks : Tbl Nat                  -- per die, the number after the last contribution sent through a translation it has swept
  deriving DecidableEq, Repr

/-! ## Messages -/

/-- A posted or matched receive (R247). -/
structure Recv where
  handle : Word
  wg : Nat
  addr : Nat
  tag : Nat
  src : Nat
  tmask : Nat
  smask : Nat
  done : Option (Nat × Nat × Nat)  -- length, tag, source
  late : List Byte := []           -- bytes that came while its workgroup was saved
  deriving DecidableEq, Repr

/-- An unmatched message in an overflow queue (R349). -/
structure OvMsg where
  src : Nat
  tag : Nat
  data : List Byte
  deriving DecidableEq, Repr

/-- A message state of a context on a hardware cluster (R347). `opening` says that it waits to open with its generation
(R348); `closed` lists, per generation, the time of the cluster's die at the last close that bore it. -/
structure MsgState where
  ctx : Nat
  cluster : Nat
  opened : Bool
  opening : Bool
  gen : Nat
  recvs : List Recv
  ovf : List OvMsg
  stale : Word                     -- %msgstale (R355)
  closed : Tbl Nat
  deriving DecidableEq, Repr

/-- A send entry of a core (R246). -/
structure SendEnt where
  id : Nat
  core : Nat
  ctx : Nat
  handle : Word
  wg : Nat
  left : Nat                       -- destinations that have not accepted
  stale : Bool
  mc : Bool
  deriving DecidableEq, Repr

/-- A tagged message in flight (R348). -/
structure TagPkt where
  id : Nat
  ctx : Nat
  send : Nat                       -- its send entry
  src : Nat                        -- logical cluster of the sender
  dst : Nat                        -- %cluster of the destination
  stamp : Nat
  tag : Nat
  data : List Byte
  sentAt : List Nat                -- by physical die, its time when the message was sent
  mc : Bool
  deriving DecidableEq, Repr

/-- A reply to a send: accepted or STALE (R349). -/
structure TagReply where
  id : Nat
  send : Nat
  stale : Bool
  src : Nat                        -- the cluster that answers, and the core answered (R341)
  core : Nat
  deriving DecidableEq, Repr

/-- A generation update of a cluster on its way to a die (R347). -/
structure GenUpd where
  id : Nat
  die : Nat
  ctx : Nat
  cluster : Nat
  gen : Nat
  deriving DecidableEq, Repr

/-! ## Collectives -/

/-- What names a collective to every package of its group: the context, the group word's GBASE and G, and the number of the COLL
among those with that group word (R360). -/
structure CollName where
  ctx : Nat
  gbase : Nat
  g : Nat
  ord : Nat
  deriving DecidableEq, Repr

/-- A piece of a transfer, as it stands in staging (R366): the sending member, the number of its transfer to this member, the
sender's step, the chunk's length, the format's code, 1 + QF for a quantised send, the piece's index, the port whose winch
stages it, and its bytes. -/
structure Piece where
  peer : Nat
  nth : Nat
  step : Nat
  len : Nat
  fmt : Nat
  qf : Nat
  idx : Nat
  port : Nat
  data : List Byte
  deriving DecidableEq, Repr

/-- What has arrived for a collective whose COLL has not been issued here (R360, R366, R371, R372): the grants by member, the tokens
and the members that cannot be reached. -/
structure CollEarly where
  name : CollName
  grants : Tbl Nat
  tokens : Nat
  lost : List Nat
  deriving DecidableEq, Repr

/-- A collective of a context on this package (R358 to R364). Members are numbered by group rank. -/
structure Coll where
  id : Nat
  part : Nat
  ctx : Nat
  ticket : Word
  prog : Nat
  base : Nat
  ext0 : Nat
  nch : Nat
  fmt : Fmt
  res : Nat
  flagA : Nat
  gbase : Nat
  g : Nat                          -- G
  ord : Nat                        -- R360
  ranges : List Lease              -- the ranges the launch held, standing ranges among them (R357)
  pc : DWord                       -- the issuing word, its launch and workgroup
  seq : Nat
  wg : DWord
  running : Bool
  step : Nat
  loops : List (Nat × Nat × Nat)   -- counter, index of its LOOP step, iterations left; innermost first
  k : List Nat                     -- k0 to k3
  sent : Nat                       -- pieces of the current step sent or taken
  phase : Nat                      -- RRS: 0 receiving, 1 sending
  began : Nat                      -- the model's number of its start (R373)
  parked : Bool                    -- it has ended a step during a save and stands between steps (R376)
  ending : Option Nat              -- it ends with this status, whose write waits for a page (R357)
  grants : Tbl Nat                 -- grants held, by member
  ahead : Tbl Nat                  -- pieces granted to a member and not yet taken (R366)
  sends : Tbl Nat                  -- transfers sent, by member
  recvs : Tbl Nat                  -- transfers received, by member
  staged : List Piece
  tokens : Nat                     -- signal tokens arrived
  emptyWait : Bool                 -- stands in a WAIT on FLAG with nothing to send (R370)
  lost : List Nat                  -- members that cannot be reached (R372)
  winches : List Nat               -- the ports whose winches serve it (R375)
  deriving DecidableEq, Repr

/-- What leaves the package on Tilic (R337, R342). `nack` is a negative acknowledgement (R372), or with a step the news that the
transfer of that step did not match (R365). A `reply` answers an access of a peer: code 0 when it has been performed, else what stands in
its way as in `State.peerPages`. `ampBad` tells a partner that the exchanges do not match (R277). An `atomic` names the type's code, its AOP, or 7
for CAS, and the operands; its old value is the reply's data. A `migrate` asks for the promotion of a page there (R71). -/
inductive TilicPkt
  | read (rank ctx va len : Nat)
  | write (rank ctx va : Nat) (data : List Byte)
  | atomic (rank ctx va ty op : Nat) (data : List Byte)
  | migrate (rank ctx va : Nat)
  | reply (rank code : Nat) (data : List Byte)
  | piece (rank : Nat) (name : CollName) (p : Piece)
  | grant (rank : Nat) (name : CollName) (n : Nat)
  | token (rank : Nat) (name : CollName)
  | nack (rank : Nat) (name : CollName) (step : Option Nat)
  | amp (rank die q seq ty fp idx : Nat) (data : List Byte)
  | ampGrant (rank die q seq xidx n : Nat)
  | ampBad (rank die q : Nat)
  | probSum (rank : Nat) (sum : DWord)
  | shoot (rank root ctx lo hi : Nat)
  | ack (rank root ctx lo hi : Nat) (fenced : Bool)
  | fence (rank : Nat)
  | rankReport (rank : Nat)
  deriving DecidableEq, Repr

/-- A request of a core to a peer package (R343, R344): a read, or one that takes a write permit. Once sent it holds its permit until its
reply has come; until then its packet waits at the egress. -/
structure PeerReq where
  id : Nat
  core : Nat
  die : Nat
  rank : Nat
  write : Bool
  pkt : TilicPkt
  sent : Bool
  deriving DecidableEq, Repr

/-! ## Contexts, partitions, host side -/

/-- A context fault, as first recorded (R312, R314). -/
structure Halt where
  cause : Nat
  die : Nat                        -- the detecting die (physical number)
  src : Nat
  tcause : Nat
  core : Nat
  slot : Nat
  lmask : LaneMask
  pc : DWord
  va : DWord
  seq : Nat
  wg : DWord
  info : DWord
  dies : List Nat                  -- dies the halt has reached
  stops : List (Nat × Nat)         -- (die, stop slot) of agents that have stopped
  unwritten : Bool
  deriving DecidableEq, Repr

/-- The frame pool of a die (R330): base, frames, and the frames in use. -/
structure Pool where
  base : Nat
  frames : Nat
  used : List Nat
  deriving DecidableEq, Repr

/-- A context (R309). -/
structure Ctx where
  key : Nat                        -- 8 × partition + number
  priv : Bool
  mode : Word                      -- %ctxmode
  hand : DWord
  save : DWord
  stopa : DWord
  pool : Word                      -- %ctxpool
  root : Nat                       -- R322
  standing : Tbl Lease             -- R326; index 0 to 15
  pools : Tbl Pool                 -- by die index
  span : List Nat                  -- R332
  halt : Option Halt
  ticket : Word                    -- R358
  colled : Tbl Nat                 -- COLLs issued, by GBASE + 2^13 × (G − 1) (R360)
  mrg : Tbl Nat                    -- 4 × die + 0 %mrgreq, 1 %mrgjoin, 2 %mrgdram (R78)
  saved : Bool                     -- saved and not restored: its dispatch is stopped (R316)
  savedHalted : Bool
  evicted : List (Nat × Nat)       -- eviction pool: offset and length of each record in use (R315)
  deriving DecidableEq, Repr

/-- A partition (R382, R334). -/
structure Part where
  num : Nat
  dies : List Nat                  -- physical die numbers, ascending
  timeout : Nat                    -- µs
  nextSeq : Nat
  deriving DecidableEq, Repr

/-- A convoy entry of a die (R80). -/
structure Convoy where
  die : Nat
  entry : Nat                      -- 0 to 63, its place among the die's entries (R317)
  launch : Nat
  ctx : Nat
  decl : Nat
  base : Nat
  slip : Nat
  hold : Nat                       -- 0 read as 4,096
  quorum : Nat
  joins : Nat
  qdrop : Bool
  nshed : Nat
  counted : List Nat               -- warps whose first join has counted: 32 × workgroup number + %warp (R82)
  deriving DecidableEq, Repr

/-- An evicted warp (R304, R305): its core, the slot it held, its turn in the order of eviction, and its record's offset and length
in the pool. -/
structure Evicted where
  core : Nat
  slot : Nat
  turn : Nat
  off : Nat
  len : Nat
  tiles : Tbl Byte
  banks : Tbl Byte
  w : Warp
  deriving DecidableEq, Repr

/-- A slot of a launch window (R294). -/
structure LSlot where
  port : Nat
  idx : Nat
  bytes : Tbl Byte                 -- the 128 bytes; an unlisted byte is zero
  written : List Nat               -- bytes written since the slot became free
  committed : Bool
  bound : Option Nat               -- the context of the window at the commit
  seq : Option Nat
  deriving DecidableEq, Repr

/-- A host port (R377, R385, R386). -/
structure Port where
  linked : Bool
  lanes : Nat
  rate : Nat                       -- GT/s
  bound : Option Nat
  wptr : Nat
  rptr : Nat
  lost : Word
  events : Tbl (List Byte)         -- 128 entries of 64 bytes
  nonce : Tbl Byte                 -- 32 bytes
  report : List Byte
  msix : Nat                       -- MSI-X vector 0 messages raised
  deriving DecidableEq, Repr

/-- A winch (R356). -/
structure Winch where
  port : Nat
  failed : Bool
  spare : Option Nat               -- the spare that serves in its place
  since : Nat                      -- collectives that began from this number on are served by the spare (R373)
  deriving DecidableEq, Repr

/-- A Tilic port (R373, R384). -/
structure TPort where
  up : Bool
  quarantined : Bool
  spareLaneUsed : Bool
  unacked : Nat                    -- flits sent and not acknowledged
  resent : Nat
  far : Option Nat                 -- the rank its far end reported
  deriving DecidableEq, Repr

/-- A packet at a router's output: the die it goes to, its flits, those that have not moved, and what it carries, by kind and number
(`State.pathOf`). -/
structure RPkt where
  dst : Nat
  len : Nat
  flits : Nat
  item : Option (Nat × Nat)
  deriving DecidableEq, Repr

/-- The output of a die's router towards a bridge (R339, R340): the packets and the credits held per channel, and each channel's
wait. -/
structure ROut where
  die : Nat
  bit : Nat                        -- the bit of the die number that the bridge changes
  queues : List (List RPkt)
  credits : List Nat
  waits : List Nat
  moved : List Nat                 -- flits moved per channel
  deriving DecidableEq, Repr

/-- One start step's record (R388). -/
structure StartRec where
  ok : Bool
  alt : Nat
  fails : Nat
  deriving DecidableEq, Repr

/-- A row-error entry of a slice (R398). -/
structure RowEnt where
  slice : Nat
  bank : Nat
  row : Nat
  count : Nat
  deriving DecidableEq, Repr

/-- A row that is spared (R398): its slice, bank and number, and the physical address concerned. -/
structure RowCopy where
  slice : Nat
  bank : Nat
  row : Nat
  pa : Nat
  deriving DecidableEq, Repr

/-- A retention segment's state where it is not plain (R74): entering since, retained, or leaving since. -/
inductive RetSt
  | entering (since : Nat)
  | held
  | leaving (since : Nat)
  deriving DecidableEq, Repr

/-- Where the machine stands in one word: the core, the slot, and of the entry the word's address, the group's lanes, the word,
%ctxmode at its dispatch and the fault held with it (R20, R24, R309). -/
structure Cur where
  core : Nat
  slot : Nat
  pc : DWord
  mask : LaneMask
  word : DWord
  mode : Word
  fault : Option Stop
  deriving DecidableEq, Repr

/-- What the world outside supplies to an event: up to six numbers, a list of bytes and a list of pairs. Each event's
meaning says which of them it reads. -/
structure EvArgs where
  a : Nat := 0
  b : Nat := 0
  c : Nat := 0
  d : Nat := 0
  e : Nat := 0
  f : Nat := 0
  data : List Byte := []
  pairs : List (Nat × Nat) := []
  deriving DecidableEq, Repr

/-- A command accepted and not yet complete (R383): the error code and the result that CSTAT will show. -/
structure CmdRun where
  port : Nat
  code : Nat
  arg : Nat                        -- ARG0 at the write
  err : Nat
  result : Nat
  sd : Option Nat                  -- SHOOT: the shoot-down it waits for
  deriving DecidableEq, Repr

/-! ## The machine -/

/-- The state of the machine. -/
structure State where
  -- the model's own bookkeeping (not the spec's)
  cur : Option Cur
  ev : EvArgs
  agenda : List (Instr × EvArgs)
  free : Nat
  nextId : Nat
  -- the package
  single : Bool                    -- KX9-S1 (R1)
  clk : Nat                        -- %clk (R18)
  time : List Nat                  -- per die, the time that has passed, in 1/25,200 of a microsecond (R394)
  coreMap : List (List Nat)        -- per die, the physical positions of its enabled clusters (R4, R397)
  rank : Nat
  ranked : Bool                    -- RANK has been performed (R384)
  domain : Nat
  -- cores
  warps : Tbl Warp                 -- key 32 × core + slot
  evicted : List Evicted
  lastSel : Tbl Nat                -- key 4 × core + partition: slot + 1 of the warp selected last (R27)
  rrPart : Nat                     -- the partition the sequential schedule serves next (the model's own)
  scr : Tbl Byte                   -- scratchpad, key core × 2^20 + address (R47)
  fe : Tbl Bool                    -- full-empty bits, key core × 2^16 + granule (R50)
  scrOwner : Tbl Nat               -- context key + 1 that last held a 4 KiB block; key 256 × core + block (R49)
  tiles : Tbl Byte                 -- key (64 × core + tile) × 12,288 + offset: data side then side (R254)
  tileOf : Tbl Nat                 -- tile in use by slot + 1; key 64 × core + tile
  tileOwner : Tbl Nat              -- context key + 1 that last held it
  banks : Tbl Byte                 -- key (256 × core + bank) × 2,048 + byte (R258)
  bankOf : Tbl Nat                 -- bank bound by slot + 1; key 256 × core + bank
  bankOwner : Tbl Nat
  l1 : Tbl (List Byte)             -- L1 read cache, key core × 2^45 + line (R101)
  ret : Tbl RetSt                  -- retention, key 2048 × core + segment: 0 scratchpad, 512 tiles, 896 banks (R74)
  segAccess : Tbl Nat              -- the cycle of a segment's last access
  -- work
  launches : List Launch
  cgs : List Cg
  wgs : List Wg
  savedWgs : List Wg               -- the workgroups of saved contexts (the model's own names for their records, R317)
  convoys : List Convoy
  reserved : Tbl Nat               -- by %cluster: 2 × launch of the reservation, + 1 while warps leave for it (R302, R304)
  -- engines
  reelQ : List ReelCmd             -- in order of entry
  matQ : List MatCmd
  cruQ : List CruCmd
  ampQ : List AmpCmd
  qfences : List QFence
  seqrs : List Seqr
  qmaps : Tbl QMap                 -- key 4 × context key + physical die
  ampMsgs : List AmpMsg
  ampGrants : List AmpGrant
  reelOff : List ReelCmd           -- the commands that a halt has stopped, for their re-issue (R319); of a matrix command with %warp
  matOff : List (MatCmd × Nat)
  ampOff : List AmpCmd
  -- memory
  mem : List Host.Cell             -- package DRAM by physical address; an unlisted byte reads zero
  hostMem : List Host.Cell         -- host memory by bus address, key port × 2^64 + address
  peerMem : List Host.Cell         -- peer packages, key (32 × rank + context key) × 2^64 + virtual address
  peerPages : Tbl Nat              -- what their walkers find (R327), key (32 × rank + context key) × 2^40 + page number at
                                   -- 128 KiB: [1:0] 0 resident, 1 unmapped, 2 absent, 3 failed; [2] not writable; [4:3] KIND;
                                   -- [5] its promotion needed an integrity retry
  writes : List InFlight
  reads : List ReadReq
  pending : List Pending
  contribs : List Contrib
  seqs : List OpenSeq
  poison : List Nat                -- lines whose home copy has an error its code cannot correct (R325)
  tcache : List TEntry
  migs : List Migration
  migRetry : List (Nat × Nat)      -- (context, page) promoted after an integrity retry (R71)
  shoots : List Shootdown
  fencedRanks : List Nat
  -- messages
  msgs : List MsgState
  sends : List SendEnt
  usedHandles : List (Nat × Word)  -- every handle that MSEND and MRECV have given out, with the list it was of
  pkts : List TagPkt
  replies : List TagReply
  genUpds : List GenUpd
  genTab : Tbl Nat                 -- key (die × 32 + context key) × 64 + cluster (R347)
  -- collectives and Tilic
  colls : List Coll
  doneTickets : List (Nat × Word)  -- (context, ticket) completed
  collEarly : List CollEarly       -- what came before its COLL (R360)
  collBad : List CollName          -- those that ended here with a status other than DONE (R372)
  winches : List Winch
  spares : Nat                     -- spare winches left
  tports : List TPort
  routes : Tbl Nat                 -- key 8,192 × die + rank: 1 + port (R342, R384)
  tilicOut : List (Nat × TilicPkt) -- what has left, oldest first, with the port it left through (R342)
  peerReqs : List PeerReq          -- in the order of their making (R343)
  routers : List ROut              -- the bridges' outputs (R340)
  crossed : List (Nat × Nat)       -- what has crossed the bridges on its way, by kind and number (R340)
  -- contexts, partitions
  ctxs : List Ctx
  parts : List Part
  -- host side
  ports : List Port                -- H0, H1
  slots : List LSlot
  sems : Tbl Nat                   -- holder: 1 H0, 2 H1 (R379)
  lastRead : Tbl Nat               -- the value a port's last semaphore read returned; key the port
  args : Tbl DWord                 -- ARG0 to ARG5
  cmd : Option CmdRun              -- BUSY (R383)
  cstErr : Nat
  cstRes : Word
  cstSer : Nat
  semErr : Word
  cfgErr : Word
  slotErr : Word
  otsRem : Nat
  rootHash : List Byte             -- fuses: the hash of the root key (R390)
  idHash : List Byte               -- fuses: the hash of the identity's public key (R391)
  fuseVer : List Nat               -- fuses: the security version of the start, management and winch firmware (R390)
  -- start
  step : Nat                       -- START.STEP
  stt : Nat                        -- START.STATE
  startRec : List StartRec         -- steps 1 to 9
  downPorts : List Nat             -- host ports left down by start step 2
  marked : List Nat                -- cores marked for substitution at the next start (R400)
  failedCores : List Nat           -- cores found failed by start step 5: 80 × die + 8 × physical position + core (R397)
  -- fleet
  env : Nat
  envAct : List Nat                -- per die, the envelope in force
  envTarget : Nat                  -- ENVACT as it will be in force
  envSeen : Nat × Nat              -- ENV and ENVACT as MODE reads: those in force on every die (R393)
  retPol : Nat
  refr : Bool
  hot : Tbl Bool                   -- dies with a layer above 85 °C
  cnt : Tbl Nat                    -- key 8 × die + k (R399)
  thr : List Nat
  rowLim : Nat
  rowTab : List RowEnt             -- most recently updated first
  rowCopies : List RowCopy
  rowSpares : Tbl Nat              -- spare rows used, key 2^16 × slice + bank
  remapped : List RowCopy          -- the rows served by a spare row that has not failed in turn
  badBanks : List Nat              -- banks in which a further row has failed, same key (R397)
  bankSpares : List Nat            -- slices whose spare bank is in use (R397)
  tel : Tbl (List Nat)             -- per die: TJ, TDRAM, POWER, CLKMHZ as last refreshed (R401)
  deriving DecidableEq, Repr

/-- The machine right after reset: at start step 1, with no partition, no context and empty memory (R387, R388). -/
def State.reset : State where
  cur := none
  ev := {}
  agenda := []
  free := 0
  nextId := 1
  single := false
  clk := 0
  time := [0, 0, 0, 0]
  coreMap := [List.range 10, List.range 10, List.range 10, List.range 10]
  rank := 0
  ranked := false
  domain := 0
  warps := []
  evicted := []
  lastSel := []
  rrPart := 0
  scr := []
  fe := []
  scrOwner := []
  tiles := []
  tileOf := []
  tileOwner := []
  banks := []
  bankOf := []
  bankOwner := []
  l1 := []
  ret := []
  segAccess := []
  launches := []
  cgs := []
  wgs := []
  savedWgs := []
  convoys := []
  reserved := []
  reelQ := []
  matQ := []
  cruQ := []
  ampQ := []
  qfences := []
  seqrs := []
  qmaps := []
  ampMsgs := []
  ampGrants := []
  reelOff := []
  matOff := []
  ampOff := []
  mem := []
  hostMem := []
  peerMem := []
  peerPages := []
  writes := []
  reads := []
  pending := []
  contribs := []
  seqs := []
  poison := []
  tcache := []
  migs := []
  migRetry := []
  shoots := []
  fencedRanks := []
  msgs := []
  sends := []
  usedHandles := []
  pkts := []
  replies := []
  genUpds := []
  genTab := []
  colls := []
  doneTickets := []
  collEarly := []
  collBad := []
  winches := (List.range 24).map (fun p => ⟨p, false, none, 0⟩)
  spares := 2
  tports := List.replicate 24 ⟨false, false, false, 0, 0, none⟩
  routes := []
  tilicOut := []
  peerReqs := []
  routers := (List.range 8).map (fun i => ⟨i / 2, i % 2, List.replicate 6 [], List.replicate 6 0, List.replicate 6 0, List.replicate 6 0⟩)
  crossed := []
  ctxs := []
  parts := []
  ports := List.replicate 2 ⟨false, 16, 128, none, 0, 0, 0, [], [], [], 0⟩
  slots := []
  sems := []
  lastRead := []
  args := []
  cmd := none
  cstErr := 0
  cstRes := 0
  cstSer := 0
  semErr := 0
  cfgErr := 0
  slotErr := 0
  otsRem := 32768
  rootHash := List.replicate 32 0
  idHash := List.replicate 32 0
  fuseVer := [0, 0, 0]
  step := 0
  stt := 0
  startRec := List.replicate 9 ⟨false, 0, 0⟩
  downPorts := []
  marked := []
  failedCores := []
  env := 2
  envAct := [2, 2, 2, 2]
  envTarget := 2
  envSeen := (2, 2)
  retPol := 0
  refr := false
  hot := []
  cnt := []
  thr := [64, 1, 256, 8, 16, 1, 1, 1]
  rowLim := 4
  rowTab := []
  rowCopies := []
  rowSpares := []
  remapped := []
  badBanks := []
  bankSpares := []
  tel := []

/-- A KX9-S1 right after reset (R1): one die, its six Tilic ports with their winches, no spare winch, no bridge, and H0 alone. -/
def State.resetSingle : State :=
  { State.reset with
    single := true
    time := [0]
    coreMap := [List.range 10]
    winches := (List.range 6).map (fun p => ⟨p, false, none, 0⟩)
    spares := 0
    tports := List.replicate 6 ⟨false, false, false, 0, 0, none⟩
    routers := []
    ports := [⟨false, 16, 128, none, 0, 0, 0, [], [], [], 0⟩]
    envAct := [2] }

end Sys2Proof.Machine
end

