-- ==== Sys2Proof/Machine/Ops.lean ====
section
/-!
DEFINITION. Machine/Ops.lean: the named operations over the state: warps and their registers, the records a word is
executed under, how an operation of one word ends, taking a warp trap and returning from it, and raising a context fault.
-/

namespace Sys2Proof.Machine

/-! ## Numbers of the package -/

/-- The enabled clusters of the dies below `d` (R18). -/
def State.clustersBelow (s : State) (d : Nat) : Nat := ((s.coreMap.take d).map List.length).foldl (· + ·) 0

/-- The enabled clusters of the package.
Log entry 3 (DESIGN CHOICE). -/
def State.clusters (s : State) : Nat := s.clustersBelow s.coreMap.length

/-- The die of an enabled cluster, by %cluster (R18).
Log entry 3 (DESIGN CHOICE). -/
def State.dieOfCluster (s : State) (cl : Nat) : Nat :=
  ((List.range s.coreMap.length).filter (fun d => s.clustersBelow d ≤ cl)).getLast?.getD 0

/-- %cluster of a core (R18). -/
def clusterOf (core : Nat) : Nat := core / 8

/-- The die of a core.
Log entry 3 (DESIGN CHOICE). -/
def State.dieOf (s : State) (core : Nat) : Nat := s.dieOfCluster (clusterOf core)

/-- What goes from one die to another has crossed the bridges on its way; what stays on its die has none to cross (R340).
Log entry 70 (DEDUCED). -/
def State.over (s : State) (kind id src dst : Nat) : Bool := src == dst || s.crossed.contains (kind, id)

/-- The place of an enabled core by die and physical position: 80 × die + 8 × position + its number within the cluster. -/
def State.physCore (s : State) (core : Nat) : Nat :=
  let cl := clusterOf core
  let d := s.dieOfCluster cl
  80 * d + 8 * (s.coreMap.getD d []).getD (cl - s.clustersBelow d) 0 + core % 8

/-- A core's number within its die (R18). -/
def State.coreInDie (s : State) (core : Nat) : Nat := core - 8 * s.clustersBelow (s.dieOf core)

/-- The enabled clusters of a die, by %cluster. -/
def State.clustersOfDie (s : State) (d : Nat) : List Nat :=
  (List.range ((s.coreMap.getD d []).length)).map (· + s.clustersBelow d)

/-- The die index of a physical die within a partition (R297). -/
def Part.pdie (p : Part) (die : Nat) : Nat := (p.dies.filter (· < die)).length

/-! ## Time (R394) -/

/-- The arithmetic clock of an envelope in MHz (Table 2 of the fleet chapter).
Log entry 7 (DESIGN CHOICE). -/
def clkMhz (e : Nat) : Nat := if e = 2 then 1200 else if e = 1 then 1050 else 900

/-- `n` microseconds, in the unit of `State.time`, of which every clock's cycle is a whole number. -/
def us (n : Nat) : Nat := 25200 * n

/-- What a cycle adds to a die's time under an envelope: figures stated in time stay in time.
Log entry 7 (DESIGN CHOICE). -/
def cycleTime (e : Nat) : Nat := us 1 / clkMhz e

/-- The time of a die.
Log entry 7 (DESIGN CHOICE). -/
def State.now (s : State) (die : Nat) : Nat := s.time.getD die 0

/-- The time that has passed on a die since a reading of every die's.
Log entry 7 (DESIGN CHOICE). -/
def State.elapsed (s : State) (die : Nat) (since : List Nat) : Nat := s.now die - since.getD die 0

/-- A cycle passes on every die.
Log entry 7 (DESIGN CHOICE). -/
def State.passTime (s : State) : State :=
  { s with clk := s.clk + 1, time := s.time.zipIdx.map (fun e => e.1 + cycleTime (s.envAct.getD e.2 2)) }

/-- A context's dispatch has stopped for a save that runs (R316). -/
def State.saving (s : State) (key : Nat) : Bool := s.cmd.any (fun c => c.code == 13 && c.err == 0 && c.arg == key)

/-! ## Sorting -/

/-- Insert into a sorted list, before the elements that are not less. -/
def insertBy {α : Type} (le : α → α → Bool) (x : α) : List α → List α
  | [] => [x]
  | y :: t => if le x y then x :: y :: t else y :: insertBy le x t

/-- Sort a list; elements of equal rank keep their order. -/
def sortBy {α : Type} (le : α → α → Bool) (l : List α) : List α := l.foldr (insertBy le) []

/-! ## Looking records up -/

def State.part? (s : State) (n : Nat) : Option Part := s.parts.find? (·.num == n)
def State.ctx? (s : State) (key : Nat) : Option Ctx := s.ctxs.find? (·.key == key)
def State.wg? (s : State) (id : Nat) : Option Wg := s.wgs.find? (·.id == id)
def State.launch? (s : State) (id : Nat) : Option Launch := s.launches.find? (·.id == id)
def State.warp? (s : State) (core slot : Nat) : Option Warp := Tbl.find? s.warps (32 * core + slot)
def State.cg? (s : State) (launch c : Nat) : Option Cg := s.cgs.find? (fun g => g.launch == launch && g.c == c)

def State.setWarp (s : State) (core slot : Nat) (w : Warp) : State :=
  { s with warps := Tbl.put s.warps (32 * core + slot) w }
def State.dropWarp (s : State) (core slot : Nat) : State := { s with warps := Tbl.del s.warps (32 * core + slot) }
def State.modWarp (s : State) (core slot : Nat) (f : Warp → Warp) : State :=
  match s.warp? core slot with
  | some w => s.setWarp core slot (f w)
  | none => s
def State.modWg (s : State) (id : Nat) (f : Wg → Wg) : State := { s with wgs := updateWhere (·.id == id) f s.wgs }
def State.modCtx (s : State) (key : Nat) (f : Ctx → Ctx) : State := { s with ctxs := updateWhere (·.key == key) f s.ctxs }
def State.modPart (s : State) (n : Nat) (f : Part → Part) : State :=
  { s with parts := updateWhere (·.num == n) f s.parts }
def State.modLaunch (s : State) (id : Nat) (f : Launch → Launch) : State :=
  { s with launches := updateWhere (·.id == id) f s.launches }
def State.modCg (s : State) (launch c : Nat) (f : Cg → Cg) : State :=
  { s with cgs := updateWhere (fun g => g.launch == launch && g.c == c) f s.cgs }
/-- The next record number.
Log entry 5 (DESIGN CHOICE). -/
def State.fresh (s : State) : Nat × State := (s.nextId, { s with nextId := s.nextId + 1 })

/-! ## A launch's declarations (Tables 2 and 3 of the launch chapter) -/

def Packet.width (p : Packet) (k : Nat) : Nat := fld p.work (7 * k) 7
/-- Bit position of boundary k (R13). -/
def Packet.bnd (p : Packet) (k : Nat) : Nat := ((List.range (min k 6)).map p.width).foldl (· + ·) 0
def Packet.wgLev (p : Packet) : Nat := fld p.work 42 3
def Packet.clLev (p : Packet) : Nat := fld p.work 45 3
def Packet.prio (p : Packet) : Nat := fld p.work 48 3
def Packet.feeds (p : Packet) : Bool := bit p.work 51
def Packet.pmode (p : Packet) : Nat := fld p.work 52 2
def Packet.he (p : Packet) : Bool := bit p.work 54
def Packet.nbkt (p : Packet) : Nat := fld p.work 55 4
def Packet.ncv (p : Packet) : Nat := fld p.work 59 4
def Packet.regs (p : Packet) : Nat := fld p.res 0 9
def Packet.scal (p : Packet) : Nat := fld p.res 9 7
def Packet.tiles (p : Packet) : Nat := fld p.res 16 5
def Packet.scr (p : Packet) : Nat := fld p.res 21 21
def Packet.bars (p : Packet) : Nat := fld p.res 42 7
def Packet.maxBanks (p : Packet) : Nat := fld p.res 49 9

/-! ## Registers of a warp -/

/-- The live threads of a warp: launched and not exited. -/
def Warp.live (w : Warp) : LaneMask := w.lmask &&& ~~~w.exited

def Warp.pc (w : Warp) (l : Nat) : DWord := Tbl.get 0 w.pcs l
def Warp.wait (w : Warp) (l : Nat) : Wait := Tbl.get .ready w.waits l
/-- Lane `l` of vector register `r`. -/
def Warp.v (w : Warp) (r l : Nat) : Word := Tbl.get 0 w.vregs (32 * r + l)
def Warp.setV (w : Warp) (r l : Nat) (x : Word) : Warp := { w with vregs := Tbl.set 0 w.vregs (32 * r + l) x }
def Warp.s (w : Warp) (r : Nat) : Word := Tbl.get 0 w.sregs r
def Warp.setS (w : Warp) (r : Nat) (x : Word) : Warp := { w with sregs := Tbl.set 0 w.sregs r x }
/-- Predicate `p` in lane `l`; p7 reads true (R33). -/
def Warp.p (w : Warp) (p l : Nat) : Bool := if p = 7 then true else (Tbl.get 0 w.preds p).getLsbD l
/-- Write a predicate in one lane; a write to p7 is discarded (R33). -/
def Warp.setP (w : Warp) (p l : Nat) (b : Bool) : Warp :=
  if p = 7 then w
  else
    let m := Tbl.get 0 w.preds p
    let one : LaneMask := BitVec.ofNat 32 (2 ^ l)
    { w with preds := Tbl.set 0 w.preds p (if b then m ||| one else m &&& ~~~one) }
/-- A 64-bit element: the pair v(r), v(r+1) (R35). -/
def Warp.v64 (w : Warp) (r l : Nat) : DWord := join64 (w.v r l) (w.v (r + 1) l)
def Warp.setV64 (w : Warp) (r l : Nat) (x : DWord) : Warp := (w.setV r l (lo32 x)).setV (r + 1) l (hi32 x)
def Warp.s64 (w : Warp) (r : Nat) : DWord := join64 (w.s r) (w.s (r + 1))
def Warp.setS64 (w : Warp) (r : Nat) (x : DWord) : Warp := (w.setS r (lo32 x)).setS (r + 1) (hi32 x)

/-- The guard's value in a lane (R127). -/
def Warp.guard (w : Warp) (g : Guard) (l : Nat) : Bool := w.p g.pg.toNat l != g.pn

/-! ## How an operation ends -/

/-- What an operation is executed under: the word, the warp as it stood before the word (its sources are read here, R140),
and the workgroup, launch and context it belongs to. -/
structure Env where
  c : Cur
  w : Warp
  wg : Wg
  l : Launch
  x : Ctx
  deriving DecidableEq, Repr

/-- How an operation of one word ends. -/
inductive Res
  /-- Performed; the group goes to the next word. -/
  | ok (s : State)
  /-- Performed; each thread listed goes to its address, the rest of the group to the next word. -/
  | jump (s : State) (tgt : Tbl DWord)
  /-- Retired into a wait: the threads of `lanes` wait at this word, the rest of the group goes to the next (R194). -/
  | wait (s : State) (lanes : LaneMask)
  /-- Not retired: the entry stays at the head of its warp (R60). -/
  | hold (s : State)
  /-- Retired with every program counter set by the operation. -/
  | placed (s : State)
  /-- Ended by the operation itself, its retirement included. -/
  | final (s : State)
  /-- A warp trap; the word has no effect (R25). -/
  | trap (t : Trap)
  /-- TRAP and BKPT: retired first, then the trap (R203). -/
  | trapAfter (t : Trap)
  /-- A context fault; the word has no effect (R312). -/
  | halt (h : CFault)
  deriving Repr

/-- An operation of one word. -/
abbrev Op := Env → State → Res

def Stop.res : Stop → Res
  | .trap t => .trap t
  | .halt h => .halt h

/-- The lanes of the issuing group whose guard is true (R146). -/
def Env.g (e : Env) (g : Guard) : LaneMask := maskOf ((lanesOf e.c.mask).filter (e.w.guard g))

/-- The illegal-instruction trap with REASON 0 and INFO `info`, on the whole issuing group (R143, R144).
Log entry 25 (DESIGN CHOICE). -/
def Env.ill (e : Env) (info : Nat) : Stop := .trap ⟨1, e.c.mask, info % 2 ^ 28, []⟩

/-- The illegal-instruction trap of a word that is no instruction (Table 14, R143).
Log entry 25 (DESIGN CHOICE). -/
def illegalWord (mask : LaneMask) (reason fbit : Nat) : Trap := ⟨1, mask, reason * 2 ^ 28 + fbit, []⟩

/-- Update the executing warp. -/
def Env.upd (e : Env) (s : State) (f : Warp → Warp) : State := s.modWarp e.c.core e.c.slot f

/-- The records that a word of the current entry is executed under. -/
def State.env? (s : State) : Option Env :=
  match s.cur with
  | none => none
  | some c =>
    match s.warp? c.core c.slot with
    | none => none
    | some w =>
      match s.wg? w.wg with
      | none => none
      | some wg =>
        match s.launch? wg.launch with
        | none => none
        | some l =>
          match s.ctx? l.ctx with
          | none => none
          | some x => some ⟨c, w, wg, l, x⟩

/-! ## Convoy shedding (R86) -/

/-- Shed the warp's membership with a cause; a shed or unassociated warp is unchanged. -/
def Warp.shed (w : Warp) (cause : Nat) : Warp :=
  match w.assoc with
  | some a => if a.active then { w with assoc := some { a with active := false, cause := cause } } else w
  | none => w

/-! ## Context faults (R312) -/

/-- Record a context fault: only the first of a context is kept. `die` is the detecting die. -/
def State.raiseHalt (s : State) (key die core slot : Nat) (pc : DWord) (seq : Nat) (wg : DWord) (h : CFault) : State :=
  s.modCtx key (fun x =>
    match x.halt with
    | some _ => x
    | none =>
      let r : Halt := ⟨h.cause, die, h.src, h.tcause, core, slot, h.lmask, pc, BitVec.ofNat 64 h.va, seq, wg,
        BitVec.ofNat 64 h.info, [], [], false⟩
      { x with halt := some r })

/-- The context fault of a word. -/
def Env.halted (e : Env) (s : State) (h : CFault) : State :=
  s.raiseHalt e.l.ctx (s.dieOf e.c.core) e.c.core e.c.slot e.c.pc e.l.seq e.wg.wg h

/-! ## Taking a warp trap (R25, R40, R41) and returning from it (R44, R204) -/

/-- The program counters that %trpcv saves: each live thread's oldest unretired instruction. -/
def savedPcs (w : Warp) : Tbl DWord := (lanesOf w.live).foldl (fun t l => Tbl.set 0 t l (w.pc l)) []

/-- The warp in the handler: trap registers set, every live thread ready at `hand`, younger entries squashed, its
convoy membership shed with cause 2. `w` holds the program counters that %trpcv receives. -/
def Warp.enterHandler (w : Warp) (hand : DWord) (pc : DWord) (mask : LaneMask) (t : Trap) : Warp :=
  let w := w.shed 2
  { w with
    trcause := BitVec.ofNat 32 t.cause
    tramask := mask
    trfmask := t.fmask
    trpc := pc
    trpcv := savedPcs w
    traddr := t.addr
    trinfo := BitVec.ofNat 32 t.info
    inHandler := true
    pcs := (lanesOf w.live).foldl (fun p l => Tbl.set 0 p l hand) w.pcs
    waits := []
    arrSaved := w.arrived
    phSaved := w.phases
    arrived := 0
    opp := []
    rob := []
    cvPass := false }

/-- The lanes' addresses of a trap are virtual ones: not those of the scratchpad, which INFO bit 27 or bit 31 of %trinfo marks (R48,
R229), nor lane indices (Table 1). -/
def Trap.virtual (t : Trap) : Bool := t.cause == 1 && t.info < 2 ^ 27 || (t.cause == 5 || t.cause == 10) && t.info < 2 ^ 31

/-- The lowest virtual address of a trap's lanes, 0 where they have none. -/
def Trap.va (t : Trap) : Nat :=
  match t.addr.map (fun e => e.2.toNat) with
  | [] => 0
  | a :: as => if t.virtual then as.foldl min a else 0

/-- Take a warp trap: cause 38 in the handler, cause 39 with no handler, else the handler (R40, R45). -/
def Env.takeTrap (e : Env) (s : State) (t : Trap) : State :=
  match s.warp? e.c.core e.c.slot with
  | none => s
  | some w =>
    if w.inHandler then e.halted s { cause := 38, lmask := t.fmask, tcause := t.cause, va := t.va }
    else if e.x.hand = 0 then e.halted s { cause := 39, lmask := t.fmask, tcause := t.cause, va := t.va }
    else s.setWarp e.c.core e.c.slot (w.enterHandler e.x.hand e.c.pc e.c.mask t)

/-- Leave the handler: every live thread at its %trpcv entry; the trap registers keep their values. -/
def Warp.leaveHandler (w : Warp) : Warp :=
  { w with
    inHandler := false
    arrived := w.arrSaved
    phases := w.phSaved
    pcs := (lanesOf w.live).foldl (fun p l => Tbl.set 0 p l (Tbl.get 0 w.trpcv l)) w.pcs
    opp := [] }

/-! ## Ending a word -/

/-- Send the listed lanes to the next word. -/
def Warp.advance (w : Warp) (pc : DWord) (ls : List Nat) : Warp :=
  { w with pcs := ls.foldl (fun p l => Tbl.set 0 p l (pc + 8)) w.pcs }

/-- Send the lanes of a table to their addresses. -/
def Warp.sendTo (w : Warp) (tgt : Tbl DWord) : Warp :=
  { w with pcs := tgt.foldl (fun p e => Tbl.set 0 p e.1 e.2) w.pcs }

/-- The threads of `ls` that wait become ready: their opportunities start again, and the wait of a warp that had no ready thread
(R26, R27). -/
def Warp.readied (w : Warp) (ls : List Nat) : Warp :=
  let was := ls.filter (fun l => w.wait l != .ready)
  { w with
    waits := ls.foldl (fun t l => Tbl.del t l) w.waits
    opp := was.foldl (fun t l => Tbl.del t l) w.opp
    selWait := if was.isEmpty || (lanesOf w.live).any (fun l => w.wait l == .ready) then w.selWait else 0 }

/-- The head entry retires; the marks of a word that waited are cleared for its lanes, which are ready. -/
def Warp.retireHead (w : Warp) (mask : LaneMask) : Warp :=
  { w.readied (lanesOf mask) with
    rob := w.rob.tail
    arrived := w.arrived &&& ~~~mask
    cvPass := false }

/-- An entry that cannot retire yet stands at the head of its warp (R22, R60). -/
def Warp.keepHead (w : Warp) (c : Cur) : Warp :=
  if w.rob.isEmpty then { w with rob := [⟨c.pc, c.word, c.mask, true, none, c.mode, c.fault⟩] } else w

/-- The targets that the word's entry took when it resolved (R195), if it has. -/
def Env.resolved (e : Env) : Option (Tbl DWord) :=
  match e.w.rob with
  | r :: _ => if r.pc = e.c.pc then r.next else none
  | [] => none

/-- The state after the word, by how its operation ended. -/
def Env.finish (e : Env) (s : State) (r : Res) : State :=
  let ls := lanesOf e.c.mask
  match r with
  | .ok t => { e.upd t (fun w => (w.advance e.c.pc ls).retireHead e.c.mask) with cur := none }
  | .jump t tgt =>
    { e.upd t (fun w => ((w.advance e.c.pc ls).sendTo (e.resolved.getD tgt)).retireHead e.c.mask) with cur := none }
  | .wait t lanes =>
    { e.upd t (fun w =>
        { w.advance e.c.pc (lanesOf (e.c.mask &&& ~~~lanes)) with rob := w.rob.tail, demoted := none }) with cur := none }
  | .hold t =>
    { e.upd t (fun w =>
        let w := w.keepHead e.c
        if ls.any (fun l => w.wait l != .ready) then { w with demoted := none } else w) with cur := none }
  | .placed t => { e.upd t (fun w => { w with rob := w.rob.tail, cvPass := false }) with cur := none }
  | .final t => { t with cur := none }
  | .trap t => { e.takeTrap s t with cur := none }
  | .trapAfter t => { e.takeTrap (e.upd s (fun w => w.advance e.c.pc ls)) t with cur := none }
  | .halt h => { e.halted s h with cur := none }

/-- How the meaning of a row answers. -/
abbrev Out := Host.Outcome State Fault Refusal

/-- Execute one word's operation.
Log entry 9 (DESIGN CHOICE). -/
def performOp (op : Op) (s : State) : Out :=
  match s.env? with
  | none => .fault .noEntry
  | some e => .next (e.finish s (op e s))

/-- A word that the decoder rejects, or one at an address that is not a multiple of 8: the illegal-instruction trap. -/
def opIllegal (reason fbit : Nat) : Op := fun e _ => .trap (illegalWord e.c.mask reason fbit)

/-! ## Checks shared by every class -/

/-- A use of registers: `n` registers from `i`, a multiple of `align`; `bitNo` is the word bit of the field that names them. -/
inductive Use
  | v (i n align bitNo : Nat)
  | s (i n align bitNo : Nat)
  | t (i : Nat)
  | b (i : Nat)
  deriving DecidableEq, Repr

def Use.misaligned : Use → Option Nat
  | .v i _ a bitNo | .s i _ a bitNo => if i % a = 0 then none else some bitNo
  | .t _ | .b _ => none

/-- The offending index and class of a use beyond the declaration (R34). -/
def Use.beyond (p : Packet) : Use → Option (Nat × Nat)
  | .v i n _ _ => if i + n ≤ p.regs then none else some (max i p.regs, 0)
  | .s i n _ _ => if i + n ≤ p.scal then none else some (max i p.scal, 1)
  | .t i => if i < p.tiles then none else some (i, 2)
  | .b i => if i < p.bars then none else some (i, 3)

/-- The register-index trap (R34).
Log entry 24 (DEDUCED). -/
def Env.regTrap (e : Env) (idx cls : Nat) : Stop := .trap ⟨4, e.c.mask, idx % 256 + cls * 256, []⟩

/-- The checks of a word's register fields: misaligned groups (R35, R129), then the declaration (R34).
Log entry 24 (DEDUCED). -/
def Env.uses (e : Env) (us : List Use) : Option Stop :=
  match us.findSome? Use.misaligned with
  | some b => some (e.ill b)
  | none =>
    match us.findSome? (Use.beyond e.l.pk) with
    | some (i, c) => some (e.regTrap i c)
    | none => none

/-- The alignment part of the register checks: REASON 0, which precedes every other cause (R42, R307).
Log entry 24 (DEDUCED). -/
def Env.aligned (e : Env) (us : List Use) : Except Stop Unit :=
  match us.findSome? Use.misaligned with
  | some b => .error (e.ill b)
  | none => .ok ()

/-- The collective rule (R36): none when every launched lane is present with a true guard; else the trap, or `some none` for a
word that retires with no effect. -/
def Env.collective (e : Env) (g : Guard) : Option (Option Trap) :=
  let absent := e.w.lmask &&& ~~~e.c.mask
  let on := e.g g
  if absent != 0 then some (some ⟨3, e.c.mask, absent.toNat, []⟩)
  else if on &&& e.w.lmask = 0 then some none
  else if on &&& e.w.lmask = e.w.lmask then none
  else some (some ⟨3, e.c.mask, (e.w.lmask &&& ~~~on).toNat, []⟩)

/-- Run an operation only if the collective rule lets it.
Log entry 24 (DEDUCED). -/
def collectively (g : Guard) (op : Op) : Op := fun e s =>
  match e.collective g with
  | some (some t) => .trap t
  | some none => .ok s
  | none => op e s

/-- Run an operation after the register checks.
Log entry 24 (DEDUCED). -/
def checked (us : List Use) (op : Op) : Op := fun e s =>
  match e.uses us with
  | some st => st.res
  | none => op e s

/-- Once per warp, and only if some lane of the group has a true guard (R221).
Log entry 24 (DEDUCED). -/
def oncePerWarp (g : Guard) (op : Op) : Op := fun e s => if e.g g = 0 then .ok s else op e s

/-! ## Words that leave lanes' values (R146) -/

/-- A word of the register classes: it computes the new warp from the old one, or is refused. -/
abbrev AluOp := Env → Warp → Except Stop Warp

/-- Perform a register-class word. -/
def aluOp (f : AluOp) : Op := fun e s =>
  match s.warp? e.c.core e.c.slot with
  | none => .ok s
  | some w =>
    match f e w with
    | .error st => st.res
    | .ok w' => .ok (s.setWarp e.c.core e.c.slot w')

/-- Apply a per-lane write to the lanes of `g`. -/
def overLanes (g : LaneMask) (f : Nat → Warp → Warp) (w : Warp) : Warp := (lanesOf g).foldl (fun w l => f l w) w

/-- Check uses in an `Except`. -/
def Env.need (e : Env) (us : List Use) : Except Stop Unit :=
  match e.uses us with
  | some st => .error st
  | none => .ok ()

/-- Register checks of a word whose REASON 0 condition `chk` rests on the values of the registers `src`: misaligned groups, then
the condition, where `src` lies within the declaration, then the other registers (R42, R307).
Log entry 24 (DEDUCED). -/
def Env.valued (e : Env) (us src : List Use) (chk : Except Stop Unit) : Except Stop Unit := do
  e.aligned us
  if (e.uses src).isNone then chk else pure ()
  e.need us

/-- Refuse with REASON 0 and the given INFO when the condition holds (R147).
Log entry 25 (DESIGN CHOICE). -/
def Env.refuseIf (e : Env) (bad : Bool) (info : Nat) : Except Stop Unit := if bad then .error (e.ill info) else .ok ()

end Sys2Proof.Machine
end

