-- ==== Sys2Proof/Machine/Operands.lean ====
section
/-!
DEFINITION. Machine/Operands.lean: every operand form of the register classes: broadcast sources, register pairs and groups,
per-lane and scalar destinations, element widths and the values of the format codes.
-/

namespace Sys2Proof.Machine

/-- The 32-bit value of a source in a lane (R129). -/
def Warp.src (w : Warp) (s : Src) (l : Nat) : Word :=
  match s with
  | .v i => w.v i.toNat l
  | .s i => w.s i.toNat

/-- The `k`-th word after a source's register in a lane. -/
def Warp.srcAt (w : Warp) (s : Src) (k l : Nat) : Word :=
  match s with
  | .v i => w.v (i.toNat + k) l
  | .s i => w.s (i.toNat + k)

/-- The 64-bit value of a source: the pair it names (R35, R129). -/
def Warp.src64 (w : Warp) (s : Src) (l : Nat) : DWord := join64 (w.srcAt s 0 l) (w.srcAt s 1 l)

/-- The value of a source at an element width of 32 or 64 bits, as a number. -/
def Warp.elem (w : Warp) (s : Src) (wd l : Nat) : Nat :=
  if wd = 64 then (w.src64 s l).toNat else (w.src s l).toNat

/-- Write an element of 32 or 64 bits. -/
def Warp.setElem (w : Warp) (d : VReg) (wd l : Nat) (x : Nat) : Warp :=
  if wd = 64 then w.setV64 d.toNat l (BitVec.ofNat 64 x) else w.setV d.toNat l (BitVec.ofNat 32 x)

end Sys2Proof.Machine

namespace Sys2Proof

/-- The registers a source field uses: `n` of them, aligned to `n` when that is a pair or a quad. -/
def Src.use (s : Src) (n bitNo : Nat) : Machine.Use :=
  match s with
  | .v i => .v i.toNat n n bitNo
  | .s i => .s i.toNat n n bitNo

end Sys2Proof

namespace Sys2Proof.Machine

/-- The destination field of `n` registers, aligned to `n`. -/
def useD (d : VReg) (n : Nat) : Use := .v d.toNat n n 43

end Sys2Proof.Machine

namespace Sys2Proof

def Dst.use (d : Dst) (n : Nat) : Machine.Use :=
  match d with
  | .v i => .v i.toNat n n 43
  | .s i => .s i.toNat n n 43

end Sys2Proof

namespace Sys2Proof.Machine

/-- Registers of one element of `wd` bits. -/
def regsOf (wd : Nat) : Nat := if wd = 64 then 2 else 1

end Sys2Proof.Machine

namespace Sys2Proof

/-- The width of an integer type of 32 or 64 bits (R146). -/
def Fmt.intWidth : Fmt → Option Nat
  | .n32 | .i32 => some 32
  | .n64 | .i64 => some 64
  | _ => none

/-- The signed integer types (R107). -/
def Fmt.isSigned : Fmt → Bool
  | .i8 | .i16 | .i32 | .i64 | .i4 => true
  | _ => false

def Fmt.isFloat (t : Fmt) : Bool := t.fspec.isSome

end Sys2Proof

namespace Sys2Proof.Machine

/-- The element width of TYPE, or REASON 0 with INFO 10 for a type outside the accepted list (R130, R146). -/
def Env.intType (e : Env) (ty : Fmt) : Except Stop Nat :=
  match ty.intWidth with
  | some w => .ok w
  | none => .error (e.ill 10)

/-- A 32-bit type only (R152, R159). -/
def Env.only (e : Env) (ok : List Fmt) (ty : Fmt) : Except Stop Unit := e.refuseIf (!ok.contains ty) 10

/-- A sign-extended immediate at a width, as a number (R131). -/
def simm (imm : BitVec 16) (wd : Nat) : Nat := modW wd imm.toInt

/-- The scalar destination of a word that acts once (R148). -/
def Warp.setDstS (w : Warp) (d : SReg) (wd : Nat) (x : Nat) : Warp :=
  if wd = 64 then w.setS64 d.toNat (BitVec.ofNat 64 x) else w.setS d.toNat (BitVec.ofNat 32 x)

/-- The lowest lane of a mask. -/
def lowest (m : LaneMask) : Nat := (lanesOf m).headD 0

/-- The highest lane of a mask. -/
def highest (m : LaneMask) : Nat := (lanesOf m).getLastD 0

/-- The values of `bits`-wide element `j` of a lane word (R108). -/
def narrow (x : Word) (bits j : Nat) : Nat := fld x.toNat (bits * j) bits

/-- A lane word with its `bits`-wide element `j` replaced. -/
def setNarrow (x : Word) (bits j v : Nat) : Word :=
  BitVec.ofNat 32 (x.toNat - narrow x bits j * 2 ^ (bits * j) + v % 2 ^ bits * 2 ^ (bits * j))

end Sys2Proof.Machine
end

