-- ==== Sys2Proof/Machine/Flags.lean ====
section
/-!
DEFINITION. Machine/Flags.lean: every flag computation of the spec. The flags of Plivos are predicates and trap conditions:
carry and borrow (R151), the comparisons (R158, R179), saturation (R107) and the arithmetic conditions (R113).
-/

namespace Sys2Proof.Machine

/-- The sum with a carry in: the low `w` bits and the carry out (R151). -/
def addCarry (w a b c : Nat) : Nat × Bool := ((a + b + c) % 2 ^ w, decide (2 ^ w ≤ a + b + c))

/-- The difference with a borrow in: the low `w` bits and the borrow out (R151). -/
def subBorrow (w a b c : Nat) : Nat × Bool := ((a + 2 ^ (w + 1) - b - c) % 2 ^ w, decide (a < b + c))

/-- Sat(x, type) for a signed or unsigned type of `w` bits (R107). -/
def satInt (signed : Bool) (w : Nat) (x : Int) : Int :=
  if signed then max (-(2 ^ (w - 1) : Nat)) (min ((2 ^ (w - 1) - 1 : Nat)) x) else max 0 (min ((2 ^ w - 1 : Nat)) x)

/-- A number of `w` bits read with the given signedness (R146). -/
def readInt (signed : Bool) (w a : Nat) : Int := if signed then signedOf w a else (a % 2 ^ w : Nat)

/-- ICMP's condition codes 0 to 7 (R158). -/
def icmpHolds (cc : Nat) (signed : Bool) (w a b : Nat) : Bool :=
  let x := readInt signed w a
  let y := readInt signed w b
  match cc with
  | 0 => x == y
  | 1 => x != y
  | 2 => x < y
  | 3 => x ≤ y
  | 4 => x > y
  | 5 => x ≥ y
  | 6 => Nat.land a b % 2 ^ w != 0
  | _ => Nat.land a b % 2 ^ w == 0

/-- FCMP's condition codes 0 to 7 (R179). -/
def fcmpHolds (cc : Nat) (a b : XVal) : Bool :=
  let un := a.isNan || b.isNan
  let o := cmpX a b
  match cc with
  | 0 => !un && o == .eq
  | 1 => un || o != .eq
  | 2 => !un && o == .lt
  | 3 => !un && o != .gt
  | 4 => !un && o == .gt
  | 5 => !un && o != .lt
  | 6 => !un
  | _ => un

/-- The arithmetic conditions of one lane (R113): invalid, division by zero, overflow. -/
structure Conds where
  inv : Bool := false
  dz : Bool := false
  ovf : Bool := false
  deriving DecidableEq, Repr

def Conds.or (a b : Conds) : Conds := ⟨a.inv || b.inv, a.dz || b.dz, a.ovf || b.ovf⟩

/-- The conditions that %ctxmode enables, as the bits of %trinfo (R113). -/
def Conds.enabled (c : Conds) (mode : Word) : Nat :=
  (if c.inv && mode.getLsbD 1 then 1 else 0) + (if c.dz && mode.getLsbD 2 then 2 else 0)
    + (if c.ovf && mode.getLsbD 3 then 4 else 0)

/-- The conditions as the bits of %trinfo (R113). -/
def Conds.bits (c : Conds) : Nat := (if c.inv then 1 else 0) + (if c.dz then 2 else 0) + (if c.ovf then 4 else 0)

/-- The arithmetic trap of the lanes in which an enabled condition arose, if any; %trinfo holds every condition that arose in
them (R113). -/
def arithTrap (mode : Word) (lanes : List (Nat × Conds)) : Option Stop :=
  let hit := lanes.filter (fun p => p.2.enabled mode != 0)
  if hit.isEmpty then none
  else
    let all : Conds := hit.foldl (fun c p => Conds.or c p.2) {}
    some (.trap ⟨11, maskOf (hit.map (·.1)), all.bits, []⟩)

end Sys2Proof.Machine
end

