-- ==== Sys2Proof/Machine/Float.lean ====
section
/-!
DEFINITION. Machine/Float.lean: the float class (R173 to R192).
-/

namespace Sys2Proof.Machine

/-! ## Shared rules (R173, R111 to R113) -/

/-- The flush mode of the context (R112). -/
def Env.flush (e : Env) : Bool := e.c.mode.getLsbD 0

/-- The result of an exact value in a format: the encoding and its conditions; `inv` says the operation was invalid. -/
def floatRes (f : FSpec) (rm : Rm) (flush : Bool) (r : XVal × Bool) : Nat × Conds :=
  let (c, ov) := f.round rm r.1
  (f.output flush c, { inv := r.2, ovf := ov })

/-- Elements of a lane word (R173). -/
def FSpec.lanes (f : FSpec) : Nat := if f.width = 16 then 2 else 1
/-- Width of the register group of one lane. -/
def FSpec.regWidth (f : FSpec) : Nat := if f.width = 64 then 64 else 32

/-- A lane word from the codes of its elements, each of `bits` bits, element 0 lowest (R108). -/
def packCodes (bits : Nat) (cs : List Nat) : Nat := cs.foldr (fun c acc => c % 2 ^ bits + acc * 2 ^ bits) 0

/-- The code of element `k` of a lane word. -/
def FSpec.elem (f : FSpec) (n k : Nat) : Nat := fld n (f.width * k) f.width

/-- The types F, and those of FCMP, FCLASS, FRCP and FSQRT (Table 1). -/
def typesF : List Fmt := [.f32, .f64, .f16, .bf16]
def types3264 : List Fmt := [.f32, .f64]

/-- The format of TYPE, if it is one that the instruction accepts (R130). -/
def Env.floatType (e : Env) (accepted : List Fmt) (ty : Fmt) : Except Stop FSpec :=
  match ty.fspec with
  | some f => if accepted.contains ty then .ok f else .error (e.ill 10)
  | none => .error (e.ill 10)

/-- SR is refused unless the result format is f8e4, f8e5 or f4 (R109, R173). -/
def Env.noSr (e : Env) (rm : Rm) : Except Stop Unit := e.refuseIf (rm == .sr) 7

/-- The rounding mode of a word that takes one, or none (R173): a nonzero RM is REASON 0 where none is taken. -/
def Env.modeOk (e : Env) (takesRm : Bool) (rm : Rm) : Except Stop Unit :=
  if takesRm then e.noSr rm else e.refuseIf (rm != .rne) 7

/-- Write per-lane results, unless an enabled condition arose in some lane (R113). The results of a lane are the words of
consecutive destination elements. -/
def Env.deliver (e : Env) (w : Warp) (rs : List (Nat × Conds × Nat)) (put : Warp → Nat → Nat → Warp) :
    Except Stop Warp :=
  match arithTrap e.c.mode (rs.map (fun r => (r.1, r.2.1))) with
  | some st => .error st
  | none => .ok (rs.foldl (fun w r => put w r.1 r.2.2) w)

/-- One lane's result from its elements' codes and conditions. -/
def joinElems (f : FSpec) (l : Nat) (rs : List (Nat × Conds)) : Nat × Conds × Nat :=
  (l, rs.foldl (fun c r => Conds.or c r.2) {}, packCodes f.width (rs.map (·.1)))

/-- An element-wise word: `fn lane element` gives the code and the conditions (R173, R176). -/
def Env.floatWord (e : Env) (w : Warp) (g : Guard) (d : VReg) (f : FSpec) (fn : Nat → Nat → Nat × Conds) :
    Except Stop Warp :=
  e.deliver w ((lanesOf (e.g g)).map (fun l => joinElems f l ((List.range f.lanes).map (fn l))))
    (fun w l x => w.setElem d f.regWidth l x)

/-- The code of element `k` of a source in a lane. -/
def Env.fcode (e : Env) (f : FSpec) (a : Src) (l k : Nat) : Nat := f.elem (e.w.elem a f.regWidth l) k

/-- The value of element `k` of a source in a lane, read under the flush mode. -/
def Env.fval (e : Env) (f : FSpec) (a : Src) (l k : Nat) : XVal := f.input e.flush (e.fcode f a l k)

/-- The value of an S-layout immediate (R131, R175). -/
def immX (imm : BitVec 16) : XVal := specF32.value (imm.toNat * 65536)

/-- The immediate as the class reads it, or REASON 0 where f16 cannot hold it (R175). -/
def Env.immVal (e : Env) (f : FSpec) (imm : BitVec 16) : Except Stop XVal :=
  let x := immX imm
  let lost := match x with
    | .fin .. => cmpX x (f.value (f.round .rtz x).1) != .eq
    | _ => false
  if f == specF16 && lost then .error (e.ill 19)
  else if f.flushes then .ok (specF32.input e.flush (imm.toNat * 65536))
  else .ok x

/-! ## Two and three operands (R176, R177) -/

/-- An exact binary operation: the value and the invalid condition. -/
abbrev BinX := Rm → XVal → XVal → XVal × Bool

def xAdd : BinX := fun rm a b => addX rm a b
def xSub : BinX := fun rm a b => addX rm a b.flip
def xMul : BinX := fun _ a b => mulX a b
def xMin : BinX := fun _ a b => (minMaxX false a b, false)
def xMax : BinX := fun _ a b => (minMaxX true a b, false)

/-- FMIN and FMAX raise no condition (R177). -/
def quiet (r : Nat × Conds) : Nat × Conds := (r.1, {})

def floatBin (keep : Bool) (fn : BinX) (o : OpF3) : AluOp := fun e w => do
  let f ← e.floatType typesF o.ty
  e.modeOk keep o.rm
  let n := regsOf f.regWidth
  e.need [useD o.d n, o.a.use n 35, o.b.use n 27]
  e.floatWord w o.g o.d f (fun l k =>
    let r := floatRes f o.rm e.flush (fn o.rm (e.fval f o.a l k) (e.fval f o.b l k))
    if keep then r else quiet r)

def floatBinS (keep : Bool) (fn : BinX) (o : OpFS) : AluOp := fun e w => do
  let f ← e.floatType typesF o.ty
  e.modeOk keep o.rm
  let b ← e.immVal f o.imm
  let n := regsOf f.regWidth
  e.need [useD o.d n, o.a.use n 35]
  e.floatWord w o.g o.d f (fun l k =>
    let r := floatRes f o.rm e.flush (fn o.rm (e.fval f o.a l k) b)
    if keep then r else quiet r)

def opFadd (o : OpF3) : Op := aluOp (floatBin true xAdd o)
def opFsub (o : OpF3) : Op := aluOp (floatBin true xSub o)
def opFmul (o : OpF3) : Op := aluOp (floatBin true xMul o)
def opFmin (o : OpF3) : Op := aluOp (floatBin false xMin o)
def opFmax (o : OpF3) : Op := aluOp (floatBin false xMax o)
def opFaddImm (o : OpFS) : Op := aluOp (floatBinS true xAdd o)
def opFsubImm (o : OpFS) : Op := aluOp (floatBinS true xSub o)
def opFmulImm (o : OpFS) : Op := aluOp (floatBinS true xMul o)
def opFminImm (o : OpFS) : Op := aluOp (floatBinS false xMin o)
def opFmaxImm (o : OpFS) : Op := aluOp (floatBinS false xMax o)

/-- FFMA: one rounding (R176). -/
def opFfma (o : OpF4) : Op := aluOp fun e w => do
  let f ← e.floatType typesF o.ty
  e.noSr o.rm
  let n := regsOf f.regWidth
  e.need [useD o.d n, o.a.use n 35, o.b.use n 27, o.c.use n 19]
  e.floatWord w o.g o.d f (fun l k =>
    floatRes f o.rm e.flush (fmaX o.rm (e.fval f o.a l k) (e.fval f o.b l k) (e.fval f o.c l k)))

/-- A value scaled by 2^k (R178). -/
def scaleX (x : XVal) (k : Int) : XVal :=
  match x with
  | .fin n a e => .fin n a (e + k)
  | y => y

/-- FSCALE (R178): the exponent range is limited to ±5,000, beyond which every format has overflowed or become zero. -/
def opFscale (o : OpF3) : Op := aluOp fun e w => do
  let f ← e.floatType typesF o.ty
  e.noSr o.rm
  let n := regsOf f.regWidth
  e.need [useD o.d n, o.a.use n 35, o.b.use 1 27]
  e.floatWord w o.g o.d f (fun l k =>
    let s := max (-5000) (min 5000 (signedOf 32 (e.w.elem o.b 32 l)))
    floatRes f o.rm e.flush (scaleX (e.fval f o.a l k) s, false))

/-! ## Compare and classify (R179, R180) -/

def opFcmp (o : OpFCmp) : Op := aluOp fun e w => do
  let f ← e.floatType types3264 o.ty
  e.modeOk false o.rm
  e.refuseIf (8 ≤ o.cc.toNat) 3
  let n := regsOf f.regWidth
  e.need [o.a.use n 35, o.b.use n 27]
  .ok (overLanes (e.g o.g) (fun l w =>
    w.setP o.d.toNat l (fcmpHolds o.cc.toNat (e.fval f o.a l 0) (e.fval f o.b l 0))) w)

def opFcmpImm (o : OpFCmpS) : Op := aluOp fun e w => do
  let f ← e.floatType types3264 o.ty
  e.modeOk false o.rm
  e.refuseIf (8 ≤ o.cc.toNat) 3
  let b ← e.immVal f o.imm
  let n := regsOf f.regWidth
  e.need [o.a.use n 35]
  .ok (overLanes (e.g o.g) (fun l w => w.setP o.d.toNat l (fcmpHolds o.cc.toNat (e.fval f o.a l 0) b)) w)

/-- The class bit of an encoding (R180). -/
def FSpec.classOf (f : FSpec) (flush : Bool) (c : Nat) : Nat :=
  let neg := c / f.signBit % 2 == 1
  let mag := c % f.signBit
  let ex := mag / 2 ^ f.m
  let ma := mag % 2 ^ f.m
  if ex = 2 ^ f.e - 1 then
    if ma = 0 then (if neg then 0 else 7) else if ma / 2 ^ (f.m - 1) = 1 then 9 else 8
  else if ex = 0 then
    if ma = 0 || (flush && f.flushes) then (if neg then 3 else 4) else (if neg then 2 else 5)
  else if neg then 1 else 6

def opFclass (o : OpF2) : Op := aluOp fun e w => do
  let f ← e.floatType types3264 o.ty
  e.modeOk false o.rm
  let n := regsOf f.regWidth
  e.need [useD o.d 1, o.a.use n 35]
  .ok (overLanes (e.g o.g) (fun l w => w.setElem o.d 32 l (2 ^ f.classOf e.flush (e.fcode f o.a l 0))) w)

/-! ## Reciprocal and square root (R181) -/

def recip (f : FSpec) (rm : Rm) (flush : Bool) (x : XVal) : Nat × Conds :=
  match x with
  | .nan => (f.qnan, {})
  | .inf n => (f.sgn n, {})
  | .fin n a e =>
    if a = 0 then (f.sgn n + f.infCode, { dz := true })
    else
      let (c, ov) := f.roundRat rm n 1 a (-e)
      (f.output flush c, { ovf := ov })

/-- √(a × 2^e) as a number with at least 64 correct bits and an odd last bit where it is inexact. -/
def sqrtX (a : Nat) (e : Int) : XVal :=
  let k : Nat := if e % 2 = 0 then 160 else 161
  let n := a * 2 ^ k
  let r := isqrt n
  .fin false (2 * r + (if r * r = n then 0 else 1)) ((e - k) / 2 - 1)

def sqroot (f : FSpec) (rm : Rm) (flush : Bool) (x : XVal) : Nat × Conds :=
  match x with
  | .nan => (f.qnan, {})
  | .inf n => if n then (f.qnan, { inv := true }) else (f.infCode, {})
  | .fin n a e =>
    if a = 0 then (f.sgn n, {})
    else if n then (f.qnan, { inv := true })
    else floatRes f rm flush (sqrtX a e, false)

def floatUn (accepted : List Fmt) (takesRm : Bool) (fn : FSpec → Rm → Bool → Nat → XVal → Nat × Conds) (o : OpF2) : AluOp := fun e w => do
  let f ← e.floatType accepted o.ty
  e.modeOk takesRm o.rm
  let n := regsOf f.regWidth
  e.need [useD o.d n, o.a.use n 35]
  e.floatWord w o.g o.d f (fun l k => fn f o.rm e.flush (e.fcode f o.a l k) (e.fval f o.a l k))

def opFrcp (o : OpF2) : Op := aluOp (floatUn types3264 true (fun f rm fl _ x => recip f rm fl x) o)
def opFsqrt (o : OpF2) : Op := aluOp (floatUn types3264 true (fun f rm fl _ x => sqroot f rm fl x) o)

/-! ## The approximations (R182) -/

/-- The free result of an approximation where it keeps the bound 2^`b` about `y`, and else `y` rounded.
Log entry 11 (DEDUCED). -/
def approxWithin (op x : Nat) (flush : Bool) (y : XVal) (b : Int) (lim : Bool) : Nat :=
  let c := Config.approx op x flush % 2 ^ 32
  let v := specF32.value c
  let inOne := match v with
    | .fin _ n e => cmpX (.fin false n e) (.fin false 1 0) != .gt
    | _ => false
  specF32.output flush (if within v y b && (!lim || inOne) then c else (specF32.round .rne y).1)

/-- FRSQ: exact at powers of four; elsewhere either neighbour of 1/√x, a free choice fixed by the input and the mode. -/
def rsqrt (flush : Bool) (x : Nat) (v : XVal) : Nat × Conds :=
  match v with
  | .nan => (specF32.qnan, {})
  | .inf n => if n then (specF32.qnan, { inv := true }) else (0, {})
  | .fin n a e =>
    if a = 0 then (specF32.sgn n + specF32.infCode, { dz := true })
    else if n then (specF32.qnan, { inv := true })
    else
      let t := 60 + (ilog a 1 + e).natAbs
      let r := isqrt ((2 : Nat) ^ (2 * (t : Int) - e).toNat / a)
      let c := (specF32.floorCode r 1 (-(t : Int))).1
      let exact := a = 2 ^ Nat.log2 a && ((Nat.log2 a : Int) + e) % 2 == 0
      (if exact then c else if Config.freeBit (2 * (2 * x + flush.toNat) + 1) then c + 1 else c, {})

def exp2 (flush : Bool) (x : Nat) (v : XVal) : Nat × Conds :=
  match v with
  | .nan => (specF32.qnan, {})
  | .inf n => (if n then 0 else specF32.infCode, {})
  | .fin n a e =>
    if a = 0 then ((specF32.round .rne (.fin false 1 0)).1, {})
    else if cmpX v (.fin false 128 0) != .lt then (specF32.infCode, { ovf := true })
    else if cmpX v (.fin true 150 0) == .lt then (0, {})
    else
      let whole := roundInt .rtz n a 1 e
      if cmpX v (.ofInt whole) == .eq && -149 ≤ whole then
        (specF32.output flush (specF32.round .rne (.fin false 1 whole)).1, {})
      else
        let (m, k) := expRat true n a e
        let y : XVal := .fin false m k
        let b := if cmpX y (.fin false 1 (-126)) == .lt then -148 else ulpExp32 m k + 1
        (approxWithin 0 x flush y b false, {})

/-- log2 of a positive finite value, as an exact fixed-point number. -/
def log2X (a : Nat) (e : Int) : XVal :=
  let y := lnFx a e * 2 ^ fxp / ln2Fx
  .fin (y < 0) y.natAbs (-(fxp : Int))

def flog2 (flush : Bool) (x : Nat) (v : XVal) : Nat × Conds :=
  match v with
  | .nan => (specF32.qnan, {})
  | .inf n => if n then (specF32.qnan, { inv := true }) else (specF32.infCode, {})
  | .fin n a e =>
    if a = 0 then (specF32.sgn true + specF32.infCode, { dz := true })
    else if n then (specF32.qnan, { inv := true })
    else if a = 2 ^ Nat.log2 a then ((specF32.round .rne (.ofInt ((Nat.log2 a : Int) + e))).1, {})
    else
      let y := log2X a e
      let near := cmpX v (.fin false 1 (-1)) != .lt && cmpX v (.fin false 2 0) != .gt
      let b := match y with
        | .fin _ m k => if near then -22 else ulpExp32 m k + 1
        | _ => 0
      (approxWithin 1 x flush y b false, {})

def sinCos (cosine : Bool) (flush : Bool) (x : Nat) (v : XVal) : Nat × Conds :=
  match v with
  | .nan => (specF32.qnan, {})
  | .inf _ => (specF32.qnan, { inv := true })
  | .fin n a e =>
    if a = 0 then (if cosine then ((specF32.round .rne (.fin false 1 0)).1, {}) else (specF32.sgn n, {}))
    else
      let y := sinFx cosine n a e
      (approxWithin (if cosine then 3 else 2) x flush (.fin (y < 0) y.natAbs (-(fxp : Int))) (-21) true, {})

def opFrsq (o : OpF2) : Op := aluOp (floatUn [.f32] false (fun _ _ fl c x => rsqrt fl c x) o)
def opFexp2 (o : OpF2) : Op := aluOp (floatUn [.f32] false (fun _ _ fl c x => exp2 fl c x) o)
def opFlog2 (o : OpF2) : Op := aluOp (floatUn [.f32] false (fun _ _ fl c x => flog2 fl c x) o)
def opFsin (o : OpF2) : Op := aluOp (floatUn [.f32] false (fun _ _ fl c x => sinCos false fl c x) o)
def opFcos (o : OpF2) : Op := aluOp (floatUn [.f32] false (fun _ _ fl c x => sinCos true fl c x) o)

/-! ## Conversions (R183 to R186) -/

/-- A draw of the lane's generator (R110): the new state and the 16 bits. -/
def draw (st : Word) : Word × Nat :=
  let a := st ^^^ (st <<< 13)
  let b := a ^^^ (a >>> 17)
  let c := b ^^^ (b <<< 5)
  (c, (c >>> 16).toNat)

/-- A format of FCVT: a floating-point format, e3m5, or E8M0 (none). -/
abbrev CvtFmt := Option FSpec

def CvtFmt.width : CvtFmt → Nat
  | some f => f.width
  | none => 8

/-- The value of a source code, and its sign where it is a NaN. -/
def cvtValue (f : CvtFmt) (flush : Bool) (c : Nat) : XVal × Bool :=
  match f with
  | some s => (s.input flush c, s.signed && c / s.signBit % 2 == 1)
  | none => (e8m0Value c, false)

/-- Round one element, drawing for SR where a draw is needed: the code, the generator, and whether a finite source became
infinite (R110, R183). -/
def cvtElem (d : FSpec) (rm : Rm) (flush : Bool) (x : XVal × Bool) (st : Word) : Nat × Word × Bool :=
  match rm, x.1 with
  | .sr, .fin n a e =>
    match d.stochastic n a e with
    | (c, none) => (c, st, false)
    | (c, some t) =>
      let (st', r) := draw st
      (if r < t then c + 1 else c, st', false)
  | _, v =>
    let (c, ov) := d.round rm v x.2
    (d.output flush c, st, ov)

/-- One lane of FCVT: the codes, the generator and the overflow. -/
def cvtLane (d : FSpec) (rm : Rm) (flush : Bool) (xs : List (XVal × Bool)) (st : Word) : List Nat × Word × Bool :=
  xs.foldl (fun acc x =>
    let (c, st', ov) := cvtElem d rm flush x acc.2.1
    (acc.1 ++ [c], st', acc.2.2 || ov)) ([], st, false)

/-- The scale format that SCF names, or REASON 0 (R184). -/
def cvtFmts (o : OpFCvt) : Option (CvtFmt × CvtFmt) :=
  let d := o.ty == .n8
  let s := o.src.toNat == 0
  let sf : CvtFmt := match o.src.toNat with
    | 9 => some specF4
    | 10 => some specF8e4
    | 11 => some specF8e5
    | 12 => some specF16
    | 13 => some specBf16
    | 14 => some specF32
    | 15 => some specF64
    | _ => none
  match o.scf.toNat with
  | 0 => if d || s then none else some (o.ty.fspec, sf)
  | 1 => if d == s then none else if d then some (some specE3m5, sf) else some (o.ty.fspec, some specE3m5)
  | 2 => if d || !s then none else some (o.ty.fspec, none)
  | _ => none

/-- Registers that `n` elements of `wd` bits occupy. -/
def groupRegs (wd n : Nat) : Nat := if wd = 64 then 2 * n else ceilDiv (n * wd) 32

/-- Source element `k` of a group. -/
def Warp.groupElem (w : Warp) (s : Src) (wd k l : Nat) : Nat :=
  if wd = 64 then (join64 (w.srcAt s (2 * k) l) (w.srcAt s (2 * k + 1) l)).toNat
  else fld (w.srcAt s (k * wd / 32) l).toNat (k * wd % 32) wd

/-- FCVT (R183, R184). -/
def opFcvt (o : OpFCvt) : Op := aluOp fun e w => do
  (if o.wide then .error (.trap (illegalWord e.c.mask 4 17)) else .ok ())
  e.refuseIf (o.ty != .n8 && o.ty.fspec.isNone) 10
  e.refuseIf (o.src.toNat != 0 && !(9 ≤ o.src.toNat && o.src.toNat ≤ 15)) 19
  match cvtFmts o with
  | some (some d, s) =>
    let ws := CvtFmt.width s
    let wd := d.width
    let wn := min ws wd
    let nmax := if wn = 64 then 1 else 32 / wn
    let n := o.n.toNat
    e.refuseIf (o.rm == .sr && !(d == specF8e4 || d == specF8e5 || d == specF4)) 7
    e.refuseIf (n = 0 || nmax < n) 27
    let ns := groupRegs ws n
    let nd := groupRegs wd n
    let us : Use := match o.a with
      | .v i => .v i.toNat ns (regsOf ws) 35
      | .s i => .s i.toNat ns (regsOf ws) 35
    e.need [.v o.d.toNat nd (regsOf wd) 43, us]
    let rs := (lanesOf (e.g o.g)).map (fun l =>
      (l, cvtLane d o.rm e.flush ((List.range n).map (fun k => cvtValue s e.flush (e.w.groupElem o.a ws k l)))
        (Tbl.get 0 e.w.rng l)))
    match arithTrap e.c.mode (rs.map (fun r => (r.1, { ovf := r.2.2.2 }))) with
    | some st => .error st
    | none =>
      .ok (rs.foldl (fun w r =>
        let l := r.1
        let bits := packCodes wd r.2.1
        let w := { w with rng := if o.rm == .sr then Tbl.set 0 w.rng l r.2.2.1 else w.rng }
        (List.range nd).foldl (fun w j => w.setV (o.d.toNat + j) l (BitVec.ofNat 32 (bits / 2 ^ (32 * j)))) w) w)
  | _ => .error (e.ill 3)

/-- The format of a float source code of FCVTI. -/
def fcvtiSrc (c : Nat) : Option FSpec :=
  match c with
  | 12 => some specF16
  | 13 => some specBf16
  | 14 => some specF32
  | 15 => some specF64
  | _ => none

/-- A value rounded to an integer and saturated (R114). -/
def toInt (rm : Rm) (signed : Bool) (wd : Nat) (x : XVal) : Int :=
  match x with
  | .nan => 0
  | .inf n => satInt signed wd (if n then -(2 ^ 64) else 2 ^ 64)
  | .fin n a e =>
    if 64 ≤ ilog a 1 + e && a != 0 then satInt signed wd (if n then -(2 ^ 64) else 2 ^ 64)
    else satInt signed wd (roundInt rm n a 1 e)

def opFcvti (o : OpCvt1) : Op := aluOp fun e w => do
  e.noSr o.rm
  let wd ← e.intType o.ty
  match fcvtiSrc o.src.toNat with
  | none => .error (e.ill 19)
  | some f =>
    e.need [useD o.d (regsOf wd), o.a.use (regsOf f.regWidth) 35]
    e.deliver w ((lanesOf (e.g o.g)).map (fun l =>
      let x := e.fval f o.a l 0
      (l, { inv := x.isNan }, modW wd (toInt o.rm o.ty.isSigned wd x)))) (fun w l x => w.setElem o.d wd l x)

/-- The width and signedness of an integer source code of ICVTF. -/
def icvtfSrc (c : Nat) : Option (Nat × Bool) :=
  match c with
  | 2 => some (32, false)
  | 3 => some (64, false)
  | 6 => some (32, true)
  | 7 => some (64, true)
  | _ => none

def opIcvtf (o : OpCvt1) : Op := aluOp fun e w => do
  let f ← e.floatType typesF o.ty
  e.noSr o.rm
  match icvtfSrc o.src.toNat with
  | none => .error (e.ill 19)
  | some (ws, sg) =>
    e.need [useD o.d (regsOf f.regWidth), o.a.use (regsOf ws) 35]
    e.deliver w ((lanesOf (e.g o.g)).map (fun l =>
      let r := floatRes f o.rm e.flush (.ofInt (readInt sg ws (e.w.elem o.a ws l)), false)
      (l, r.2, r.1))) (fun w l x => w.setElem o.d f.regWidth l x)

/-! ## Dot product and complex multiply (R187, R188) -/

/-- An exact sum of several terms, with IEEE 754's signs and invalid cases: an infinity of each sign, or an invalid
term, is invalid; otherwise a NaN term gives NaN. -/
def sumTerms (rm : Rm) (ts : List (XVal × Bool)) : XVal × Bool :=
  let vs := ts.map (·.1)
  let clash := vs.any (fun v => v == .inf true) && vs.any (fun v => v == .inf false)
  if ts.any (·.2) then (.nan, true)
  else if vs.any XVal.isNan then (.nan, false)
  else if clash then (.nan, true)
  else
    match vs with
    | [] => (.zero false, false)
    | v :: r =>
      let t := r.foldl (fun a x => (addX rm a x).1) v
      let allNeg := vs.all (fun v => v.isZero && v.neg?)
      let allPos := vs.all (fun v => v.isZero && !v.neg?)
      (if t.isZero then .zero (if allNeg then true else if allPos then false else rm == .rdn) else t, false)

def opFdot2 (o : OpF4) : Op := aluOp fun e w => do
  let f ← e.floatType [.f16, .bf16] o.ty
  e.noSr o.rm
  e.need [useD o.d 1, o.a.use 1 35, o.b.use 1 27, o.c.use 1 19]
  e.deliver w ((lanesOf (e.g o.g)).map (fun l =>
    let p := fun k => mulX (e.fval f o.a l k) (e.fval f o.b l k)
    let r := floatRes specF32 o.rm e.flush (sumTerms o.rm [p 0, p 1, (e.fval specF32 o.c l 0, false)])
    (l, r.2, r.1))) (fun w l x => w.setElem o.d 32 l x)

/-- The code of part `i` (real 0, imaginary 1) of a complex source. -/
def Env.cpart (e : Env) (f : FSpec) (s : Src) (i l : Nat) : XVal :=
  let n := regsOf f.regWidth
  let code := if n = 1 then (e.w.srcAt s i l).toNat else (join64 (e.w.srcAt s (2 * i) l) (e.w.srcAt s (2 * i + 1) l)).toNat
  f.input e.flush code

def opCmul (o : OpCMul) : Op := aluOp fun e w => do
  e.refuseIf (!(o.ty == .c64 || o.ty == .c128)) 10
  e.noSr o.rm
  let f := if o.ty == .c128 then specF64 else specF32
  let n := 2 * regsOf f.regWidth
  let cu : List Use := match o.c with
    | some c => [c.use n 19]
    | none => []
  e.need ([useD o.d n, o.a.use n 35, o.b.use n 27] ++ cu)
  e.deliver w ((lanesOf (e.g o.g)).map (fun l =>
    let ar := e.cpart f o.a 0 l
    let ai := e.cpart f o.a 1 l
    let br := e.cpart f o.b 0 l
    let bi := if o.cj then (e.cpart f o.b 1 l).flip else e.cpart f o.b 1 l
    let c := fun i => match o.c with
      | some s => e.cpart f s i l
      | none => XVal.zero false
    let neg := fun (t : XVal × Bool) => (t.1.flip, t.2)
    let re := floatRes f o.rm e.flush (sumTerms o.rm [mulX ar br, neg (mulX ai bi), (c 0, false)])
    let im := floatRes f o.rm e.flush (sumTerms o.rm [mulX ar bi, mulX ai br, (c 1, false)])
    (l, re.2.or im.2, re.1 + im.1 * 2 ^ f.width)))
    (fun w l x => (List.range n).foldl (fun w j => w.setV (o.d.toNat + j) l (BitVec.ofNat 32 (x / 2 ^ (32 * j)))) w)

/-! ## Hadamard transform and quantisation (R189 to R191, R124) -/

/-- An f32 result under RNE and the flush mode, with its overflow. -/
def f32Res (flush : Bool) (x : XVal) : Nat × Bool :=
  let (c, ov) := specF32.round .rne x
  (specF32.output flush c, ov)

/-- One stage of the transform on the codes of the elements. -/
def hadStage (flush : Bool) (s : Nat) (xs : List Nat) : List (Nat × Bool) :=
  (List.range xs.length).map (fun i =>
    let v := fun j => specF32.input flush (xs.getD j 0)
    if bit i s then f32Res flush (addX .rne (v (i - 2 ^ s)) (v i).flip).1
    else f32Res flush (addX .rne (v i) (v (i + 2 ^ s))).1)

/-- The transform, with an overflow anywhere. -/
def hadamard (flush : Bool) (stages : Nat) (norm : Bool) (xs : List Nat) : List Nat × Bool :=
  let (ys, ov) := (List.range stages).foldl (fun (acc : List Nat × Bool) s =>
    let r := hadStage flush s acc.1
    (r.map (·.1), acc.2 || r.any (·.2))) (xs, false)
  if !norm then (ys, ov)
  else
    let k : XVal := match stages with
      | 5 => specF32.value 0x3E3504F3
      | 6 => .fin false 1 (-3)
      | 7 => specF32.value 0x3DB504F3
      | _ => .fin false 1 (-4)
    let r := ys.map (fun c => f32Res flush (mulX (specF32.input flush c) k).1)
    (r.map (·.1), ov || r.any (·.2))

def opHad (o : OpHad) : Op := aluOp fun e w => do
  let f ← e.floatType [.f32, .f16, .bf16] o.ty
  e.modeOk false o.rm
  let n := 2 ^ o.len.toNat
  let a := o.a.toNat
  let d := o.d.toNat
  e.refuseIf (d % n != 0) 43
  e.refuseIf (a % n != 0) 35
  e.refuseIf (a != d && a < d + n && d < a + n) 35
  e.need [.v d n 1 43, .v a n 1 35]
  let xs := (List.range (32 * n)).map (fun i =>
    f32Res e.flush (f.input e.flush ((e.w.v (a + i / 32) (i % 32)).toNat % 2 ^ f.width)) |>.1)
  let (ys, ov) := hadamard e.flush (5 + o.len.toNat) o.nrm xs
  let ls := lanesOf (e.g o.g)
  match arithTrap e.c.mode (ls.map (fun l => (l, { ovf := ov }))) with
  | some st => .error st
  | none =>
    .ok (overLanes (e.g o.g) (fun l w =>
      (List.range n).foldl (fun w j => w.setV (d + j) l (BitVec.ofNat 32 (ys.getD (32 * j + l) 0))) w) w)

/-- Elements and bits of a packed type of QNT and DQNT. -/
def Env.packedType (e : Env) (ty : Fmt) : Except Stop (Nat × Nat) :=
  match ty with
  | .i4 => .ok (8, 4)
  | .i8 => .ok (4, 8)
  | _ => .error (e.ill 10)

def opQnt (o : OpQnt) : Op := aluOp fun e w => do
  let (n, bits) ← e.packedType o.ty
  e.noSr o.rm
  e.need [useD o.d 1, .v o.a.toNat n 1 35, o.b.use 1 27]
  .ok (overLanes (e.g o.g) (fun l w =>
    let b := e.fval specF32 o.b l 0
    let q := fun k =>
      let x := specF32.input e.flush (e.w.v (o.a.toNat + k) l).toNat
      if x.isNan then 0 else modW bits (toInt o.rm true bits (mulX x b).1)
    w.setElem o.d 32 l (packCodes bits ((List.range n).map q))) w)

def opDqnt (o : OpF3) : Op := aluOp fun e w => do
  let (n, bits) ← e.packedType o.ty
  e.noSr o.rm
  e.need [.v o.d.toNat n 1 43, o.a.use 1 35, o.b.use 1 27]
  e.deliver w ((lanesOf (e.g o.g)).map (fun l =>
    let b := e.fval specF32 o.b l 0
    let r := (List.range n).map (fun k =>
      floatRes specF32 o.rm e.flush (mulX (.ofInt (signedOf bits (narrow (e.w.src o.a l) bits k))) b))
    (l, r.foldl (fun c x => Conds.or c x.2) {}, packCodes 32 (r.map (·.1)))))
    (fun w l x => (List.range n).foldl (fun w j => w.setV (o.d.toNat + j) l (BitVec.ofNat 32 (x / 2 ^ (32 * j)))) w)

/-! ## The meanings -/

def execFadd (o : OpF3) (s : State) : Out := performOp (opFadd o) s
def execFsub (o : OpF3) (s : State) : Out := performOp (opFsub o) s
def execFmul (o : OpF3) (s : State) : Out := performOp (opFmul o) s
def execFmin (o : OpF3) (s : State) : Out := performOp (opFmin o) s
def execFmax (o : OpF3) (s : State) : Out := performOp (opFmax o) s
def execFaddImm (o : OpFS) (s : State) : Out := performOp (opFaddImm o) s
def execFsubImm (o : OpFS) (s : State) : Out := performOp (opFsubImm o) s
def execFmulImm (o : OpFS) (s : State) : Out := performOp (opFmulImm o) s
def execFminImm (o : OpFS) (s : State) : Out := performOp (opFminImm o) s
def execFmaxImm (o : OpFS) (s : State) : Out := performOp (opFmaxImm o) s
def execFfma (o : OpF4) (s : State) : Out := performOp (opFfma o) s
def execFscale (o : OpF3) (s : State) : Out := performOp (opFscale o) s
def execFcmp (o : OpFCmp) (s : State) : Out := performOp (opFcmp o) s
def execFcmpImm (o : OpFCmpS) (s : State) : Out := performOp (opFcmpImm o) s
def execFclass (o : OpF2) (s : State) : Out := performOp (opFclass o) s
def execFrcp (o : OpF2) (s : State) : Out := performOp (opFrcp o) s
def execFsqrt (o : OpF2) (s : State) : Out := performOp (opFsqrt o) s
def execFrsq (o : OpF2) (s : State) : Out := performOp (opFrsq o) s
def execFexp2 (o : OpF2) (s : State) : Out := performOp (opFexp2 o) s
def execFlog2 (o : OpF2) (s : State) : Out := performOp (opFlog2 o) s
def execFsin (o : OpF2) (s : State) : Out := performOp (opFsin o) s
def execFcos (o : OpF2) (s : State) : Out := performOp (opFcos o) s
def execFcvt (o : OpFCvt) (s : State) : Out := performOp (opFcvt o) s
def execFcvti (o : OpCvt1) (s : State) : Out := performOp (opFcvti o) s
def execIcvtf (o : OpCvt1) (s : State) : Out := performOp (opIcvtf o) s
def execFdot2 (o : OpF4) (s : State) : Out := performOp (opFdot2 o) s
def execCmul (o : OpCMul) (s : State) : Out := performOp (opCmul o) s
def execHad (o : OpHad) (s : State) : Out := performOp (opHad o) s
def execQnt (o : OpQnt) (s : State) : Out := performOp (opQnt o) s
def execDqnt (o : OpF3) (s : State) : Out := performOp (opDqnt o) s

end Sys2Proof.Machine
end

