-- ==== Sys2Proof/Machine/Lane.lean ====
section
/-!
DEFINITION. Machine/Lane.lean: the lane and move class (R159 to R172), but for the special registers.
-/

namespace Sys2Proof.Machine

/-! ## Moves and selection (R160 to R162) -/

def opMov (o : OpRR) : Op := aluOp fun e w => do
  let wd ← e.intType o.ty
  let n := regsOf wd
  e.need [useD o.d n, o.a.use n 35]
  .ok (overLanes (e.g o.g) (fun l w => w.setElem o.d wd l (e.w.elem o.a wd l)) w)

def opMovi (o : OpMovI) : Op := aluOp fun e w => do
  e.need [useD o.d 1]
  .ok (overLanes (e.g o.g) (fun l w => w.setElem o.d 32 l o.imm.toNat) w)

def opSel (o : OpRRP) : Op := aluOp fun e w => do
  let wd ← e.intType o.ty
  let n := regsOf wd
  e.need [useD o.d n, o.a.use n 35, o.b.use n 27]
  .ok (overLanes (e.g o.g) (fun l w =>
    w.setElem o.d wd l (if e.w.p o.c.toNat l then e.w.elem o.a wd l else e.w.elem o.b wd l)) w)

/-- Write a scalar once, if some lane takes part (R148). -/
def onceIf (g : LaneMask) (f : Warp → Warp) (w : Warp) : Warp := if g = 0 then w else f w

/-- A scalar destination of `n` registers. -/
def useS (d : SReg) (n bitNo : Nat) : Use := .s d.toNat n n bitNo

/-- MOVS (R161). -/
def opMovs (o : OpMovS) : Op := aluOp fun e w => do
  let wd ← e.intType o.ty
  let n := regsOf wd
  let g := e.g o.g
  match o.src with
  | .scalar i =>
    e.need [useS o.d n 43, useS i n 35]
    .ok (onceIf g (fun w => w.setDstS o.d wd (e.w.elem (.s i) wd 0)) w)
  | .lane v l =>
    e.refuseIf (32 ≤ l.toNat) 19
    e.need [useS o.d n 43, (Src.v v).use n 35]
    .ok (onceIf g (fun w => w.setDstS o.d wd (e.w.elem (.v v) wd l.toNat)) w)
  | .imm i =>
    e.need [useS o.d n 43]
    .ok (onceIf g (fun w => w.setDstS o.d wd (simm i wd)) w)

/-- The register-index trap of MOVRI and MOVRW (R162): `idx` gives each lane's register. -/
def Env.badIndex (e : Env) (ls : List Nat) (idx : Nat → Nat) : Except Stop Unit :=
  match ls.filter (fun l => e.l.pk.regs ≤ idx l) with
  | [] => .ok ()
  | l :: r => .error (.trap ⟨4, maskOf (l :: r), idx l % 256, []⟩)

def opMovri (o : OpMovR) : Op := aluOp fun e w => do
  e.only [.n32, .i32] o.ty
  e.need [useD o.d 1, o.a.use 1 35]
  let ls := lanesOf (e.g o.g)
  let idx := fun l => o.k.toNat + (e.w.src o.a l).toNat
  e.badIndex ls idx
  .ok (overLanes (e.g o.g) (fun l w => w.setV o.d.toNat l (e.w.v (idx l) l)) w)

def opMovrw (o : OpMovR) : Op := aluOp fun e w => do
  e.only [.n32, .i32] o.ty
  e.need [useD o.d 1, o.a.use 1 35]
  let ls := lanesOf (e.g o.g)
  let idx := fun l => o.k.toNat + (e.w.v o.d.toNat l).toNat
  e.badIndex ls idx
  .ok (overLanes (e.g o.g) (fun l w => w.setV (idx l) l (e.w.src o.a l)) w)

/-! ## Cross-lane instructions (R166 to R169) -/

/-- The source lane of SHFL (R166). -/
def shflLane (mode w lane k : Nat) : Nat :=
  let j := lane % w
  let base := lane - j
  match mode with
  | 0 => base + k % w
  | 1 => base + (j + k) % w
  | 2 => base + (j + w - k % w) % w
  | _ => base + Nat.xor j (k % w)

def opShfl (o : OpShfl) : Op := aluOp fun e w => do
  let wd ← e.intType o.ty
  e.refuseIf (6 ≤ o.segw.toNat) 5
  let n := regsOf wd
  let ub : List Use := match o.b with
    | .reg s => [s.use 1 27]
    | .const _ => []
  e.need ([useD o.d n, o.a.use n 35] ++ ub)
  let k := fun l => match o.b with
    | .reg s => (e.w.src s l).toNat
    | .const c => c.toNat
  .ok (overLanes (e.g o.g) (fun l w =>
    w.setElem o.d wd l (e.w.elem o.a wd (shflLane o.mode.toNat (32 / 2 ^ o.segw.toNat) l (k l)))) w)

/-- Write `x l` to every lane of g, or `x` of lane 0 to the scalar (R148). -/
def putDst (d : Dst) (wd : Nat) (g : LaneMask) (x : Nat → Nat) (w : Warp) : Warp :=
  match d with
  | .v i => overLanes g (fun l w => w.setElem i wd l (x l)) w
  | .s i => onceIf g (fun w => w.setDstS i wd (x 0)) w

/-- VOTE (R167). -/
def opVote (o : OpVote) : Op := aluOp fun e w => do
  e.only [.n32] o.ty
  let g := e.g o.g
  let ls := lanesOf g
  let hit := ls.filter (e.w.p o.a.toNat)
  let scalarNo : Dst → Bool := fun d => match d with
    | .s _ => true
    | .v _ => false
  let use := fun (d : Dst) => d.use 1
  match o.d with
  | .mask d =>
    e.refuseIf (o.qual != 0) 5
    e.need [use d]
    .ok (putDst d 32 g (fun _ => (maskOf hit).toNat) w)
  | .count d =>
    e.refuseIf (o.qual != 0) 5
    e.need [use d]
    .ok (putDst d 32 g (fun _ => hit.length) w)
  | .rank d =>
    e.refuseIf (o.qual != 0) 5
    e.refuseIf (scalarNo d) 7
    e.need [use d]
    .ok (putDst d 32 g (fun l => (hit.filter (· < l)).length) w)
  | .test sd p =>
    e.refuseIf sd 7
    let b := match o.qual.toNat with
      | 0 => !hit.isEmpty
      | 1 => hit.length == ls.length
      | 2 => hit.isEmpty || hit.length == ls.length
      | _ => hit.isEmpty
    .ok (overLanes g (fun l w => w.setP p.toNat l b) w)

/-- MATCH (R167). -/
def opMatchL (o : OpMatch) : Op := aluOp fun e w => do
  let wd ← e.intType o.ty
  e.need [useD o.d 1, o.a.use (regsOf wd) 35]
  let g := e.g o.g
  let cls := fun l => (lanesOf g).filter (fun k => e.w.elem o.a wd k == e.w.elem o.a wd l)
  let out := fun l =>
    let c := cls l
    if o.msk then (maskOf c).toNat
    else c.headD 0 + c.length * 2 ^ 5 + (c.filter (· < l)).length * 2 ^ 11
  .ok (overLanes g (fun l w => w.setElem o.d 32 l (out l)) w)

/-- ELECT (R167). -/
def opElect (o : OpElect) : Op := aluOp fun e w => do
  e.only [.n32] o.ty
  let us : List Use := match o.a with
    | some s => [useS s 1 35]
    | none => []
  e.need us
  let g := e.g o.g
  let pick := if o.hi then highest g else lowest g
  let w := overLanes g (fun l w => w.setP o.d.toNat l (l == pick)) w
  .ok (match o.a with
    | some s => onceIf g (fun w => w.setS s.toNat (BitVec.ofNat 32 pick)) w
    | none => w)

/-- The combining step of REDUX and SCAN on codes, by OP (R168), or none for a reserved or refused code. -/
inductive RedOp
  | int (f : Nat → Nat → Nat) (id : Nat)
  | flt (f : Nat → Nat → Nat) (id : Nat)

/-- One float step, rounded RNE (R119), or FMIN and FMAX.
Log entry 27 (DEDUCED). -/
def floatStep (f : FSpec) (flush : Bool) (op : Nat) (a b : Nat) : Nat :=
  let x := f.input flush a
  let y := f.input flush b
  let r := match op with
    | 0 => (addX .rne x y).1
    | 1 => minMaxX false x y
    | _ => minMaxX true x y
  f.output flush (f.round .rne r).1

/-- OP and TYPE of REDUX and SCAN: the width and the operation.
Log entries 27 (DEDUCED), 88 (DESIGN CHOICE). -/
def Env.redOp (e : Env) (ty : Fmt) (op : Nat) : Except Stop (Nat × RedOp) :=
  if 7 ≤ op then .error (e.ill 3)
  else
    match ty with
    | .f32 | .f64 =>
      let f := if ty == .f64 then specF64 else specF32
      if 3 ≤ op then .error (e.ill 3)
      else .ok (f.width, .flt (floatStep f e.flush op)
        (match op with
          | 0 => 0
          | 1 => f.infCode
          | _ => f.sgn true + f.infCode))
    | _ =>
      match e.intType ty with
      | .error st => .error st
      | .ok wd =>
        let sg := ty.isSigned
        let top := if sg then 2 ^ (wd - 1) - 1 else 2 ^ wd - 1
        let low := if sg then 2 ^ (wd - 1) else 0
        .ok (wd, match op with
          | 0 => .int (fnAddW wd) 0
          | 1 => .int (fun a b => if readInt sg wd a ≤ readInt sg wd b then a else b) top
          | 2 => .int (fun a b => if readInt sg wd a ≤ readInt sg wd b then b else a) low
          | 3 => .int Nat.land (2 ^ wd - 1)
          | 4 => .int Nat.lor 0
          | 5 => .int Nat.xor 0
          | _ => .int (fun a b => modW wd (satInt sg wd (readInt sg wd a + readInt sg wd b))) 0)
where
  fnAddW (wd a b : Nat) : Nat := (a + b) % 2 ^ wd

/-- The lane tree of R119, one level. -/
def treeLevel (f : Nat → Nat → Nat) : List (Option Nat) → List (Option Nat)
  | x :: y :: t =>
    (match x, y with
      | some a, some b => some (f a b)
      | some a, none => some a
      | none, z => z) :: treeLevel f t
  | l => l

/-- The value of a lane tree over the lanes of `g`.
Log entry 27 (DEDUCED). -/
def laneTree (f : Nat → Nat → Nat) (g : LaneMask) (x : Nat → Nat) : Nat :=
  let leaves := (List.range 32).map (fun l => if g.getLsbD l then some (x l) else none)
  ((List.range 5).foldl (fun t _ => treeLevel f t) leaves).headD none |>.getD 0

/-- A value as a result of its format: a NaN is canonical and a subnormal is flushed in flush mode (R111, R112).
Log entry 27 (DEDUCED). -/
def Env.asResult (e : Env) (ty : Fmt) (c : Nat) : Nat :=
  match ty.fspec with
  | some f => f.output e.flush (f.round .rne (f.input e.flush c)).1
  | none => c

/-- REDUX (R168). -/
def opRedux (o : OpRedux) : Op := aluOp fun e w => do
  let (wd, op) ← e.redOp o.ty o.op.toNat
  let n := regsOf wd
  e.need [o.d.use n, o.a.use n 35]
  let g := e.g o.g
  let x := fun l => e.asResult o.ty (e.w.elem o.a wd l)
  let r := match op with
    | .flt f _ => laneTree f g x
    | .int f _ =>
      match (lanesOf g).map x with
      | [] => 0
      | a :: t => t.foldl f a
  .ok (putDst o.d wd g (fun _ => r) w)

/-- The results of a left fold: for each value the fold below it, or through it.
Log entry 27 (DEDUCED). -/
def scanFold (f : Nat → Nat → Nat) (exc : Bool) (id : Nat) (xs : List (Nat × Nat)) : List (Nat × Nat) :=
  (xs.foldl (fun (acc : Option Nat × List (Nat × Nat)) p =>
    let nxt := match acc.1 with
      | none => p.2
      | some a => f a p.2
    (some nxt, acc.2 ++ [(p.1, if exc then acc.1.getD id else nxt)])) (none, [])).2

/-- SCAN (R169). -/
def opScan (o : OpScan) : Op := aluOp fun e w => do
  let (wd, op) ← e.redOp o.ty o.op.toNat
  let n := regsOf wd
  e.need [useD o.d n, o.a.use n 35]
  let xs := (lanesOf (e.g o.g)).map (fun l => (l, e.asResult o.ty (e.w.elem o.a wd l)))
  let rs := match op with
    | .flt f id | .int f id => scanFold f o.exc id xs
  .ok (rs.foldl (fun w p => w.setElem o.d wd p.1 p.2) w)

/-! ## Predicates, bytes and packing (R170 to R172) -/

def opPlop (o : OpPlop) : Op := aluOp fun e w => do
  e.only [.n32] o.ty
  .ok (overLanes (e.g o.g) (fun l w =>
    w.setP o.d.toNat l (o.lut.getLsbD (2 * (e.w.p o.a.toNat l).toNat + (e.w.p o.b.toNat l).toNat))) w)

/-- A byte with its bit order reversed. -/
def revByte (b : Nat) : Nat := ((List.range 8).filter (bit b)).foldl (fun a i => a + 2 ^ (7 - i)) 0

/-- One byte of PRMT (R171). -/
def prmtByte (a b ctl : Nat) : Nat :=
  let c := fld ctl 0 3
  let x := fld (a + b * 2 ^ 32) (8 * c) 8
  match fld ctl 3 2 with
  | 0 => x
  | 1 => 0
  | 2 => if bit x 7 then 255 else 0
  | _ => revByte x

def opPrmt (o : OpRRRR) : Op := aluOp fun e w => do
  e.only [.n32] o.ty
  e.need [useD o.d 1, o.a.use 1 35, o.b.use 1 27, o.c.use 1 19]
  .ok (overLanes (e.g o.g) (fun l w =>
    let a := (e.w.src o.a l).toNat
    let b := (e.w.src o.b l).toNat
    let c := (e.w.src o.c l).toNat
    w.setElem o.d 32 l (packCodes 8 ((List.range 4).map (fun j => prmtByte a b (fld c (8 * j) 8))))) w)

/-- The types of PACK and UNPK. -/
def typesPack : List Fmt := [.i4, .i8, .n8, .i16, .n16]

def opPack (o : OpPack) : Op := aluOp fun e w => do
  e.only typesPack o.ty
  let bits := o.ty.bits
  e.refuseIf (32 / bits ≤ o.j.toNat) 19
  e.need [useD o.d 1, o.a.use 1 35, o.b.use 1 27]
  .ok (overLanes (e.g o.g) (fun l w =>
    let x := signedOf 32 (e.w.src o.a l).toNat
    let y := modW bits (if o.sat then satInt o.ty.isSigned bits x else x)
    w.setV o.d.toNat l (setNarrow (e.w.src o.b l) bits o.j.toNat y)) w)

def opUnpk (o : OpUnpk) : Op := aluOp fun e w => do
  e.only typesPack o.ty
  let bits := o.ty.bits
  e.refuseIf (32 / bits ≤ o.j.toNat) 19
  e.need [useD o.d 1, o.a.use 1 35]
  .ok (overLanes (e.g o.g) (fun l w =>
    w.setElem o.d 32 l (modW 32 (readInt o.ty.isSigned bits (narrow (e.w.src o.a l) bits o.j.toNat)))) w)

/-! ## The meanings -/

def execMov (o : OpRR) (s : State) : Out := performOp (opMov o) s
def execMovi (o : OpMovI) (s : State) : Out := performOp (opMovi o) s
def execSel (o : OpRRP) (s : State) : Out := performOp (opSel o) s
def execMovs (o : OpMovS) (s : State) : Out := performOp (opMovs o) s
def execMovri (o : OpMovR) (s : State) : Out := performOp (opMovri o) s
def execMovrw (o : OpMovR) (s : State) : Out := performOp (opMovrw o) s
def execShfl (o : OpShfl) (s : State) : Out := performOp (opShfl o) s
def execVote (o : OpVote) (s : State) : Out := performOp (opVote o) s
def execMatchL (o : OpMatch) (s : State) : Out := performOp (opMatchL o) s
def execElect (o : OpElect) (s : State) : Out := performOp (opElect o) s
def execRedux (o : OpRedux) (s : State) : Out := performOp (opRedux o) s
def execScan (o : OpScan) (s : State) : Out := performOp (opScan o) s
def execPlop (o : OpPlop) (s : State) : Out := performOp (opPlop o) s
def execPrmt (o : OpRRRR) (s : State) : Out := performOp (opPrmt o) s
def execPack (o : OpPack) (s : State) : Out := performOp (opPack o) s
def execUnpk (o : OpUnpk) (s : State) : Out := performOp (opUnpk o) s

end Sys2Proof.Machine
end

