-- ==== Sys2Proof/Machine/Mem.lean ====
section
/-!
DEFINITION. Machine/Mem.lean: bytes of memory and scratchpad; the view a die has of package memory while its writes are on
their way to their home slices (R96); the L1 read cache (R101).
-/

namespace Sys2Proof.Machine

/-! ## Bytes -/

/-- A memory: bytes by address in canonical form; an unlisted byte reads zero. -/
abbrev Memory := List Host.Cell

/-- The canonical form of a memory. -/
def Memory.wf (m : Memory) : Bool := Tbl.wf (0 : Byte) m

/-- The bytes at `a` to `a + n − 1`.
Log entry 1 (DESIGN CHOICE). -/
def readBytes (m : Memory) (a n : Nat) : List Byte := (List.range n).map (fun i => Tbl.get 0 m (a + i))

/-- Write bytes from `a` on.
Log entry 1 (DESIGN CHOICE). -/
def writeBytes : Memory → Nat → List Byte → Memory
  | m, _, [] => m
  | m, a, b :: bs => writeBytes (Tbl.set 0 m a b) (a + 1) bs

/-- The number in the `n` bytes at `a`, little-endian. -/
def readLe (m : Memory) (a n : Nat) : Nat := leNat (readBytes m a n)

/-- The number in `n` bytes at `off` of a record. -/
def recAt (bs : List Byte) (off n : Nat) : Nat := leNat ((bs.drop off).take n)

/-- Two byte ranges share a byte. -/
def rangesMeet (a n b m : Nat) : Bool := a < b + m && b < a + n

/-- The line of a physical address. -/
def lineOf (pa : Nat) : Nat := pa / 128

/-- Bytes of `new` at `b` laid over bytes `old` at `a`.
Log entry 16 (DEDUCED). -/
def overlay (old : List Byte) (a : Nat) (new : List Byte) (b : Nat) : List Byte :=
  (List.range old.length).map (fun i =>
    if b ≤ a + i && a + i < b + new.length then new.getD (a + i - b) 0 else old.getD i 0)

/-! ## Writes on their way (R93, R96) -/

def InFlight.meets (w : InFlight) (pa n : Nat) : Bool :=
  rangesMeet w.pa w.bytes.length pa n ||
    (match w.mir with
      | some m => rangesMeet m w.bytes.length pa n
      | none => false)

/-- A write reaches its home: both copies of a mirrored line are written, and pending reads of its lines take no more
requests (R76, R325).
Log entry 16 (DEDUCED). -/
def State.commit (s : State) (w : InFlight) : State :=
  let n := w.bytes.length
  let m := writeBytes s.mem w.pa w.bytes
  let m := match w.mir with
    | some a => writeBytes m a w.bytes
    | none => m
  { s with
    mem := m
    pending := s.pending.map (fun p => if rangesMeet (128 * p.line) 128 w.pa n then { p with dirty := true } else p) }

/-- Two writes share a byte, counting the mirrors of both.
Log entry 16 (DEDUCED). -/
def InFlight.clashes (v w : InFlight) : Bool :=
  v.meets w.pa w.bytes.length ||
    (match w.mir with
      | some m => v.meets m w.bytes.length
      | none => false)

/-- The writes that go when those that `p` selects must, and the writes that stay: with a write go the earlier writes of
its die, so that a die's writes reach a place in the order in which they were made.
Log entry 16 (DEDUCED). -/
def splitDue (p : InFlight → Bool) : List InFlight → List InFlight × List InFlight
  | [] => ([], [])
  | w :: ws =>
    let r := splitDue p ws
    if p w || r.1.any (fun v => v.die == w.die) then (w :: r.1, r.2) else (r.1, w :: r.2)

/-- A write goes when `p` selects it or another of the unit that it belongs to (R94). -/
def State.unitDue (s : State) (p : InFlight → Bool) (w : InFlight) : Bool :=
  p w || (w.unit && s.writes.any (fun v => v.unit && v.id == w.id && p v))

/-- The writes that `p` selects reach their homes, in the order in which they were made, and with one the rest of its unit.
Log entry 17 (DEDUCED). -/
def State.drain (s : State) (p : InFlight → Bool) : State :=
  let r := splitDue (s.unitDue p) s.writes
  { r.1.foldl State.commit s with writes := r.2 }

/-- Every write of a die reaches its home: what a release at .dev or .sys covers (R98).
Log entry 17 (DEDUCED). -/
def State.drainDie (s : State) (die : Nat) : State := s.drain (fun w => w.die == die)

/-- What a die's agents read at a physical address: the die's writes on their way lie over the home copy (R96).
Log entries 1 (DESIGN CHOICE), 16 (DEDUCED). -/
def State.dieBytes (s : State) (die pa n : Nat) : List Byte :=
  (s.writes.filter (fun w => w.die == die && w.meets pa n)).foldl (fun bs w =>
    overlay (match w.mir with
      | some m => overlay bs pa w.bytes m
      | none => bs) pa w.bytes w.pa) (readBytes s.mem pa n)

/-- A write that is performed at its home at once, after the die's earlier writes to it (SO pages, atomics). -/
def State.writeHome (s : State) (die pa : Nat) (mir : Option Nat) (bs : List Byte) : State :=
  let s := s.drain (fun w => w.die == die && w.meets pa bs.length)
  s.commit ⟨0, die, 0, 0, pa, bs, mir, false⟩

/-! ## The L1 read cache (R95, R101) -/

def l1Key (core line : Nat) : Nat := core * 2 ^ 45 + line

/-- Invalidate every line of a core's L1: an acquire at .cl or wider.
Log entry 15 (DEDUCED). -/
def State.l1Flush (s : State) (core : Nat) : State := { s with l1 := Tbl.clear s.l1 (core * 2 ^ 45) (2 ^ 45) }

/-- Drop one line of a core's L1.
Log entry 15 (DEDUCED). -/
def State.l1Drop (s : State) (core line : Nat) : State := { s with l1 := Tbl.del s.l1 (l1Key core line) }

/-- A store updates any copy of its line in its own core's L1.
Log entry 15 (DEDUCED). -/
def State.l1Update (s : State) (core pa : Nat) (bs : List Byte) : State :=
  let lines := (List.range (bs.length / 128 + 2)).map (· + lineOf pa)
  { s with l1 := lines.foldl (fun t ln =>
      match Tbl.find? t (l1Key core ln) with
      | some old => Tbl.put t (l1Key core ln) (overlay old (128 * ln) bs pa)
      | none => t) s.l1 }

/-- Read bytes of one line through the L1, filling it when `alloc` says so; the flag says whether it missed. How long a line
stays in the L1 is not given: whether one filled before is still there is a free value.
Log entry 15 (DEDUCED). -/
def State.l1Read (s : State) (core die pa n : Nat) (alloc : Bool) : State × List Byte × Bool :=
  let k := l1Key core (lineOf pa)
  let miss := fun (s : State) =>
    if alloc then
      let line := s.dieBytes die (pa - pa % 128) 128
      ({ s with l1 := Tbl.put s.l1 k line }, (line.drop (pa % 128)).take n, true)
    else (s, s.dieBytes die pa n, true)
  match Tbl.find? s.l1 k with
  | none => miss s
  | some line =>
    let t := { s with free := s.free + 1 }
    if Config.freeBit (2 * s.free) then (t, (line.drop (pa % 128)).take n, false) else miss (t.l1Drop core (lineOf pa))

/-! ## Scratchpad (R47 to R51) -/

def State.scrBytes (s : State) (core a n : Nat) : List Byte :=
  (List.range n).map (fun i => Tbl.get 0 s.scr (core * 2 ^ 20 + a + i))

/-- Note the access of segment `seg` of a core; a segment in retention leaves it, one that enters it when it has entered (R74).
Log entry 61 (DEDUCED). -/
def State.touchSeg (s : State) (core seg : Nat) : State :=
  let k := 2048 * core + seg
  { s with
    segAccess := Tbl.put s.segAccess k s.clk
    ret := match Tbl.find? s.ret k with
      | none | some (.leaving _) => s.ret
      | some (.entering t) => Tbl.put s.ret k (.leaving (max s.clk (t + 48)))
      | some .held => Tbl.put s.ret k (.leaving s.clk) }

/-- Note the access of the segments of a scratchpad range.
Log entry 61 (DEDUCED). -/
def State.touch (s : State) (core a n : Nat) : State :=
  (List.range ((a % 2048 + n + 2047) / 2048)).foldl (fun s i => s.touchSeg core (a / 2048 + i)) s

/-- Note the access of a tile of a core, whose six segments follow the scratchpad's.
Log entry 61 (DEDUCED). -/
def State.touchTile (s : State) (core tile : Nat) : State :=
  (List.range 6).foldl (fun s i => s.touchSeg core (512 + 6 * tile + i)) s

/-- Note the access of accumulator banks of a core, each one segment.
Log entry 61 (DEDUCED). -/
def State.touchBanks (s : State) (core : Nat) (banks : List Nat) : State :=
  banks.foldl (fun s b => s.touchSeg core (896 + b)) s

def State.scrWrite (s : State) (core a : Nat) (bs : List Byte) : State :=
  { s.touch core a bs.length with scr := writeBytes s.scr (core * 2 ^ 20 + a) bs }

/-- The granules that a range of core addresses touches. -/
def granules (a n : Nat) : List Nat := if n = 0 then [] else (List.range ((a + n - 1) / 16 - a / 16 + 1)).map (· + a / 16)

def State.feGet (s : State) (core g : Nat) : Bool := Tbl.get false s.fe (core * 2 ^ 16 + g)

/-- Set or clear the bits of granules. -/
def State.feSet (s : State) (core : Nat) (gs : List Nat) (b : Bool) : State :=
  { s with fe := gs.foldl (fun t g => Tbl.set false t (core * 2 ^ 16 + g) b) s.fe }

/-! ## Host memory and peer packages (R57) -/

def State.hostBytes (s : State) (port a n : Nat) : List Byte := readBytes s.hostMem (port * 2 ^ 64 + a) n
def State.hostWrite (s : State) (port a : Nat) (bs : List Byte) : State :=
  { s with hostMem := writeBytes s.hostMem (port * 2 ^ 64 + a) bs }
/-- Memory of a context on a peer package; `key` joins the rank and the context.
Log entries 1 (DESIGN CHOICE), 68 (DESIGN CHOICE). -/
def State.peerBytes (s : State) (key va n : Nat) : List Byte := readBytes s.peerMem (key * 2 ^ 64 + va) n
def State.peerWrite (s : State) (key va : Nat) (bs : List Byte) : State :=
  { s with peerMem := writeBytes s.peerMem (key * 2 ^ 64 + va) bs }

end Sys2Proof.Machine
end

