-- ==== Sys2Proof/Machine/Mail.lean ====
section
/-!
DEFINITION. Machine/Mail.lean: the event queues of the host ports (R385) and the counters of a die (R399, R400).
-/

namespace Sys2Proof.Machine

/-- The 64 bytes of an event: kind, context, die, the cause, rank or step at byte 8, and the value at byte 16.
Log entry 63 (DEDUCED). -/
def mailEntry (kind ctx die code v : Nat) : List Byte :=
  leBytes 1 kind ++ leBytes 1 ctx ++ leBytes 1 die ++ leBytes 5 0 ++ leBytes 8 code ++ leBytes 8 v ++ leBytes 40 0

/-- Write an event to one port's queue: dropped and counted when the queue is full, else entered and signalled.
Log entry 69 (DEDUCED). -/
def Port.post (p : Port) (e : List Byte) : Port :=
  if 128 ≤ p.wptr - p.rptr then { p with lost := p.lost + 1 }
  else { p with events := Tbl.put p.events (p.wptr % 128) e, wptr := p.wptr + 1, msix := p.msix + 1 }

/-- Post an event to both queues.
Log entries 54 (DEDUCED), 63 (DEDUCED). -/
def State.postEvent (s : State) (kind ctx die code v : Nat) : State :=
  { s with ports := s.ports.map (fun p => p.post (mailEntry kind ctx die code v)) }

/-- The counter `k` of a die. -/
def State.counter (s : State) (die k : Nat) : Nat := Tbl.get 0 s.cnt (8 * die + k)

/-- Increment a counter: it saturates, and each nonzero multiple of its limit posts an event and, for core arrays, marks the core
for substitution at the next start (R400, Table 3).
Log entry 63 (DEDUCED). -/
def State.bump (s : State) (die k v : Nat) (core : Option Nat := none) : State :=
  let c := s.counter die k
  if 2 ^ 32 - 1 ≤ c then s
  else
    let lim := s.thr.getD k 0
    let s := { s with cnt := Tbl.set 0 s.cnt (8 * die + k) (c + 1) }
    if lim != 0 && (c + 1) % lim == 0 then
      let s := s.postEvent 4 0 die k v
      match core with
      | some x => if k = 2 then { s with marked := (s.marked.filter (· != x)) ++ [x] } else s
      | none => s
    else s

/-- LANESP counts a lane of a Tilic port; where that reaches a multiple of its limit and the port has its spare lane left, the lane is
spared, which counts again (R397, R400).
Log entry 63 (DEDUCED). -/
def State.bumpLane (s : State) (die port : Nat) : State :=
  let t := s.bump die 4 port
  let lim := s.thr.getD 4 0
  match t.tports[port]? with
  | some q =>
    if lim != 0 && t.counter die 4 % lim == 0 && t.counter die 4 != s.counter die 4 && q.up && !q.spareLaneUsed then
      ({ t with tports := t.tports.set port { q with spareLaneUsed := true } }).bump die 4 port
    else t
  | none => t

end Sys2Proof.Machine
end

