-- ==== Sys2Proof/Machine/Translate.lean ====
section
/-!
DEFINITION. Machine/Translate.lean: page-table walks, leases and rights, page states and the cached translations
(R321 to R329).
-/

namespace Sys2Proof.Machine

/-! ## The walk (R322 to R324) -/

/-- A leaf found by a walk: the entry, its page's size, and where the entry lies. -/
structure Leaf where
  e : Nat
  size : Nat
  at' : Nat
  deriving DecidableEq, Repr

/-- The walk's levels (Table 1): lowest index bit, index bits, page size of a leaf (0: none), size of the next table (0: none). -/
def walkLevels : List (Nat × Nat × Nat × Nat) :=
  [(42, 15, 0, 2 ^ 18), (27, 15, 2 ^ 27, 256), (22, 5, 2 ^ 22, 256), (17, 5, 2 ^ 17, 0)]

def leafPfn (e : Nat) : Nat := fld e 17 35 * 2 ^ 17
def leafP (e : Nat) : Bool := bit e 2
def leafW (e : Nat) : Bool := bit e 3
def leafX (e : Nat) : Bool := bit e 4
def leafKind (e : Nat) : Nat := fld e 5 2
def leafMir (e : Nat) : Bool := bit e 7
def leafF (e : Nat) : Bool := bit e 8
def leafHost (e : Nat) : Bool := bit e 9
def leafHport (e : Nat) : Nat := fld e 10 1
def leafSpr (e : Nat) : Bool := bit e 11
def leafHdie (e : Nat) : Nat := fld e 12 2

/-- The populated bytes of a die's window (R321). -/
def dramBytes : Nat := 96 * 2 ^ 30

/-- The reserved encodings of a leaf in a partition of `nd` dies (R324). -/
def leafReserved (e size nd : Nat) : Bool :=
  fld e 14 3 != 0 || fld e 52 12 != 0 || leafKind e == 3 || leafPfn e % size != 0 || nd ≤ leafHdie e
    || (leafP e && (leafHost e || dramBytes < leafPfn e % 2 ^ 37 + size || 2 ^ 39 ≤ leafPfn e))
    || (!leafP e && !leafHost e)
    || (leafMir e && (leafSpr e || leafHost e || nd == 1))

/-- Walk from the table at `t`; none for V = 0 and every reserved encoding. -/
def walkFrom (m : Memory) (nd va : Nat) : List (Nat × Nat × Nat × Nat) → Nat → Option Leaf
  | [], _ => none
  | (lo, nb, size, next) :: rest, t =>
    let a := t + 8 * fld va lo nb
    let e := readLe m a 8
    if !bit e 0 then none
    else if bit e 1 then
      if size = 0 || leafReserved e size nd then none else some ⟨e, size, a⟩
    else if next = 0 || fld e 2 6 != 0 || fld e 52 12 != 0 || fld e 8 44 * 256 % next != 0 then none
    else walkFrom m nd va rest (fld e 8 44 * 256)

/-- The walk of an address through a context's tables. -/
def State.walk (s : State) (x : Ctx) (p : Part) (va : Nat) : Option Leaf :=
  walkFrom s.mem p.dies.length va walkLevels x.root

/-! ## Homes (R325) -/

/-- Where a resident byte lies: its physical address and that of its mirror copy. -/
def homeOf (p : Part) (e size va : Nat) : Nat × Option Nat :=
  let off := va % size
  let win := leafPfn e % 2 ^ 37 + off
  let idx := if leafSpr e then off / 2 ^ 14 % p.dies.length else leafHdie e
  let at' := fun i => p.dies.getD i 0 * 2 ^ 37 + win
  (at' idx, if leafMir e then some (at' (Nat.xor idx 1)) else none)

/-! ## Leases (R326, R327) -/

/-- What an access needs (Table 3). -/
inductive Need
  | read
  | write
  | fetch
  deriving DecidableEq, Repr

/-- Why an access is refused: outside every lease; absent on a hard range; absent on soft ranges only; failed. -/
inductive Deny
  | outside
  | pinned
  | absent
  | failed
  deriving DecidableEq, Repr

/-- An accessing agent: its context and partition, the launch's ranges, its die, its core, its thread. -/
structure Who where
  x : Ctx
  part : Part
  leases : List Lease
  die : Nat
  core : Option Nat
  thread : Option Nat
  deriving Repr

/-- Bits [63:56] of an address agree (R321). -/
def canonicalVa (va : Nat) : Bool := fld va 56 8 == 0 || fld va 56 8 == 255

def Lease.covers (l : Lease) (vpn : Nat) : Bool := l.base ≤ vpn && vpn < l.base + l.size

/-- The ranges that cover an address: the launch's, and the context's standing ranges, which are hard. -/
def Who.ranges (w : Who) (va : Nat) : List Lease :=
  let vpn := fld va 17 40
  (w.leases ++ w.x.standing.map (fun (e : Nat × Lease) => { e.2 with soft := false })).filter (fun l => l.covers vpn)

/-- Where a byte lies. -/
inductive Place
  | dram (pa : Nat) (mir : Option Nat) (kind : Nat)
  | host (port a kind : Nat)
  | peer (rank ctx va kind : Nat)
  deriving DecidableEq, Repr

/-- The ordering kind of a place's page (R95). -/
def Place.kind : Place → Nat
  | .dram _ _ k | .host _ _ k | .peer _ _ _ k => k

/-- A translated range: where it starts, its address and length, and the leaf it came through. -/
structure Chunk where
  pl : Place
  va : Nat
  n : Nat
  leaf : Option (Nat × Nat)        -- entry and page size
  deriving DecidableEq, Repr

/-- The rights that the ranges of an address give now. -/
def Who.rights (w : Who) (va : Nat) : Option Rights :=
  let rs := w.ranges va
  if rs.isEmpty then none else some ⟨rs.any (·.rw), rs.any (fun l => !l.soft)⟩

/-- The entry of a cache for an address. -/
def State.hit (s : State) (w : Who) (va level owner : Nat) : Option TEntry :=
  s.tcache.find? (fun t => t.level == level && t.owner == owner && t.ctx == w.x.key && t.vpn == fld va 17 40)

/-- The thread's last-page register holds the address (R328). -/
def State.lastPage (s : State) (w : Who) (va : Nat) : Option TEntry := w.thread.bind (s.hit w va 0)

/-- The cached translation of an address: the thread's register, the core's TLB, the die's walker (R328). -/
def State.cached (s : State) (w : Who) (va : Nat) : Option TEntry :=
  ((s.lastPage w va).or (w.core.bind (s.hit w va 1))).or (s.hit w va 2 w.die)

/-- The rights of an access: those of the thread's register where it hits, else what the ranges give now (R328). -/
def State.rightsOf (s : State) (w : Who) (va : Nat) : Option Rights := ((s.lastPage w va).bind (·.rights)).or (w.rights va)

/-- The leaf entry of an address and its page's size: a cached one, else what the walk finds. -/
def State.pageOf (s : State) (w : Who) (va : Nat) : Option (Nat × Nat) :=
  match s.cached w va with
  | some t => some (t.leaf, t.size)
  | none => (s.walk w.x w.part va).map (fun (l : Leaf) => (l.e, l.size))

/-- Translate one address (R326, R327). `host` is SPACE = 2: host memory through the port that the page names, or H0 (R377).
Log entry 83 (DESIGN CHOICE). -/
def State.translate (s : State) (w : Who) (need : Need) (host : Bool) (va : Nat) :
    Except Deny (Place × Nat × Nat) :=
  match s.rightsOf w va with
  | none => .error .outside
  | some r =>
    if !canonicalVa va || (need == .write && !r.rw) then .error .outside
    else
      match s.pageOf w va with
      | none => .error .outside
      | some (e, size) =>
        if (need == .write && !leafW e) || (need == .fetch && !leafX e) then .error .outside
        else if leafF e then .error .failed
        else if host then
          .ok (.host (if leafHost e then leafHport e else 0) (leafPfn e + va % size) (leafKind e), e, size)
        else if leafP e then
          let (pa, mir) := homeOf w.part e size va
          .ok (.dram pa mir (leafKind e), e, size)
        else if r.hard then .error .pinned
        else .error .absent

/-- Keep a translation in the caches (R328, R329); only a resident page is kept. The thread's register is loaded on a miss. -/
def State.keep (s : State) (w : Who) (c : Chunk) : State :=
  match c.leaf with
  | none => s
  | some (e, size) =>
    if !leafP e then s
    else
      let one : Nat → Nat → Option Rights → TEntry := fun lv own r => ⟨lv, own, w.x.key, fld c.va 17 40, e, size, r⟩
      let add := fun (l : List TEntry) (t : TEntry) => if l.contains t then l else l ++ [t]
      let l := add s.tcache (one 2 w.die none)
      let l := match w.core with
        | some c => add l (one 1 c none)
        | none => l
      let l := match w.thread with
        | some t =>
          if (s.lastPage w c.va).isSome then l
          else (l.filter (fun x => !(x.level == 0 && x.owner == t))) ++ [one 0 t (w.rights c.va)]
        | none => l
      { s with tcache := l }

/-! ## Peer packages (R57, R327, R342, R384) -/

/-- A route from a die to a rank stands (R384).
Log entry 62 (DEDUCED). -/
def State.hasRoute (s : State) (die rank : Nat) : Bool := Tbl.get 0 s.routes (8192 * die + rank) != 0

/-- The traffic of a die to a rank is dropped on the way: the rank is fenced, or the port that the route names is quarantined
(R334). -/
def State.drops (s : State) (die rank : Nat) : Bool :=
  s.fencedRanks.contains rank
    || ((s.tports[Tbl.get 0 s.routes (8192 * die + rank) - 1]?).map (·.quarantined)).getD false

/-- The Tilic port that a die's routing table names for a rank (R342). -/
def State.portFor (s : State) (die rank : Nat) : Nat := Tbl.get 0 s.routes (8192 * die + rank) - 1

/-- The bytes that a packet carries. -/
def TilicPkt.payload : TilicPkt → Nat
  | .write _ _ _ d | .reply _ _ d | .piece _ _ { data := d, .. } | .atomic _ _ _ _ _ d | .amp _ _ _ _ _ _ _ d => d.length
  | _ => 0

/-- The flits of a packet (R336). -/
def TilicPkt.flits (p : TilicPkt) : Nat := max 1 (ceilDiv p.payload 128)

/-- A packet leaves through a port, whose flits then await their acknowledgement (R373); a quarantined port drops it (R334). -/
def State.tilicAt (s : State) (port : Nat) (pkt : TilicPkt) : State :=
  match s.tports[port]? with
  | some t =>
    if t.quarantined then s
    else { s with
      tilicOut := s.tilicOut ++ [(port, pkt)]
      tports := s.tports.set port { t with unacked := t.unacked + pkt.flits } }
  | none => s

/-- A Tilic port carries other traffic than management: it is up, RANK has been performed, and it is not quarantined (R334, R384).
Log entry 62 (DEDUCED). -/
def State.carries (s : State) (port : Nat) : Bool := s.ranked && (s.tports[port]?).any (fun t => t.up && !t.quarantined)

/-- What a packet of a peer that stands at a port does there: a quarantined port drops it (R334), and one that carries no such
traffic delivers none (R384).
Log entry 62 (DEDUCED). -/
def State.inlet (s : State) (port : Nat) (taken : State) : Option State :=
  if s.carries port then some taken
  else if s.ranked && (s.tports[port]?).any (·.quarantined) then some s
  else none

/-- A packet leaves a die for a rank, through the port that its routing table names; without a route, and towards a fenced package,
it is dropped (R334, R342, R384).
Log entry 62 (DEDUCED). -/
def State.tilic (s : State) (die rank : Nat) (pkt : TilicPkt) : State :=
  if s.hasRoute die rank && !s.fencedRanks.contains rank then s.tilicAt (s.portFor die rank) pkt else s

/-- The port for piece `i` of a transfer to a rank: that of the die of index i mod D; where its table names none, of the next die whose
table does (R366).
Log entry 62 (DEDUCED). -/
def State.stripe (s : State) (p : Part) (rank i : Nat) : Option Nat :=
  let k := i % p.dies.length
  ((p.dies.drop k ++ p.dies.take k).find? (fun d => s.hasRoute d rank)).map (fun d => s.portFor d rank)

/-- The key of a context's memory on a peer package: the same context there (R57). -/
def peerKey (rank ctx : Nat) : Nat := 32 * rank + ctx

/-- Translate one address of a peer package: leases here, the page by the peer's walker (R327).
Log entry 68 (DESIGN CHOICE). -/
def State.translatePeer (s : State) (w : Who) (need : Need) (rank va : Nat) : Except Deny Place :=
  match w.rights va with
  | none => .error .outside
  | some r =>
    let pg := Tbl.get 0 s.peerPages (peerKey rank w.x.key * 2 ^ 40 + fld va 17 40)
    if !canonicalVa va || (need == .write && (!r.rw || bit pg 2)) || need == .fetch then .error .outside
    else match fld pg 0 2 with
      | 0 => .ok (.peer rank w.x.key va (fld pg 3 2))
      | 1 => .error .outside
      | 2 => .error (if r.hard then .pinned else .absent)
      | _ => .error .failed

/-- Translate a range in parts that begin at multiples of `unit`; the address of the first refused part is given. -/
def translateParts (unit va n : Nat) (one : Nat → Except Deny (Place × Option (Nat × Nat))) :
    Except (Deny × Nat) (List Chunk) :=
  (List.range ((va % unit + n + unit - 1) / unit)).foldl (fun acc i =>
    match acc with
    | .error d => .error d
    | .ok cs =>
      let a := if i = 0 then va else va - va % unit + unit * i
      let m := min (unit - a % unit) (va + n - a)
      match one (a % 2 ^ 64) with
      | .error d => .error (d, a % 2 ^ 64)
      | .ok (pl, leaf) => .ok (cs ++ [⟨pl, a % 2 ^ 64, m, leaf⟩])) (.ok [])

/-- Translate a range, line by line (R76, R97). `peer` is the rank of a record with SPACE = 1: a rank outside the domain, the
package's own, or one with no route is outside every lease (R57, R384). -/
def State.chunks (s : State) (w : Who) (need : Need) (host : Bool) (peer : Option Nat) (va n : Nat) :
    Except (Deny × Nat) (List Chunk) :=
  match peer with
  | some r =>
    if s.domain ≤ r || r == s.rank || !s.hasRoute w.die r then .error (.outside, va)
    else translateParts (2 ^ 17) va n (fun a => (s.translatePeer w need r a).map (fun pl => (pl, none)))
  | none => translateParts 128 va n (fun a => (s.translate w need host a).map (fun p => (p.1, some p.2)))

/-! ## Who accesses -/

/-- A lane of the executing warp. -/
def Env.who (e : Env) (s : State) (lane : Nat) : Who :=
  ⟨e.x, (s.part? (e.x.key / 8)).getD ⟨0, [0], 50, 0⟩, e.l.leases, s.dieOf e.c.core, some e.c.core,
    some (1024 * e.c.core + 32 * e.c.slot + lane)⟩

/-- An engine of a core or a die working for a launch. -/
def State.engineWho (s : State) (x : Ctx) (leases : List Lease) (die : Nat) (core : Option Nat) : Who :=
  ⟨x, (s.part? (x.key / 8)).getD ⟨0, [0], 50, 0⟩, leases, die, core, none⟩

end Sys2Proof.Machine
end

