-- ==== Sys2Proof/Machine/Permit.lean ====
section
/-!
DEFINITION. Machine/Permit.lean: the slices of memory and the request permits of the agents (R343 to R345).
-/

namespace Sys2Proof.Machine

/-! ## Slices -/

/-- The home die of a physical line. -/
def homeDie (line : Nat) : Nat := line / 2 ^ 30 % 4

/-- The slice of a physical line.
Log entry 14 (DESIGN CHOICE). -/
def sliceOf (line : Nat) : Nat := 32 * homeDie line + Config.slice line % 32

/-! ## Permits (R343, R344) -/

/-- The permits of an agent towards a slice of its own die (`own`) or the pool of another place (Table 2); its key is a core, 1000 +
die of an amplitude engine, 2000 + port of a winch, 3000 + port of a host-port agent, 4000 + port of a Tilic ingress agent.
Log entry 70 (DEDUCED). -/
def permitsOf (agent : Nat) (own write : Bool) : Nat :=
  if 4000 ≤ agent then (if write then 16 else 64)
  else if 3000 ≤ agent then (if write then 64 else 128)
  else if 2000 ≤ agent then (if write then 32 else 64)
  else if 1000 ≤ agent then (if own then 16 else 64)
  else if own then (if write then 8 else 24)
  else if write then 16 else 64

/-- The permits of a core towards all peer packages. -/
def peerPermits (write : Bool) : Nat := if write then 8 else 32

/-- Two lines that an agent of a die asks for take permits of one pool: one slice of its own die, or one die.
Log entry 70 (DEDUCED). -/
def samePool (agent die a b : Nat) : Bool :=
  homeDie a == homeDie b && (homeDie a != die || 2000 ≤ agent || sliceOf a == sliceOf b)

/-- The entries of a slice of a KX9-P4 for the agents that can name it, of reads or of writes (Table 3).
Log entry 70 (DEDUCED). -/
def sliceEntries (write : Bool) : List Nat :=
  [80 * permitsOf 0 true write, 240 * permitsOf 0 false write, permitsOf 1000 true write + 3 * permitsOf 1000 false write,
    26 * permitsOf 2000 false write, 2 * permitsOf 3000 false write, 24 * permitsOf 4000 false write]

/-! ### In the package -/

def ReadReq.sharesPermit (r q : ReadReq) : Bool := q.agent == r.agent && samePool r.agent r.die r.line q.line

/-- The read permits of an agent towards that place (Table 2). -/
def ReadReq.permits (r : ReadReq) : Nat := permitsOf r.agent (homeDie r.line == r.die) false

/-- A read request has crossed to its home die (R340).
Log entry 70 (DEDUCED). -/
def State.requestOver (s : State) (r : ReadReq) : Bool := s.over 0 r.id r.die (homeDie r.line)

/-- The reply to a read, one packet for all requests of its pending access on one die, has crossed to that die (R77, R340). -/
def ReadReq.replyKey (r : ReadReq) : Nat := 4 * r.acc.getD 0 + r.die

def State.replyOver (s : State) (r : ReadReq) : Bool := s.over 1 r.replyKey (homeDie r.line) r.die

/-- The number of a write's packet: a write of an instruction to one line. -/
def InFlight.key (w : InFlight) : Nat := 2 ^ 80 * w.id + w.pa

/-- A write has crossed to its home die (R340).
Log entry 70 (DEDUCED). -/
def State.writeOver (s : State) (w : InFlight) : Bool := s.over 2 w.key w.die (homeDie (lineOf w.pa))

/-- A request holds a permit from its sending until its reply is accepted; those of an agent are sent in the order of their making
(R341, R343).
Log entry 70 (DEDUCED). -/
def State.readHolds (s : State) (r : ReadReq) : Bool :=
  ((s.reads.takeWhile (·.id != r.id)).filter r.sharesPermit).length < r.permits

/-- Contributions of a core, made before number `id`, that hold write permits of the pool of a line. -/
def State.contribsAhead (s : State) (agent die line id : Nat) : Nat :=
  (s.contribs.filter (fun c => !c.waiting && c.id < id && c.by'.core == agent && c.pa < 2 ^ 80
    && samePool agent die line (lineOf c.pa))).length

/-- The writes among `ws` that hold permits of the pool of a line. -/
def writesAhead (ws : List InFlight) (agent die line : Nat) : Nat :=
  (ws.filter (fun v => v.agent == agent && samePool agent die line (lineOf v.pa))).length

/-- An agent has a free permit of the pool of a line, for a read or for a write. -/
def State.permit (s : State) (agent die line : Nat) (write : Bool) : Bool :=
  (if write then writesAhead s.writes agent die line + s.contribsAhead agent die line s.nextId
    else (s.reads.filter (fun q => q.agent == agent && samePool agent die line q.line)).length)
    < permitsOf agent (homeDie line == die) write

/-- An access that is performed at its home at once, as one to an SO page is and with `all` every one, finds the permits that it takes. What
finds none waits at its agent's egress (R343).
Log entry 70 (DEDUCED). -/
def State.permits (s : State) (agent die : Nat) (write all : Bool) (cs : List Chunk) : Bool :=
  cs.all (fun c => match c.pl with
    | .dram pa _ kind => !(all || kind == 1) || s.permit agent die (lineOf pa) write
    | .host .. | .peer .. => true)

/-! ### To peer packages -/

/-- Contributions of a core, made before number `id`, on their way to peer packages. -/
def State.peerContribs (s : State) (core id : Nat) : Nat :=
  (s.contribs.filter (fun c => !c.waiting && c.id < id && c.by'.core == core && 4 * 2 ^ 80 ≤ c.pa)).length

/-- The requests of a core to peer packages that hold permits. -/
def State.peerHeld (s : State) (core : Nat) (write : Bool) : Nat :=
  (s.peerReqs.filter (fun q => q.core == core && q.write == write && q.sent)).length

/-- A request leaves for its peer and holds its permit; where the traffic is dropped it ends (R334). -/
def State.sendPeer (s : State) (q : PeerReq) : State :=
  if s.drops q.die q.rank then { s with peerReqs := s.peerReqs.filter (·.id != q.id) }
  else { s with peerReqs := updateWhere (·.id == q.id) (fun q => { q with sent := true }) s.peerReqs }.tilic q.die q.rank q.pkt

/-- The requests of a core that wait at the egress leave while it has permits, the oldest first.
Log entry 70 (DEDUCED). -/
def State.egress (s : State) (core : Nat) (write : Bool) : State :=
  let held := s.peerHeld core write + if write then s.peerContribs core s.nextId else 0
  ((s.peerReqs.filter (fun q => q.core == core && q.write == write && !q.sent)).take (peerPermits write - held)).foldl State.sendPeer s

/-- A core makes a request to a peer package.
Log entry 70 (DEDUCED). -/
def State.askPeer (s : State) (core die rank : Nat) (write : Bool) (pkt : TilicPkt) : State :=
  let (id, s) := s.fresh
  ({ s with peerReqs := s.peerReqs ++ [⟨id, core, die, rank, write, pkt, false⟩] } : State).egress core write

end Sys2Proof.Machine
end

