-- ==== Sys2Proof/Machine/Access.lean ====
section
/-!
DEFINITION. Machine/Access.lean: buffer records (R53 to R59), and the accesses of a warp's lanes and of the engines to memory:
which lanes are refused, what is read, what is written, and what the marks and page kinds order (R91 to R101).
-/

namespace Sys2Proof.Machine

/-! ## Buffer records -/

/-- Why a record cannot be used: an undeclared scalar, or an offending bit as %trinfo names it (R53, R56). -/
inductive RecErr
  | reg (idx : Nat)
  | bad (info : Nat)
  deriving DecidableEq, Repr

/-- The 256 bits of a record, or of a box descriptor, from eight scalars on. -/
def wordsAt (rd : Nat → Word) (i n : Nat) : Nat := packCodes 32 ((List.range n).map (fun j => (rd (i + j)).toNat))

/-- The lowest bit of a list that is set in `r`. -/
def firstSet (r : Nat) (bits : List Nat) : Option Nat := bits.find? (bit r)

/-- The least of some optional numbers. -/
def leastOf (xs : List (Option Nat)) : Option Nat :=
  xs.foldl (fun a x => match a, x with
    | some m, some n => some (min m n)
    | none, y => y
    | y, none => y) none

/-- The first offending bit of a primary record (R56). Of a reserved FMT, CPOL or SPACE code it is the field's lowest bit.
Log entry 73 (DESIGN CHOICE). -/
def recOffence (r k : Nat) : Option Nat :=
  leastOf [if 18 ≤ fld r 192 5 then some 192 else none, if fld r 200 2 = 3 then some 200 else none,
    if fld r 202 2 = 3 then some 202 else none, if bit r 204 && k = 7 then some 204 else none,
    firstSet r ([199] ++ (List.range 32).map (· + 205) ++ (List.range 6).map (· + 250))]

/-- The fields of record `k` and of its continuation (R53 to R57). -/
def recOf (rd : Nat → Word) (k : Nat) : Rec :=
  let r := wordsAt rd (8 * k) 8
  let c := if bit r 204 then wordsAt rd (8 * k + 8) 8 else 0
  { num := k, base := fld r 0 64,
    ext := [fld r 64 32, max 1 (fld r 96 32), max 1 (fld c 0 32), max 1 (fld c 32 32), max 1 (fld c 64 32)],
    str := [fld r 128 32, fld r 160 32, fld c 96 32, fld c 128 32],
    fmt := Fmt.ofCode (fld r 192 5), bnd := fld r 197 2, cpol := fld r 200 2, space := fld r 202 2,
    pair := bit r 204, peer := fld r 237 13 }

/-- Read record `k` with its continuation. -/
def readRec (rd : Nat → Word) (scal k : Nat) : Except RecErr Rec :=
  if scal < 8 * k + 8 then .error (.reg (max (8 * k) scal))
  else
    let r := wordsAt rd (8 * k) 8
    match recOffence r k with
    | some b => .error (.bad (k + b * 256))
    | none =>
      let pair := bit r 204
      if pair && scal < 8 * k + 16 then .error (.reg (max (8 * k + 8) scal))
      else
        let c := if pair then wordsAt rd (8 * k + 8) 8 else 0
        match firstSet c ((List.range 96).map (· + 160)) with
        | some b => .error (.bad (k + 1 + b * 256))
        | none =>
          .ok (recOf rd k)

/-- The record that an instruction of a warp names. -/
def Env.record (e : Env) (k : Nat) : Except Stop Rec :=
  match readRec e.w.s e.l.pk.scal k with
  | .ok r => .ok r
  | .error (.reg i) => .error (e.regTrap i 1)
  | .error (.bad i) => .error (e.ill i)

/-- Byte distance of dimension d: 0 for dimension 0 stands for the element size. -/
def Rec.strOf (r : Rec) (d : Nat) : Nat := r.str.getD (d - 1) 0
def Rec.extOf (r : Rec) (d : Nat) : Nat := r.ext.getD d 1

/-- The footprint in bits (R58). -/
def Rec.footBits (r : Rec) : Nat :=
  ((List.range 4).map (fun i => 8 * r.extOf (i + 1) * r.strOf (i + 1))).foldl max (r.extOf 0 * r.fmt.bits)

/-- An access of `n` bytes at byte offset `o` is in bounds (R58). -/
def Rec.inBounds (r : Rec) (o : Int) (n : Nat) : Bool := 0 ≤ o && 8 * (o.toNat + n) ≤ r.footBits

/-- The bytes of a format's quiet NaN, or zeros where it has none (R59). -/
def Fmt.nanBytes (t : Fmt) : List Byte :=
  let of := fun (f : FSpec) => leBytes (f.width / 8) f.qnan
  match t with
  | .f64 => of specF64
  | .f32 => of specF32
  | .f16 => of specF16
  | .bf16 => of specBf16
  | .f8e5 => of specF8e5
  | .f8e4 => of specF8e4
  | .c64 => of specF32 ++ of specF32
  | .c128 => of specF64 ++ of specF64
  | t => List.replicate (max 1 (t.bits / 8)) 0

/-- The fill of `n` bytes at byte offset `o` (R58, R59). -/
def Rec.fill (r : Rec) (o : Int) (n : Nat) : List Byte :=
  if r.bnd = 3 then
    let f := Fmt.nanBytes r.fmt
    (List.range n).map (fun (i : Nat) => f.getD ((o + i) % (f.length : Int)).toNat 0)
  else List.replicate n 0

/-- The virtual address at a byte offset. -/
def Rec.addr (r : Rec) (o : Int) : Nat := modW 64 (r.base + o)

def Rec.host (r : Rec) : Bool := r.space == 2
def Rec.peer? (r : Rec) : Option Nat := if r.space = 1 then some r.peer else none

/-- Translate a range that a record names; a BASE whose bits [63:57] do not all equal bit 56 is outside every lease (R56). -/
def State.recChunks (s : State) (w : Who) (need : Need) (r : Rec) (va n : Nat) : Except (Deny × Nat) (List Chunk) :=
  if canonicalVa r.base then s.chunks w need r.host r.peer? va n else .error (.outside, va)

/-! ## What a warp's lanes may access -/

/-- A lane's access: performed at some chunks, or filled and discarded (R58). -/
inductive LaneAcc
  | go (cs : List Chunk)
  | fill (bs : List Byte)
  deriving DecidableEq, Repr

/-- The addresses of a trap's lanes. -/
def laneAddrs (ls : List (Nat × Nat)) : Tbl DWord := ls.foldl (fun t p => Tbl.set 0 t p.1 (BitVec.ofNat 64 p.2)) []

/-- One address for every lane of a mask. -/
def allAt (g : LaneMask) (a : Nat) : Tbl DWord := laneAddrs ((lanesOf g).map (fun l => (l, a % 2 ^ 64)))

/-- The context fault of refused lanes: the lowest code, its lanes and their lowest address (R307, Table 6). -/
def laneHalt (fs : List (Nat × Nat × Nat)) : CFault :=
  let c := (fs.map (·.2.1)).foldl min 255
  let hit := fs.filter (fun f => f.2.1 == c)
  { cause := c, lmask := maskOf (hit.map (·.1)),
    va := (hit.map (fun f => f.2.2)).foldl min (2 ^ 64 - 1) }

/-- A refusal by translation as a context fault of a warp (R327). -/
def Deny.code : Deny → Nat
  | .outside | .pinned => 32
  | .failed => 35
  | .absent => 0

/-- What each lane does, or the refusal of the instruction (R58, R307, R308, R327). `use` is 0 for a load and 1 for a store
or an atomic (R306, cause 10). -/
def Env.plan (e : Env) (s : State) (r : Rec) (need : Need) (use n : Nat) (offs : List (Nat × Int)) :
    Except Stop (List (Nat × LaneAcc)) :=
  let each := offs.map (fun p =>
    let va := r.addr p.2
    if r.bnd != 0 && !r.inBounds p.2 n then
      (p.1, va, if r.bnd = 1 then (.error none : Except (Option (Deny × Nat)) LaneAcc) else .ok (.fill (r.fill p.2 n)))
    else
      match s.recChunks (e.who s p.1) need r va n with
      | .ok cs => (p.1, va, .ok (.go cs))
      | .error d => (p.1, va, .error (some d)))
  let denied := each.filterMap (fun t => match t.2.2 with
    | .error (some (d, a)) => some (t.1, d, a)
    | _ => none)
  let faults := denied.filterMap (fun t => if t.2.1 == .absent then none else some (t.1, t.2.1.code, t.2.2))
  let oob := each.filterMap (fun t => match t.2.2 with
    | .error none => some (t.1, t.2.1)
    | _ => none)
  let absent := each.filterMap (fun t => match t.2.2 with
    | .error (some (.absent, _)) => some (t.1, t.2.1)
    | _ => none)
  if !faults.isEmpty then .error (.halt (laneHalt faults))
  else if !oob.isEmpty then .error (.trap ⟨5, maskOf (oob.map (·.1)), r.num, laneAddrs oob⟩)
  else if !absent.isEmpty then
    .error (.trap ⟨10, maskOf (absent.map (·.1)), r.num + use * 256, laneAddrs absent⟩)
  else .ok (each.filterMap (fun t => match t.2.2 with
    | .ok a => some (t.1, a)
    | .error _ => none))

/-- A condition on values judged with an access: a context fault of any lane comes before its trap (R307). -/
def Env.faultFirst (e : Env) (s : State) (r : Rec) (need : Need) (n : Nat) (offs : List (Nat × Int)) (chk : Except Stop Unit) :
    Except Stop Unit :=
  match chk, e.plan s r need 0 n offs with
  | .error _, .error (.halt h) => .error (.halt h)
  | c, _ => c

/-- The checks of a word whose lanes access a record, in the order of their causes (R42, R307): misaligned groups; then, where the
registers `src` of the addresses lie within the declaration, a context fault of any lane before the conditions `here` and `there` of
REASON 0 and the other registers. `there` rests on the addresses.
Log entry 24 (DEDUCED). -/
def Env.judged (e : Env) (s : State) (r : Rec) (need : Need) (n : Nat) (offs : List (Nat × Int)) (us src : List Use)
    (here there : Except Stop Unit := .ok ()) : Except Stop Unit := do
  e.aligned us
  if (e.uses src).isNone then
    e.faultFirst s r need n offs (do
      here
      there
      e.need us)
  else
    here
    e.need us

/-- The chunks of a plan. -/
def planChunks (ps : List (Nat × LaneAcc)) : List Chunk :=
  ps.flatMap (fun p => match p.2 with
    | .go cs => cs
    | .fill _ => [])

/-- An instruction with an element on an SO page orders all of them as SO (R97). -/
def anySo (cs : List Chunk) : Bool := cs.any (fun c => c.pl.kind == 1)

end Sys2Proof.Machine

namespace Sys2Proof

/-- A scope that includes agents beyond the core: its acquire empties the L1, and its reads bypass it (R95, R101).
Log entry 17 (DEDUCED). -/
def Scope.wide : Scope → Bool
  | .none | .wg => false
  | _ => true

/-- A scope beyond the die: its release waits for the die's writes to reach their homes (R96, R98).
Log entry 17 (DEDUCED). -/
def Scope.beyondDie : Scope → Bool
  | .dev | .sys => true
  | _ => false

/-- The order of an atomic releases (R98, R229). -/
def Ord.releases (o : Ord) : Bool := o == .rel || o == .ar

end Sys2Proof

namespace Sys2Proof.Machine

/-! ## Uncorrectable errors found by a read (R75, R325) -/

/-- A read finds an error: served from the mirror, which repairs the home copy and is counted, or context fault 33.
Log entry 34 (DEDUCED). -/
def State.checkLine (s : State) (die : Nat) (pa : Nat) (mir : Option Nat) : Except CFault State :=
  let ln := lineOf pa
  if !s.poison.contains ln then .ok s
  else
    match mir with
    | none => .error { cause := 33, src := 6, info := pa }
    | some m =>
      if s.poison.contains (lineOf m) then .error { cause := 33, src := 6, info := pa }
      else
        let good := readBytes s.mem (128 * lineOf m) 128
        .ok (({ s with mem := writeBytes s.mem (128 * ln) good, poison := s.poison.filter (· != ln) }).bump die 1 pa)

/-- Check every line that some chunks read.
Log entry 34 (DEDUCED). -/
def State.checkReads (s : State) (cs : List Chunk) : Except CFault State :=
  cs.foldl (fun acc c => match acc with
    | .error h => .error h
    | .ok s => match c.pl with
      | .dram pa mir _ => (match s.checkLine (pa / 2 ^ 37 % 4) pa mir with
        | .error h => .error { h with va := c.va }
        | .ok s => .ok s)
      | _ => .ok s) (.ok s)

/-- The bytes of some chunks as they stand at their homes. -/
def State.homeBytes (s : State) (cs : List Chunk) : List Byte :=
  cs.flatMap (fun c => match c.pl with
    | .dram pa _ _ => readBytes s.mem pa c.n
    | .host p a _ => s.hostBytes p a c.n
    | .peer r x a _ => s.peerBytes (peerKey r x) a c.n)

/-! ## Reading -/

/-- How a read treats its core's L1 cache: through it, and whether a miss fills it. -/
structure L1Use where
  through : Bool
  alloc : Bool
  deriving DecidableEq, Repr

/-- Queue a merge read of a line (R76, R343); the agent's key is the core, or 1000 + the die of an amplitude engine. -/
def State.askLine (s : State) (ctx agent die : Nat) (line : Nat) (mir : Option Nat) : State :=
  let (id, s) := s.fresh
  { s with reads := s.reads ++ [⟨id, ctx, agent, die, line, mir, false, none, none⟩] }

/-- Read one chunk; the third part names the line asked for at its home slice. -/
def State.readChunk (s : State) (core die : Nat) (u : L1Use) (c : Chunk) :
    State × List Byte × List (Nat × Option Nat) :=
  match c.pl with
  | .dram pa mir kind =>
    if kind == 1 then (s.l1Drop core (lineOf pa), s.dieBytes die pa c.n, [])
    else if u.through then
      let (s', bs, miss) := s.l1Read core die pa c.n u.alloc
      (s', bs, if miss then [(lineOf pa, mir.map lineOf)] else [])
    else (s.l1Drop core (lineOf pa), s.dieBytes die pa c.n, [(lineOf pa, mir.map lineOf)])
  | .host p a _ => (s, s.hostBytes p a c.n, [])
  | .peer r x va _ => (s.askPeer core die r false (.read r x va c.n), s.peerBytes (peerKey r x) va c.n, [])

/-- Read some chunks in order. -/
def State.readChunks (s : State) (core die : Nat) (u : L1Use) (cs : List Chunk) :
    State × List Byte × List (Nat × Option Nat) :=
  cs.foldl (fun acc c =>
    let (s', bs, ls) := acc.1.readChunk core die u c
    (s', acc.2.1 ++ bs, acc.2.2 ++ ls)) (s, [], [])

/-- Ask for each line of a list once. -/
def State.askLines (s : State) (ctx agent die : Nat) (ls : List (Nat × Option Nat)) : State :=
  ls.eraseDups.foldl (fun s l => s.askLine ctx agent die l.1 l.2) s

/-- Keep the translations of some chunks. -/
def State.keepAll (s : State) (w : Who) (cs : List Chunk) : State := cs.foldl (fun s c => s.keep w c) s

/-- Perform the loads of a plan: the bytes of each lane, in ascending lane order. `cached` is false for CVLD (R84).
Log entry 18 (DEDUCED). -/
def Env.loadLanes (e : Env) (s : State) (ps : List (Nat × LaneAcc)) (cached : Bool) (cpol : Nat) (ord : Ord) (scp : Scope) :
    Except Stop (State × List (Nat × List Byte)) :=
  let cs := planChunks ps
  let so := anySo cs
  let core := e.c.core
  let die := s.dieOf core
  match s.checkReads cs with
  | .error h => .error (.halt { h with lmask := maskOf (ps.map (·.1)) })
  | .ok s =>
    let s := if so || (ord == .acq && scp.wide) then s.l1Flush core else s
    let noAlloc := ord == .na || (ord != .ef && cpol == 1)
    let u : L1Use := ⟨cached && !so && !scp.wide, !noAlloc⟩
    let (s, out, ls) := ps.foldl (fun (acc : State × List (Nat × List Byte) × List (Nat × Option Nat)) p =>
      match p.2 with
      | .fill bs => (acc.1, acc.2.1 ++ [(p.1, bs)], acc.2.2)
      | .go cs =>
        let (s', bs, l) := acc.1.readChunks core die u cs
        (s'.keepAll (e.who s' p.1) cs, acc.2.1 ++ [(p.1, bs)], acc.2.2 ++ l)) (s, [], [])
    .ok (s.askLines e.l.ctx core die ls, out)

/-! ## Writing -/

/-- Append a write on its way, joined to the last one where it continues it within a line. -/
def addWrite (ws : List InFlight) (w : InFlight) : List InFlight :=
  match ws.getLast? with
  | some l =>
    if l.id == w.id && l.pa + l.bytes.length == w.pa && lineOf l.pa == lineOf w.pa
        && l.mir.map (· + l.bytes.length) == w.mir then
      ws.dropLast ++ [{ l with bytes := l.bytes ++ w.bytes }]
    else ws ++ [w]
  | none => ws ++ [w]

/-- A core's request `pkt` writes in a peer package; where the traffic is dropped it has no effect (R334). -/
def State.toPeer (s : State) (core die rank ctx va : Nat) (pkt : TilicPkt) (bs : List Byte) : State :=
  if s.drops die rank then s else (s.askPeer core die rank true pkt).peerWrite (peerKey rank ctx) va bs

/-- Write one chunk. `id` names the writing instruction.
Log entry 16 (DEDUCED). -/
def State.writeChunk (s : State) (id ctx agent die : Nat) (core : Option Nat) (so : Bool) (c : Chunk) (bs : List Byte) :
    State :=
  match c.pl with
  | .dram pa mir _ =>
    let s := match core with
      | some k => s.l1Update k pa bs
      | none => s
    if so then s.writeHome die pa mir bs
    else { s with writes := addWrite s.writes ⟨id, die, agent, ctx, pa, bs, mir, false⟩ }
  | .host p a _ => s.hostWrite p a bs
  | .peer r x va _ => s.toPeer agent die r x va (.write r x va bs) bs

/-- Write bytes over some chunks in order.
Log entry 16 (DEDUCED). -/
def State.writeChunks (s : State) (id ctx agent die : Nat) (core : Option Nat) (so : Bool) :
    List Chunk → List Byte → State
  | [], _ => s
  | c :: cs, bs =>
    (s.writeChunk id ctx agent die core so c (bs.take c.n)).writeChunks id ctx agent die core so cs (bs.drop c.n)

/-- Perform the stores of a plan in ascending lane order (R73); a release beyond the die, and a write to an SO page, follow
the die's earlier writes. -/
def Env.storeLanes (e : Env) (s : State) (ps : List (Nat × LaneAcc)) (data : Nat → List Byte) (ord : Ord) (scp : Scope) :
    State :=
  let so := anySo (planChunks ps)
  let core := e.c.core
  let die := s.dieOf core
  let s := if so || (ord == .rel && scp.beyondDie) then s.drainDie die else s
  let (id, s) := s.fresh
  ps.foldl (fun s p => match p.2 with
    | .fill _ => s
    | .go cs => (s.keepAll (e.who s p.1) cs).writeChunks id e.l.ctx core die (some core) so cs (data p.1)) s

/-! ## Read-modify-writes at the home (R229 to R231) -/

/-- The bytes at a chunk's home, after the die's own earlier writes to them.
Log entry 19 (DEDUCED). -/
def State.homeRead (s : State) (die : Nat) (c : Chunk) : State × List Byte :=
  match c.pl with
  | .dram pa _ _ =>
    let s := s.drain (fun w => w.die == die && w.meets pa c.n)
    (s, readBytes s.mem pa c.n)
  | .host p a _ => (s, s.hostBytes p a c.n)
  | .peer r x va _ => (s, s.peerBytes (peerKey r x) va c.n)

/-- A read-modify-write as its request names it: the type's code, its AOP or 7 for CAS, and the operands (R229, R230). -/
structure RmwReq where
  ty : Nat
  op : Nat
  data : List Byte

/-- The packet of a write to a peer, or of the read-modify-write that it belongs to. -/
def peerPkt (rank ctx va : Nat) (bs : List Byte) : Option RmwReq → TilicPkt
  | none => .write rank ctx va bs
  | some q => .atomic rank ctx va q.ty q.op q.data

/-- Write at a chunk's home at once. A core that is named drops the line from its L1; `agent` and `ask` matter at a peer.
Log entry 19 (DEDUCED). -/
def State.homeWrite (s : State) (die : Nat) (core : Option Nat) (c : Chunk) (bs : List Byte) (agent : Nat := 0)
    (ask : Option RmwReq := none) : State :=
  match c.pl with
  | .dram pa mir _ =>
    let s := s.writeHome die pa mir bs
    match core with
    | some k => s.l1Drop k (lineOf pa)
    | none => s
  | .host p a _ => s.hostWrite p a bs
  | .peer r x va _ => s.toPeer agent die r x va (peerPkt r x va bs ask) bs

/-! ## Order after a thread's contributions (R98) -/

/-- The die at which a contribution is held: that of its home slice, or its sender's for a place off the package.
Log entry 19 (DEDUCED). -/
def Contrib.home (c : Contrib) : Nat := if c.pa < 2 ^ 80 then c.pa / 2 ^ 37 % 4 else c.die

/-- A thread of `g` has sent contributions that have not been applied.
Log entry 17 (DEDUCED). -/
def Env.owes (e : Env) (s : State) (g : LaneMask) (soOnly : Bool) : Bool :=
  s.contribs.any (fun c => c.by'.wg == e.wg.id && c.widx == e.w.widx && g.getLsbD c.lane && (c.so || !soOnly))

/-- A release of the threads of `g` follows their contributions: until these have been applied the entry stays at the head. A
word that traps or halts does so at once.
Log entry 17 (DEDUCED). -/
def Env.releasing (e : Env) (s : State) (yes : Bool) (g : LaneMask) (r : Res) : Res :=
  match r with
  | .trap t => .trap t
  | .halt h => .halt h
  | r => if yes && e.owes s g false then .hold s else r

/-- What waits for the replies of a peer that gives none, since the traffic to it is dropped, stays at the head (R334), and so does
what finds no permit (R343): `rmw` says that it is an atomic or CAS. An access to an SO page follows the thread's contributions to SO
pages (R95).
Log entry 17 (DEDUCED). -/
def Env.reading (e : Env) (s : State) (rmw : Bool) (cs : List Chunk) (g : LaneMask) (r : Res) : Res :=
  let mute := cs.any (fun c => match c.pl with
    | .peer k _ _ _ => s.drops (s.dieOf e.c.core) k
    | _ => false)
  match r with
  | .trap t => .trap t
  | .halt h => .halt h
  | r => if mute || (anySo cs && e.owes s g true) || !s.permits e.c.core (s.dieOf e.c.core) rmw rmw cs then .hold s else r

/-! ## Scratchpad accesses of lanes -/

/-- The bounds trap of scratchpad addresses (R48). -/
def scrBad (declared n : Nat) (offs : List (Nat × Int)) : Option Stop :=
  let bad := offs.filter (fun p => p.2 < 0 || declared < p.2.toNat + n)
  if bad.isEmpty then none
  else some (.trap ⟨5, maskOf (bad.map (·.1)), 2 ^ 31, laneAddrs (bad.map (fun p => (p.1, modW 64 p.2)))⟩)

/-- The sums of R132: the index register, unsigned, plus the signed offset. -/
def Env.offsets (e : Env) (ls : List Nat) (a : VReg) (off : Int) : List (Nat × Int) :=
  ls.map (fun l => (l, (e.w.v a.toNat l).toNat + off))

end Sys2Proof.Machine
end

