-- ==== Sys2Proof/Machine/Barrier.lean ====
section
/-!
DEFINITION. Machine/Barrier.lean: named barriers and the cluster barrier (R205 to R209), and what an exit does to them (R206).
-/

namespace Sys2Proof.Machine

/-! ## Warps of a workgroup -/

/-- The resident and evicted warps of a workgroup. -/
def State.warpsOf (s : State) (wg : Nat) : List Warp :=
  ((s.warps.map (·.2)) ++ (s.evicted.map (·.w))).filter (·.wg == wg)

/-- The live threads of a workgroup (R206). -/
def State.liveOf (s : State) (wg : Nat) : Nat := ((s.warpsOf wg).map (fun w => maskCount w.live)).foldl (· + ·) 0

/-- A warp of the workgroup is evicted, from the moment in which it begins to leave: its barriers cannot complete (R305). -/
def State.wgEvicted (s : State) (wg : Nat) : Bool :=
  s.evicted.any (fun e => e.w.wg == wg) || s.warps.any (fun (e : Nat × Warp) => e.2.wg == wg && e.2.evicting.isSome)

/-! ## One barrier -/

/-- A phase that has its arrivals and a zero balance completes (R206); whether an engine arrived in it is kept (R102). -/
def Barrier.settle (b : Barrier) (may : Bool) : Barrier :=
  match b.tgt with
  | some t =>
    if may && t ≤ b.arr && b.bal = 0 then
      let others := b.engines.filter (· != b.phase)
      { b with phase := b.phase + 1, arr := 0, tgt := none, dflt := false, bal := 0, engine := false, who := []
               engines := if b.engine then others ++ [b.phase] else others }
    else b
  | none => b

/-- The range of ARR of a named barrier, and of the cluster barrier (Table 3, R209). -/
def arrNamed : Nat := 2 ^ 11
def arrCluster : Nat := 2 ^ 14

/-- One arrival: the first of a phase fixes the target; `count` is the explicit target. ARR wraps in its width.
Log entry 28 (DEDUCED). -/
def Barrier.arrive (b : Barrier) (range thread : Nat) (count : Option Nat) (live : Nat) (may : Bool) : Barrier :=
  let b := match b.tgt with
    | some _ => b
    | none => { b with tgt := some (count.getD live), dflt := count.isNone }
  ({ b with arr := (b.arr + 1) % range, who := b.who ++ [thread] }).settle may

/-- A thread exits: a target that follows the live threads falls, unless the thread has arrived in the phase.
Log entry 28 (DEDUCED). -/
def Barrier.leave (b : Barrier) (thread : Nat) (may : Bool) : Barrier :=
  match b.tgt with
  | some t => if b.dflt && !b.who.contains thread then ({ b with tgt := some (t - 1) }).settle may else b
  | none => b

/-- Add to the balance: BEXPECT; an engine's arrival bytes are subtracted and mark the phase (R208, R69). -/
def Barrier.addBal (b : Barrier) (n : Word) (may : Bool) : Barrier := ({ b with bal := b.bal + n }).settle may
def Barrier.bytes (b : Barrier) (n : Nat) (may : Bool) : Barrier :=
  ({ b with bal := b.bal - BitVec.ofNat 32 n, engine := true }).settle may

/-- An engine program's BARV: an arrival that no thread makes (R214).
Log entry 28 (DEDUCED). -/
def Barrier.arriveEngine (b : Barrier) (count : Option Nat) (live : Nat) (may : Bool) : Barrier :=
  ({ b with engine := true }).arrive arrNamed (2 ^ 20) count live may

/-- Phase `p` has completed (R207). -/
def Barrier.passed (b : Barrier) (p : Word) : Bool :=
  let d := (b.phase - p).toNat
  1 ≤ d && d < 2 ^ 31

/-! ## Barriers of a workgroup -/

def Wg.bar (g : Wg) (k : Nat) : Barrier := Tbl.get Barrier.init g.bars k

/-- Change one barrier of a workgroup. -/
def State.modBar (s : State) (wg k : Nat) (f : Barrier → Barrier) : State :=
  s.modWg wg (fun g => { g with bars := Tbl.set Barrier.init g.bars k (f (g.bar k)) })

/-- Arrivals of the listed lanes of a warp, in ascending order: the state, and the phase each arrival entered. -/
def State.arriveLanes (s : State) (wg widx k : Nat) (count : Option Nat) (ls : List Nat) : State × List (Nat × Word) :=
  let live := s.liveOf wg
  let may := !s.wgEvicted wg
  ls.foldl (fun acc l =>
    let ph := match acc.1.wg? wg with
      | some g => (g.bar k).phase
      | none => 0
    (acc.1.modBar wg k (fun b => b.arrive arrNamed (32 * widx + l) count live may), acc.2 ++ [(l, ph)])) (s, [])

/-- Engine arrival bytes at a workgroup's barrier (R69). -/
def State.arriveBytes (s : State) (wg k n : Nat) : State :=
  s.modBar wg k (fun b => b.bytes n (!s.wgEvicted wg))

/-! ## The cluster barrier (R209) -/

def State.cgLive (s : State) (g : Cg) : Nat := (g.wgs.map s.liveOf).foldl (· + ·) 0
def State.cgEvicted (s : State) (g : Cg) : Bool := g.wgs.any s.wgEvicted

/-- The cluster-group of a workgroup. -/
def State.cgOf (s : State) (g : Wg) : Option Cg := s.cg? g.launch g.cg

/-- The number of a thread within its cluster-group. -/
def cgThread (g : Wg) (widx lane : Nat) : Nat := 1024 * g.rank + 32 * widx + lane

def State.cbarArrive (s : State) (g : Wg) (widx : Nat) (ls : List Nat) : State × List (Nat × Word) :=
  match s.cgOf g with
  | none => (s, [])
  | some c =>
    let live := s.cgLive c
    let may := !s.cgEvicted c
    let (b, out) := ls.foldl (fun (acc : Barrier × List (Nat × Word)) l =>
      (acc.1.arrive arrCluster (cgThread g widx l) none live may, acc.2 ++ [(l, acc.1.phase)])) (c.bar, [])
    (s.modCg c.launch c.c (fun x => { x with bar := b }), out)

/-! ## Exits and resumption -/

/-- The listed lanes of a warp leave every barrier that counts live threads (R206, R209).
Log entry 28 (DEDUCED). -/
def State.leaveBarriers (s : State) (g : Wg) (widx : Nat) (ls : List Nat) : State :=
  let may := !s.wgEvicted g.id
  let s := s.modWg g.id (fun g => { g with
    bars := g.bars.map (fun e => (e.1, ls.foldl (fun b l => b.leave (32 * widx + l) may) e.2)) })
  match s.cgOf g with
  | none => s
  | some c =>
    let may := !s.cgEvicted c
    s.modCg c.launch c.c (fun x => { x with bar := ls.foldl (fun b l => b.leave (cgThread g widx l) may) x.bar })

/-- Phases that could not complete while a warp was away complete when they may (R305). -/
def State.settleBarriers (s : State) (wg : Nat) : State :=
  match s.wg? wg with
  | none => s
  | some g =>
    let may := !s.wgEvicted wg
    let s := s.modWg wg (fun g => { g with bars := g.bars.map (fun e => (e.1, e.2.settle may)) })
    match s.cgOf g with
    | none => s
    | some c => s.modCg c.launch c.c (fun x => { x with bar := x.bar.settle (!s.cgEvicted c) })

end Sys2Proof.Machine
end

