-- ==== Sys2Proof/Machine/Convoy.lean ====
section
/-!
DEFINITION. Machine/Convoy.lean: the convoy controller of a die (R79 to R88).
-/

namespace Sys2Proof.Machine

/-- The entry of a declaration of a launch on a die. -/
def State.convoy? (s : State) (die launch decl : Nat) : Option Convoy :=
  s.convoys.find? (fun c => c.die == die && c.launch == launch && c.decl == decl)

def State.modConvoy (s : State) (die launch decl : Nat) (f : Convoy → Convoy) : State :=
  { s with convoys := updateWhere (fun c => c.die == die && c.launch == launch && c.decl == decl) f s.convoys }

/-- The launch of a warp. -/
def State.launchOf (s : State) (w : Warp) : Option Nat := (s.wg? w.wg).map (·.launch)

/-- The active members of an entry: key and association. -/
def State.members (s : State) (c : Convoy) : List (Nat × Assoc) :=
  s.warps.filterMap (fun e =>
    match e.2.assoc with
    | some a =>
      if a.active && a.decl == c.decl && s.launchOf e.2 == some c.launch && s.dieOf (e.1 / 32) == c.die then some (e.1, a)
      else none
    | none => none)

/-- The minimum active position (R81). -/
def State.minPos (s : State) (c : Convoy) : Option Nat := leastOf ((s.members c).map (fun m => some m.2.pos))

/-- The lowest member slot that no active member holds (R81). -/
def State.freeSlot (s : State) (c : Convoy) : Nat :=
  ((List.range 64).find? (fun i => !(s.members c).any (fun m => m.2.slot == i))).getD 0

/-- The hold limit in cycles, 0 read as 4,096 (R79).
Log entry 65 (DEDUCED). -/
def Convoy.holdCycles (c : Convoy) : Nat := if c.hold = 0 then 4096 else c.hold

/-- CVJOIN's outcome (R82): the predicate's value, the warp's association after it, and whether a first join is counted. -/
def State.cvJoin (s : State) (die launch d : Nat) (w : Warp) : Bool × Option Assoc × Bool :=
  let entry := s.convoy? die launch d
  let full : Bool := match entry with
    | some c => decide (64 ≤ (s.members c).length)
    | none => true
  let fresh : Bool × Option Assoc × Bool :=
    match entry with
    | none => (false, w.assoc, false)
    | some c =>
      if full then (false, w.assoc, false)
      else
        let ok := match s.minPos c with
          | none => true
          | some mn => mn ≤ c.slip
        if ok then
          let key := 32 * w.wg + w.widx
          (true, some ⟨d, 0, true, s.freeSlot c, 0⟩, !c.counted.contains key)
        else (false, w.assoc, false)
  match w.assoc with
  | none => fresh
  | some a =>
    if a.active then (a.decl == d, w.assoc, false)
    else if a.decl != d then fresh
    else
      match entry with
      | none => (false, w.assoc, false)
      | some c =>
        if full then (false, w.assoc, false)
        else
          let late := match s.minPos c with
            | none => false
            | some mn => a.pos + c.slip < mn
          if late then (false, w.assoc, false)
          else (true, some { a with active := true, slot := s.freeSlot c }, false)

/-- May a CVLD of this warp through a record with this BASE issue its read (R84)? -/
def State.cvMayRead (s : State) (die launch : Nat) (w : Warp) (base : Nat) : Bool :=
  match w.assoc with
  | none => true
  | some a =>
    if !a.active then true
    else
      match s.convoy? die launch a.decl with
      | none => true
      | some c =>
        if base != c.base then true
        else
          let near := match s.minPos c with
            | none => true
            | some mn => a.pos ≤ mn + c.slip
          near && (c.qdrop || c.quorum ≤ c.joins)

/-- The association after a CVLD retires (R81, R84). -/
def State.cvAdvance (s : State) (die launch : Nat) (w : Warp) (base : Nat) : Option Assoc :=
  match w.assoc with
  | none => none
  | some a =>
    match s.convoy? die launch a.decl with
    | some c => if base = c.base then some { a with pos := a.pos + 1 } else some a
    | none => some a

/-- The hold of a member expires (R85): the quorum is dropped, every active member more than CVSLIP behind is shed with
cause 1, and the waiting CVLD issues without further check.
Log entry 65 (DEDUCED). -/
def State.cvExpire (s : State) (c : Convoy) (core slot : Nat) (pos : Nat) : State :=
  let late := (s.members c).filter (fun m => m.2.pos + c.slip < pos)
  let s := s.modConvoy c.die c.launch c.decl (fun c => { c with qdrop := true, nshed := c.nshed + late.length })
  let s := late.foldl (fun s m => s.modWarp (m.1 / 32) (m.1 % 32) (fun w => w.shed 1)) s
  s.modWarp core slot (fun w => { w with cvPass := true })

/-- The convoy registers of a warp (R89): numbers 16 to 20. All read 0 while the warp has no association, MIN of %cvpos among
them; NSHED wraps at 2^16, and POS and MIN show positions modulo 2^32.
Log entry 78 (DESIGN CHOICE). -/
def State.cvReg (s : State) (die launch : Nat) (w : Warp) (n : Nat) : Nat :=
  match w.assoc with
  | none => 0
  | some a =>
    let c := (s.convoy? die launch a.decl).getD ⟨die, 0, launch, 0, a.decl, 0, 0, 0, 0, 0, false, 0, []⟩
    match n with
    | 16 => (if a.active then 2 ^ 31 else 2 ^ 30) + a.decl * 256 + a.slot
    | 17 => c.slip
    | 18 => c.holdCycles
    | 19 => a.pos % 2 ^ 32 + (((s.minPos c).getD (2 ^ 32 - 1)) % 2 ^ 32) * 2 ^ 32
    | _ => c.nshed % 2 ^ 16 * 2 ^ 16 + a.cause

end Sys2Proof.Machine
end

