-- ==== Sys2Proof/Machine/Release.lean ====
section
/-!
DEFINITION. Machine/Release.lean: how much work a launch holds, and giving back what warps and workgroups held (R39, R83,
R211, R347).
-/

namespace Sys2Proof.Machine

/-! ## The cluster-groups of a launch (R13 to R15, R297) -/

/-- The created identifiers. -/
def Launch.threads (l : Launch) : Nat :=
  let n := 2 ^ l.pk.bnd 6
  if l.limit = 0 then n else min l.limit n

/-- The created cluster-groups. -/
def Launch.cgCount (l : Launch) : Nat := ceilDiv l.threads (2 ^ l.pk.bnd l.pk.clLev)

/-- The created workgroups. -/
def Launch.wgCount (l : Launch) : Nat := ceilDiv l.threads (2 ^ l.pk.bnd l.pk.wgLev)

/-- The lowest cluster-group of the die of index `i` among `d` (R297). -/
def Launch.firstOf (l : Launch) (i d : Nat) : Nat := (i + d - l.seq % d) % d

/-- How many cluster-groups belong to the die of index `i`. -/
def Launch.assigned (l : Launch) (i d : Nat) : Nat :=
  let r := l.firstOf i d
  if r < l.cgCount then (l.cgCount - 1 - r) / d + 1 else 0

/-- Every cluster-group of the die of index `i` has been placed and released. -/
def Launch.doneOn (l : Launch) (i d : Nat) : Bool := l.assigned i d == Tbl.get 0 l.released i

/-! ## Warps (R39) -/

/-- The banks that a warp holds. -/
def Warp.bankCount (w : Warp) : Nat := (w.handles.map (fun (h : Nat × Handle) => h.2.banks.length)).foldl (· + ·) 0

/-- A warp gives back its slot, registers, tiles and banks; its partition keeps it no more (R27), and its threads' last-page registers,
which are the next warp's, hold no page of it (R326, R328). -/
def State.freeWarp (s : State) (core slot : Nat) : State :=
  let gone := fun (n : Nat) (t : Tbl Nat) => t.filter (fun e => !(e.1 / n == core && e.2 == slot + 1))
  { s.dropWarp core slot with
    tileOf := gone 64 s.tileOf
    bankOf := gone 256 s.bankOf
    lastSel := gone 4 s.lastSel
    tcache := s.tcache.filter (fun t => !(t.level == 0 && t.owner / 32 == 32 * core + slot)) }

/-! ## Workgroups -/

/-- Another workgroup of the context stands on the cluster. -/
def State.ctxOnCluster (s : State) (ctx cl but : Nat) : Bool :=
  s.wgs.any (fun g => g.id != but && clusterOf g.core == cl && (s.launch? g.launch).any (fun l => l.ctx == ctx))

/-- A message state closes: its receives and overflow entries are discarded (R347).
Log entry 67 (DEDUCED). -/
def MsgState.close (m : MsgState) (now : Nat) : MsgState :=
  { m with opened := false, opening := false, recvs := [], ovf := [],
           closed := if m.opened then Tbl.put m.closed m.gen now else m.closed }

/-- The convoy entries of a launch on a die are freed (R80). -/
def State.freeConvoys (s : State) (die launch : Nat) : State :=
  { s with convoys := s.convoys.filter (fun c => !(c.die == die && c.launch == launch)) }

/-- A workgroup gives back everything it held (R39); its last release on a die frees the launch's convoys there (R80), and the
context's last on a cluster closes the message state (R347). -/
def State.freeWg (s : State) (g : Wg) : State :=
  match s.launch? g.launch with
  | none => { s with wgs := s.wgs.filter (·.id != g.id) }
  | some l =>
    let cl := clusterOf g.core
    let die := s.dieOf g.core
    let last := !s.ctxOnCluster l.ctx cl g.id
    let p := (s.part? l.part).getD ⟨0, [0], 50, 0⟩
    let i := p.pdie die
    let s := { s with
      wgs := s.wgs.filter (·.id != g.id)
      sends := s.sends.filter (·.wg != g.id)
      msgs := s.msgs.map (fun (m : MsgState) =>
        let m : MsgState := { m with recvs := m.recvs.filter (·.wg != g.id) }
        if last && m.ctx == l.ctx && m.cluster == cl && (m.opened || m.opening) then m.close (s.now die) else m) }
    let s := s.modLaunch l.id (fun l => { l with hints := if g.hinted then l.hints else l.hints + 1 })
    let s := s.modCg l.id g.cg (fun c => { c with wgs := c.wgs.filter (· != g.id) })
    match s.cg? l.id g.cg with
    | none => s
    | some c =>
      if !c.wgs.isEmpty then s
      else
        let s := { s with cgs := s.cgs.filter (fun x => !(x.launch == l.id && x.c == g.cg)) }
        let s := s.modLaunch l.id (fun l => { l with released := Tbl.set 0 l.released i (Tbl.get 0 l.released i + 1) })
        match s.launch? l.id with
        | some l => if l.doneOn i p.dies.length then s.freeConvoys die l.id else s
        | none => s

/-- Work that the EXIT which frees a workgroup waits for (R39, R201, R233). -/
def State.wgBusy (s : State) (g : Wg) : Bool :=
  let into := fun (c : ReelCmd) =>
    let mask := match c.op with
      | .box _ _ _ m _ _ _ => m
      | .ss _ _ m _ => m
      | _ => 0
    bit mask g.rank && (s.wg? c.by'.wg).any (fun x => x.launch == g.launch && x.cg == g.cg)
  s.reelQ.any (fun c => c.by'.wg == g.id || into c) || s.matQ.any (fun c => c.by'.wg == g.id)
    || s.cruQ.any (fun c => c.by'.wg == g.id) || s.ampQ.any (fun c => c.by'.wg == g.id)
    || s.seqrs.any (fun q => q.by'.wg == g.id) || s.contribs.any (fun c => c.by'.wg == g.id)

/-- The last launched thread of a warp has exited: the warp is freed, and with the last warp the workgroup. -/
def State.retireWarp (s : State) (core slot : Nat) (g : Wg) : State :=
  let s := s.freeWarp core slot
  if g.exitedWarps + 1 = g.warps then s.freeWg g
  else s.modWg g.id (fun g => { g with exitedWarps := g.exitedWarps + 1 })

end Sys2Proof.Machine
end

