-- ==== Sys2Proof/Machine/Special.lean ====
section
/-!
DEFINITION. Machine/Special.lean: the special registers (R18, R41, R89, R164, R309), SRD (R163) and SWR (R165).
-/

namespace Sys2Proof.Machine

/-- What R164 and R309 say of a register's number. -/
structure SpecInfo where
  wide : Bool                      -- 64 bits
  perLane : Bool
  deriving DecidableEq, Repr

/-- The assigned special registers (Table 3, and Table 2 of the context chapter). -/
def specInfo (n : Nat) : Option SpecInfo :=
  match n with
  | 0 => some ⟨true, true⟩
  | 1 | 44 => some ⟨false, true⟩
  | 2 | 4 | 5 | 6 | 7 | 8 | 10 | 11 | 16 | 17 | 18 | 20 | 32 | 33 | 34 | 38 | 40 | 41 | 42 | 43 | 48 | 49 | 128 | 129 | 133 =>
    some ⟨false, false⟩
  | 3 | 9 | 19 | 21 | 22 | 23 | 35 | 130 | 131 | 132 => some ⟨true, false⟩
  | 36 | 37 => some ⟨true, true⟩
  | _ => none

/-- The identifier of a lane's thread (R16). -/
def Env.wid (e : Env) (l : Nat) : Nat := e.wg.base.toNat + 32 * e.w.widx + l

/-- The generator state of a thread for a seed (R110). -/
def seedState (seed : Word) (wid : Nat) : Word :=
  let x := seed ^^^ (BitVec.ofNat 32 ((wid + 1) * 0x9E3779B9))
  if x = 0 then 1 else x

/-- The enabled clusters of a partition. -/
def State.partClusters (s : State) (p : Part) : Nat :=
  (p.dies.map (fun d => (s.coreMap.getD d []).length)).foldl (· + ·) 0

/-- %ncl (R18). -/
def State.ncl (s : State) (p : Part) : Nat := s.partClusters p + s.clusters * 2 ^ 8 + p.dies.length * 2 ^ 16

/-- %pad (R303). -/
def Env.pad (e : Env) (l : Nat) : Nat :=
  match e.l.bucket with
  | none => 0
  | some b => (if e.l.pk.limit != 0 && e.l.pk.limit ≤ e.wid l then 1 else 0) + 2 * b + 16

/-- The context's partition. -/
def Env.part (e : Env) (s : State) : Part := (s.part? (e.x.key / 8)).getD ⟨0, [0], 50, 0⟩

/-- The value of a special register in a lane (R164). -/
def Env.special (e : Env) (s : State) (n l : Nat) : Nat :=
  let core := e.c.core
  let die := s.dieOf core
  let w := e.w
  match n with
  | 0 => e.wid l
  | 1 => l
  | 2 => w.widx
  | 3 => e.wg.wg.toNat
  | 4 => w.lmask.toNat
  | 5 => core
  | 6 => clusterOf core
  | 7 => die
  | 8 => s.rank
  | 9 => s.clk % 2 ^ 64
  | 10 => (e.part s).pdie die
  | 11 => s.ncl (e.part s)
  | 16 | 17 | 18 | 19 | 20 => s.cvReg die e.l.id w n
  | 21 | 22 | 23 => Tbl.get 0 e.x.mrg (4 * die + (n - 21)) % 2 ^ 64
  | 32 => w.trcause.toNat
  | 33 => w.tramask.toNat
  | 34 => w.trfmask.toNat
  | 35 => w.trpc.toNat
  | 36 => (Tbl.get 0 w.trpcv l).toNat
  | 37 => (Tbl.get 0 w.traddr l).toNat
  | 38 => w.trinfo.toNat
  | 40 | 41 | 42 | 43 => e.l.pk.shapes.getD (n - 40) 0
  | 44 => e.pad l
  | 48 => ((s.msgs.find? (fun m => m.ctx == e.x.key && m.cluster == clusterOf core)).map (fun m => m.stale.toNat)).getD 0
  | 49 => w.rngSeed.toNat
  | 128 => e.x.key % 8 + (if e.x.priv then 8 else 0)
  | 129 => e.x.mode.toNat
  | 130 => e.x.hand.toNat
  | 131 => e.x.save.toNat
  | 132 => e.x.stopa.toNat
  | 133 => e.x.pool.toNat
  | _ => 0

/-- The privilege trap (R306, R310): opcode and special-register number.
Log entry 24 (DEDUCED). -/
def Env.privilege (e : Env) (opc num : Nat) : Stop := .trap ⟨2, e.c.mask, opc + num * 256, []⟩

/-- SRD's refusals (R163).
Log entry 24 (DEDUCED). -/
def Env.srdCheck (e : Env) (o : OpSRd) (n : Nat) : Except Stop SpecInfo :=
  let sd : Bool := match o.d with
    | .s _ => true
    | .v _ => false
  let user := 128 ≤ n && !e.x.priv
  match specInfo n with
  | none => .error (if !user then e.ill n else if o.hi && o.ty == .n64 then e.ill 3 else e.privilege 0x45 n)
  | some i =>
    if o.hi && (o.ty == .n64 || !i.wide) then .error (e.ill 3)
    else if sd && i.perLane then .error (e.ill 4)
    else if user then .error (e.privilege 0x45 n)
    else .ok i

/-- SRD (R163). -/
def opSrd (o : OpSRd) : Op := fun e s =>
  let n := o.x.toNat
  aluOp (fun e w => do
    e.only [.n32, .n64] o.ty
    let wd := if o.ty == .n64 then 64 else 32
    let us := [o.d.use (regsOf wd)]
    e.aligned us
    let _ ← e.srdCheck o n
    e.need us
    .ok (putDst o.d wd (e.g o.g) (fun l =>
      let v := e.special s n l
      if wd = 64 then v else if o.hi then v / 2 ^ 32 else v % 2 ^ 32) w)) e s

/-- The type of a writable special register: 32 or 64 bits (R165, R309).
Log entry 86 (DESIGN CHOICE). -/
def swrWidth (n : Nat) : Option Nat :=
  match n with
  | 49 | 129 | 133 => some 32
  | 36 | 130 | 131 | 132 => some 64
  | _ => none

/-- A value that a context setting refuses (R309, R310). -/
def settingBad (n v : Nat) : Bool :=
  match n with
  | 129 => 16 ≤ v
  | 130 => v % 8 != 0
  | 131 => v % 2 ^ 12 != 0
  | 132 => v % 2 ^ 16 != 0
  | 133 => 2 ^ 16 ≤ v
  | _ => false

/-- Write a context setting by its number (R309). -/
def Ctx.setting (x : Ctx) (n v : Nat) : Ctx :=
  match n with
  | 129 => { x with mode := BitVec.ofNat 32 v }
  | 130 => { x with hand := BitVec.ofNat 64 v }
  | 131 => { x with save := BitVec.ofNat 64 v }
  | 132 => { x with stopa := BitVec.ofNat 64 v }
  | 133 => { x with pool := BitVec.ofNat 32 v }
  | _ => x

/-- A write of %trpcv in one lane: a changed entry redirects its thread, which then repeats nothing (R43, R44). -/
def Warp.redirect (w : Warp) (l : Nat) (v : DWord) : Warp :=
  if Tbl.get 0 w.trpcv l = v then w
  else { w with trpcv := Tbl.set 0 w.trpcv l v, arrSaved := w.arrSaved &&& ~~~(BitVec.ofNat 32 (2 ^ l)) }

/-- SWR's refusals (R165, R310).
Log entries 24 (DEDUCED), 86 (DESIGN CHOICE). -/
def Env.swrCheck (e : Env) (o : OpSWr) (n : Nat) : Except Stop Nat :=
  let user := 128 ≤ n && !e.x.priv
  match specInfo n with
  | none => if user then .error (e.privilege 0x46 n) else .error (e.ill n)
  | some _ =>
    match swrWidth n with
    | none => if user then .error (e.privilege 0x46 n) else .error (e.ill 43)
    | some wd =>
      if o.ty != (if wd = 64 then .n64 else .n32) then .error (e.ill 10)
      else if n = 36 && !e.w.inHandler then .error (e.ill 43)
      else if user then .error (e.privilege 0x46 n)
      else .ok wd

/-- SWR (R165). -/
def opSwr (o : OpSWr) : Op := fun e s =>
  let n := o.x.toNat
  let g := e.g o.g
  match (do
      e.only [.n32, .n64] o.ty
      let us := [o.a.use (if o.ty == .n64 then 2 else 1) 35]
      e.aligned us
      let wd ← e.swrCheck o n
      e.need us
      let v := e.w.elem o.a wd (lowest g)
      e.refuseIf (g != 0 && settingBad n v) 43
      pure (wd, v) : Except Stop (Nat × Nat)) with
  | .error st => st.res
  | .ok (wd, v) =>
    if g = 0 then .ok s
    else if n = 36 then
      .ok (e.upd s (overLanes g (fun l w => w.redirect l (BitVec.ofNat 64 (e.w.elem o.a wd l)))))
    else if n = 49 then
      let seed := BitVec.ofNat 32 v
      .ok (e.upd s (fun w => overLanes w.lmask (fun l w => { w with rng := Tbl.set 0 w.rng l (seedState seed (e.wid l)) })
        { w with rngSeed := seed }))
    else .ok (s.modCtx e.x.key (fun x => x.setting n v))

/-! ## The meanings -/

def execSrd (o : OpSRd) (s : State) : Out := performOp (opSrd o) s
def execSwr (o : OpSWr) (s : State) : Out := performOp (opSwr o) s

end Sys2Proof.Machine
end

