-- ==== Sys2Proof/Machine/Control.lean ====
section
/-!
DEFINITION. Machine/Control.lean: branches, calls and returns, WSYNC, EXIT, traps and RFE, the barriers, the dependences and
the engine programs of the control class (R193 to R216), but for LAUNCH.
-/

namespace Sys2Proof.Machine

/-! ## Branches, calls and returns (R196 to R198) -/

/-- The same target for the lanes of a mask. -/
def allTo (g : LaneMask) (t : DWord) : Tbl DWord := (lanesOf g).foldl (fun m l => Tbl.put m l t) []

/-- PC + 8 × OFFW, the offset signed (R136). -/
def Env.target (e : Env) (offw : BitVec 32) : DWord := e.c.pc + BitVec.ofInt 64 (8 * offw.toInt)

/-- BRA (R196). -/
def opBra (o : OpBra) : Op := fun e s => .jump s (allTo (e.g o.g) (e.target o.offw))

/-- CALL (R197). -/
def opCall (o : OpCall) : Op := checked [useD o.d 2] fun e s =>
  .jump (e.upd s (overLanes (e.g o.g) (fun l w => w.setV64 o.d.toNat l (e.c.pc + 8))))
    (allTo (e.g o.g) (e.target o.offw))

/-- RET (R197). -/
def opRet (o : OpRet) : Op := checked [o.a.use 2 35] fun e s =>
  .jump s ((lanesOf (e.g o.g)).foldl (fun t l => Tbl.put t l (e.w.src64 o.a l)) [])

/-- BRX (R198). -/
def opBrx (o : OpBrx) : Op := fun e s =>
  match (do
      let r ← e.record o.rk.toNat
      e.refuseIf (r.fmt != .i32 && r.fmt != .n64) r.num
      e.need [o.a.use 1 35]
      pure r : Except Stop Rec) with
  | .error st => st.res
  | .ok r =>
    let ls := lanesOf (e.g o.g)
    let sz := r.fmt.bits / 8
    let bad := ls.filter (fun l => r.extOf 0 ≤ (e.w.src o.a l).toNat)
    if !bad.isEmpty then
      .trap ⟨6, maskOf bad, r.num, laneAddrs (bad.map (fun l => (l, (e.w.src o.a l).toNat)))⟩
    else
      match e.plan s r .read 0 sz (ls.map (fun l => (l, (((e.w.src o.a l).toNat * sz : Nat) : Int)))) with
      | .error st => st.res
      | .ok ps =>
        match e.loadLanes s ps true r.cpol .relaxed .none with
        | .error st => st.res
        | .ok (t, out) =>
          let dest := fun (bs : List Byte) =>
            if r.fmt == .i32 then e.c.pc + BitVec.ofInt 64 (8 * signedOf 32 (leNat bs)) else BitVec.ofNat 64 (leNat bs)
          e.reading s false (planChunks ps) (e.g o.g) (.jump t (out.foldl (fun t p => Tbl.put t p.1 (dest p.2)) []))

/-! ## WSYNC and EXIT (R199 to R201) -/

/-- The thread of lane `l` waits at a WSYNC that can release it. -/
def Warp.wsyncFree (w : Warp) (l : Nat) : Bool :=
  match w.wait l with
  | .wsync m => (lanesOf (w.live &&& m)).all (fun k => match w.wait k with
    | .wsync _ => w.pc k == w.pc l
    | _ => false)
  | _ => false

/-- Every live thread waits in WSYNC and none can be released (R200). -/
def Warp.stuck (w : Warp) : Bool :=
  w.live != 0 && (lanesOf w.live).all (fun l => match w.wait l with
    | .wsync _ => !w.wsyncFree l
    | _ => false)

/-- The convergence trap of a stuck warp (R200). -/
def Env.stuckTrap (e : Env) (s : State) (w : Warp) : State :=
  let ls := lanesOf w.live
  let x := (ls.map (fun l => (w.pc l).toNat)).foldl min (2 ^ 64)
  let at' := maskOf (ls.filter (fun l => (w.pc l).toNat == x))
  let e' : Env := { e with c := { e.c with pc := BitVec.ofNat 64 x, mask := at' } }
  e'.takeTrap s ⟨3, at', (w.live &&& ~~~at').toNat, []⟩

/-- End the word, with the trap of R200 if it leaves its warp stuck. -/
def Env.unlessStuck (e : Env) (s : State) (r : Res) : Res :=
  let after := e.finish s r
  match after.warp? e.c.core e.c.slot with
  | some w => if w.stuck then .final (e.stuckTrap after w) else r
  | none => r

/-- Put lanes into a wait. -/
def Warp.waitIn (w : Warp) (ls : List Nat) (f : Nat → Wait) : Warp :=
  { w with waits := ls.foldl (fun t l => Tbl.set .ready t l (f l)) w.waits }

/-- WSYNC (R199). -/
def opWsync (o : OpWsync) : Op := fun e s =>
  let us : List Use := match o.m with
    | some i => [useS i 1 35]
    | none => []
  match e.uses us with
  | some st => st.res
  | none =>
    let m : LaneMask := match o.m with
      | some i => e.w.s i.toNat
      | none => 0xFFFFFFFF
    let g := e.g o.g
    if g = 0 then .ok s
    else e.unlessStuck s (.wait (e.upd s (fun w => w.waitIn (lanesOf g) (fun _ => .wsync m))) g)

/-- EXIT (R201, R39). -/
def opExit (o : OpZ) : Op := fun e s =>
  let g := e.g o.g
  if g = 0 then .ok s
  else
    match s.warp? e.c.core e.c.slot with
    | none => .ok s
    | some w =>
      if w.bankCount != 0 then .trap ⟨9, g, w.bankCount, []⟩
      else
        let lastOfWarp : Bool := w.live &&& ~~~g == 0
        let wg := (s.wg? w.wg).getD e.wg
        if lastOfWarp && wg.exitedWarps + 1 == wg.warps && s.wgBusy wg then .hold s
        else
          let s := (e.upd s (fun w => { w with exited := w.exited ||| g })).leaveBarriers wg w.widx (lanesOf g)
          if lastOfWarp then .ok (s.retireWarp e.c.core e.c.slot ((s.wg? w.wg).getD wg))
          else e.unlessStuck s (.ok s)

/-! ## NOP, PAUSE, traps and return (R202 to R204) -/

/-- NOP (R202). -/
def opNop (_o : OpZ) : Op := fun _ s => .ok s

/-- PAUSE: the demotion ends 64 cycles after the retirement (R28). -/
def opPause (o : OpZ) : Op := oncePerWarp o.g fun e s =>
  .ok (e.upd s (fun w => { w with demoted := some (s.clk + 64) }))

/-- TRAP (R203). -/
def opTrap (o : OpK) : Op := oncePerWarp o.g fun e _ => .trapAfter ⟨13, e.g o.g, o.n.toNat, []⟩

/-- BKPT (R203). -/
def opBkpt (o : OpK) : Op := oncePerWarp o.g fun e _ => .trapAfter ⟨12, e.g o.g, o.n.toNat, []⟩

/-- RFE (R204). -/
def opRfe (o : OpZ) : Op := fun e s =>
  if !e.w.inHandler then (e.ill 0).res
  else
    let absent := e.w.live &&& ~~~e.c.mask
    let off := e.w.live &&& ~~~e.g o.g
    if absent != 0 then .trap ⟨3, e.c.mask, absent.toNat, []⟩
    else if off != 0 then .trap ⟨3, e.c.mask, off.toNat, []⟩
    else .placed (e.upd s Warp.leaveHandler)

/-! ## Barriers (R205 to R209) -/

/-- The explicit count of BSYNC and BARV (R206): none for the default, or REASON 0 outside 1 to 1,024. -/
def Env.count (e : Env) (cnt : Option SReg) : Except Stop (Option Nat) :=
  match cnt with
  | none => .ok none
  | some i =>
    let n := (e.w.s i.toNat).toNat % 2 ^ 11
    if n = 0 || 1024 < n then .error (e.ill 27) else .ok (some n)

/-- The register uses of a barrier word. -/
def useBar (b : BarReg) (cnt : Option SReg) : List Use :=
  .b b.toNat :: (match cnt with
    | some i => [useS i 1 27]
    | none => [])

/-- The checks of BSYNC and BARV: the registers, and the count where some lane arrives. -/
def Env.barCount (e : Env) (g : LaneMask) (cnt : Option SReg) (us : List Use) : Except Stop (Option Nat) := do
  e.valued us ((cnt.map (fun i => useS i 1 27)).toList) (if g = 0 then pure () else (e.count cnt).map (fun _ => ()))
  if g = 0 then pure none else e.count cnt

/-- The lanes of a mask whose arrival is still to be made (R43). -/
def Env.fresh (e : Env) (g : LaneMask) : List Nat := lanesOf (g &&& ~~~e.w.arrived)

/-- Record the phases of arrivals. -/
def Warp.arrivedIn (w : Warp) (ps : List (Nat × Word)) : Warp :=
  ps.foldl (fun (w : Warp) p => { w with arrived := w.arrived ||| BitVec.ofNat 32 (2 ^ p.1), phases := Tbl.set 0 w.phases p.1 p.2 }) w

/-- BSYNC (R207); its arrival is a release (R102). -/
def opBsync (o : OpBsync) : Op := fun e s =>
  let g := e.g o.g
  match e.barCount g o.cnt (useBar o.b o.cnt) with
  | .error st => st.res
  | .ok n =>
    if g = 0 then .ok s
    else
      let (t, ps) := s.arriveLanes e.wg.id e.w.widx o.b.toNat n (e.fresh g)
      e.releasing s true g (.wait (e.upd t (fun w =>
        let w := w.arrivedIn ps
        w.waitIn (lanesOf g) (fun l => .bsync o.b.toNat (Tbl.get 0 w.phases l)))) g)

/-- BARV (R207); its arrival is a release (R102). -/
def opBarv (o : OpBarv) : Op := fun e s =>
  let us := (match o.d with
    | some d => [useD d 1]
    | none => []) ++ useBar o.b o.cnt
  let g := e.g o.g
  match e.barCount g o.cnt us with
  | .error st => st.res
  | .ok n =>
    if g = 0 then .ok s
    else
      let (t, ps) := s.arriveLanes e.wg.id e.w.widx o.b.toNat n (lanesOf g)
      e.releasing s true g (match o.d with
        | some d => .ok (e.upd t (fun w => ps.foldl (fun w p => w.setV d.toNat p.1 p.2) w))
        | none => .ok t)

/-- BWAIT (R207). -/
def opBwait (o : OpBwait) : Op := checked [.b o.b.toNat, o.ph.use 1 27] fun e s =>
  let g := e.g o.g
  if g = 0 then .ok s
  else .wait (e.upd s (fun w => w.waitIn (lanesOf g) (fun l => .bwait o.b.toNat (e.w.src o.ph l)))) g

/-- BEXPECT (R208). -/
def opBexpect (o : OpBexpect) : Op := checked [.b o.b.toNat, useS o.n 1 27] (oncePerWarp o.g fun e s =>
  .ok (s.modBar e.wg.id o.b.toNat (fun b => b.addBal (e.w.s o.n.toNat) (!s.wgEvicted e.wg.id))))

/-- CBAR (R209); its arrival is a release (R102). -/
def opCbar (o : OpCbar) : Op := fun e s =>
  let g := e.g o.g
  let ls := lanesOf g
  if g = 0 then .ok s
  else
    match o.mode.toNat with
    | 0 =>
      let (t, ps) := s.cbarArrive e.wg e.w.widx (e.fresh g)
      e.releasing s true g (.wait (e.upd t (fun w =>
        let w := w.arrivedIn ps
        w.waitIn ls (fun l => .cbar (Tbl.get 0 w.phases l)))) g)
    | 1 =>
      let (t, ps) := s.cbarArrive e.wg e.w.widx ls
      e.releasing s true g (.ok (e.upd t (fun w => ps.foldl (fun (w : Warp) p =>
        { w with cbarRec := w.cbarRec ||| BitVec.ofNat 32 (2 ^ p.1), cbarPh := Tbl.set 0 w.cbarPh p.1 p.2 }) w)))
    | _ =>
      let new := e.fresh g
      if new.any (fun l => !e.w.cbarRec.getLsbD l) then (e.ill 3).res
      else
        .wait (e.upd s (fun w =>
          let w := w.arrivedIn (new.map (fun l => (l, Tbl.get 0 w.cbarPh l)))
          { w with cbarRec := w.cbarRec &&& ~~~maskOf new }.waitIn ls (fun l => .cbar (Tbl.get 0 w.phases l)))) g

/-! ## Dependences and engine programs (R211 to R216) -/

/-- HINTNEXT (R211). -/
def opHintnext (o : OpZ) : Op := oncePerWarp o.g fun e s =>
  if e.wg.hinted then .ok s
  else .ok ((s.modWg e.wg.id (fun g => { g with hinted := true })).modLaunch e.l.id
    (fun l => { l with hints := l.hints + 1 }))

/-- WAITPRED (R212). -/
def opWaitpred (o : OpZ) : Op := oncePerWarp o.g fun e s =>
  .wait (e.upd s (fun w => w.waitIn (lanesOf (e.g o.g)) (fun _ => .waitpred))) (e.g o.g)

/-- RDV (R216). -/
def opRdv (o : OpZ) : Op := oncePerWarp o.g fun e s =>
  .wait (e.upd s (fun w => w.waitIn (lanesOf (e.g o.g)) (fun _ => .rdv))) (e.g o.g)

/-- The issuer of an engine command (R60, R261). -/
def Env.issuer (e : Env) (opc : Nat) : Issuer := ⟨e.wg.id, e.c.core, e.c.slot, e.c.pc, opc, none, e.x.key, e.l.seq, e.c.mode⟩

/-- FORK (R213): the sequencer takes the declared scalars, the shape and the bindings, and starts; while it runs another
program the entry stays. -/
def opFork (o : OpFork) : Op := fun e s =>
  if 10 ≤ o.q.toNat then (e.ill 43).res
  else if e.g o.g = 0 then .ok s
  else
    let mat : Bool := 8 ≤ o.q.toNat
    if s.seqrs.any (fun q => q.core == e.c.core && q.mat == mat) then .hold s
    else
      let (id, s) := s.fresh
      let m := e.l.pk.scal
      let snap := e.w.sregs.filter (fun (p : Nat × Word) => p.1 < m)
      let q : Seqr := { id := id, core := e.c.core, mat := mat, by' := e.issuer 0x73, pc := e.target o.offw, lmask := e.w.lmask, sregs := snap,
                        nsc := m, shape := e.w.shape, handles := e.w.handles, loops := [], cmds := [], bwait := none }
      .ok (e.upd { s with seqrs := s.seqrs ++ [q] } (fun w => { w with forks := w.forks ++ [id] }))

/-- LOOP in a warp (R214). -/
def opLoop (_o : OpLoop) : Op := fun e _ => (e.ill 0).res
/-- ENDL in a warp (R214). -/
def opEndl (_o : OpZ) : Op := fun e _ => (e.ill 0).res
/-- ENDP in a warp (R214). -/
def opEndp (_o : OpZ) : Op := fun e _ => (e.ill 0).res

/-! ## The end of a wait (R194, R199, R207, R209, R212, R216, R244, R250) -/

/-- The launch has completed, or counts as completed (R296). -/
def Launch.ended (l : Launch) : Bool :=
  match l.st with
  | .completed | .rejected _ => true
  | .queued | .discarded => false

/-- The predecessor of a launch has completed, or there is none (R295, R296). -/
def State.predDone (s : State) (l : Launch) : Bool :=
  match l.pred with
  | none => true
  | some q => s.launches.any (fun p => p.part == l.part && p.seq == q && p.ended)

/-- Everything a forked program did has ended. -/
def State.progDone (s : State) (id : Nat) : Bool :=
  let of := fun (i : Issuer) => i.prog == some id
  !s.seqrs.any (·.id == id) && !s.reelQ.any (fun c => of c.by') && !s.matQ.any (fun c => of c.by')
    && !s.cruQ.any (fun c => of c.by') && !s.ampQ.any (fun c => of c.by')

/-- The collective of a ticket counts as completed (R250). -/
def State.ticketDone (s : State) (x : Ctx) (t : Word) : Bool :=
  2 ^ 31 ≤ (x.ticket - t).toNat || s.doneTickets.contains (x.key, t)

/-- Whether a wait that has retired has ended, and whether its end is an acquire at .cl or wider, which empties the core's L1: of a
barrier's phase, if an engine arrived in it (Table 3 of the ordering chapter). -/
def State.waitOver (s : State) (g : Wg) (l : Launch) (w : Warp) (lane : Nat) : Bool × Bool :=
  match w.wait lane with
  | .wsync _ => (w.wsyncFree lane, false)
  | .bsync b p | .bwait b p => ((g.bar b).passed p, (g.bar b).engines.contains p)
  | .cbar p => ((s.cgOf g).any (fun c => c.bar.passed p), true)
  | .waitpred => (s.predDone l, true)
  | .rdv => (w.forks.all s.progDone, true)
  | .cqwait q t => ((BitVec.ofNat 32 (Tbl.get 0 g.done q) - t).toNat < 2 ^ 31, true)
  | .cwait t => ((s.ctx? l.ctx).any (fun x => s.ticketDone x t), true)
  | _ => (false, false)

/-- The context is halted on a die, or saved: its warps there dispatch nothing (R312, R316). -/
def State.haltedOn (s : State) (key die : Nat) : Bool :=
  (s.ctx? key).any (fun x => x.saved || x.halt.any (fun h => h.dies.contains die))

/-! ## What a thread dispatches next (R19, R22, R195) -/

/-- The control transfers. -/
def isTransfer : Instr → Bool
  | .bra _ | .brx _ | .call _ | .ret _ | .pairBraBr _ _ => true
  | _ => false

/-- After these, no younger word of the same threads is dispatched before retirement (of MOVRW, of the whole warp: R162). -/
def endsFlow : Instr → Bool
  | .wsync _ | .bsync _ | .bwait _ | .cbar _ | .waitpred _ | .rdv _ | .exit _ | .rfe _ | .trap _ | .bkpt _ | .cqwait _
  | .cwait _ | .movrw _ | .pairExitZ _ _ | .pairWsyncZ _ _ | .pairBsyncZb _ _ => true
  | _ => false

/-- A MOVRW, behind which its warp dispatches nothing (R162).
Log entry 22 (DEDUCED). -/
def RobEntry.blocks (r : RobEntry) : Bool :=
  match decode r.word with
  | .ok (.movrw _) => r.fault.isNone
  | _ => false

/-- Where a lane of an entry goes next, if that is known. -/
def RobEntry.after (r : RobEntry) (l : Nat) : Option DWord :=
  if r.fault.isSome then r.next.bind (fun t => Tbl.find? t l)
  else match decode r.word with
  | .error _ => none
  | .ok i =>
    if isTransfer i then r.next.bind (fun t => Tbl.find? t l)
    else if endsFlow i then none
    else some (r.pc + 8)

/-- The address that a thread would dispatch from. -/
def Warp.dispatchPc (w : Warp) (l : Nat) : Option DWord :=
  match (w.rob.filter (fun r => r.mask.getLsbD l)).getLast? with
  | none => some (w.pc l)
  | some r => r.after l

/-- The lanes that can dispatch, each with its address. -/
def Warp.ready (w : Warp) : List (Nat × DWord) :=
  if w.rob.any RobEntry.blocks then []
  else (lanesOf w.live).filterMap (fun l => if w.wait l == .ready then (w.dispatchPc l).map (fun p => (l, p)) else none)

/-! ## Waking -/

/-- The threads of a warp whose waits have ended become ready at the next word; a warp that was not ready becomes so (R27).
Log entry 20 (DEDUCED). -/
def State.wakeWarp (s : State) (key : Nat) (w : Warp) : State :=
  match s.wg? w.wg with
  | none => s
  | some g =>
    match s.launch? g.launch with
    | none => s
    | some l =>
      let ended := (lanesOf w.live).filterMap (fun i =>
        let (d, fl) := s.waitOver g l w i
        if d then some (i, fl) else none)
      if ended.isEmpty || s.haltedOn l.ctx (s.dieOf (key / 32)) then s
      else
        let ls := ended.map (·.1)
        let joined := ls.any (fun i => w.wait i == .rdv)
        let w' : Warp := { w.readied ls with
          pcs := ls.foldl (fun t i => Tbl.set 0 t i (w.pc i + 8)) w.pcs
          arrived := w.arrived &&& ~~~maskOf ls
          forks := if joined then [] else w.forks }
        let s := { s with warps := Tbl.put s.warps key w' }
        if ended.any (·.2) then s.l1Flush (key / 32) else s

/-- Every wait that has ended ends. -/
def State.wakeAll (s : State) : State :=
  s.warps.foldl (fun s e => if e.2.waits.isEmpty then s else s.wakeWarp e.1 e.2) s

/-! ## The meanings -/

def execBra (o : OpBra) (s : State) : Out := performOp (opBra o) s
def execCall (o : OpCall) (s : State) : Out := performOp (opCall o) s
def execRet (o : OpRet) (s : State) : Out := performOp (opRet o) s
def execBrx (o : OpBrx) (s : State) : Out := performOp (opBrx o) s
def execWsync (o : OpWsync) (s : State) : Out := performOp (opWsync o) s
def execExit (o : OpZ) (s : State) : Out := performOp (opExit o) s
def execNop (_o : OpZ) (s : State) : Out := performOp (opNop _o) s
def execPause (o : OpZ) (s : State) : Out := performOp (opPause o) s
def execTrap (o : OpK) (s : State) : Out := performOp (opTrap o) s
def execBkpt (o : OpK) (s : State) : Out := performOp (opBkpt o) s
def execRfe (o : OpZ) (s : State) : Out := performOp (opRfe o) s
def execBsync (o : OpBsync) (s : State) : Out := performOp (opBsync o) s
def execBarv (o : OpBarv) (s : State) : Out := performOp (opBarv o) s
def execBwait (o : OpBwait) (s : State) : Out := performOp (opBwait o) s
def execBexpect (o : OpBexpect) (s : State) : Out := performOp (opBexpect o) s
def execCbar (o : OpCbar) (s : State) : Out := performOp (opCbar o) s
def execHintnext (o : OpZ) (s : State) : Out := performOp (opHintnext o) s
def execWaitpred (o : OpZ) (s : State) : Out := performOp (opWaitpred o) s
def execRdv (o : OpZ) (s : State) : Out := performOp (opRdv o) s
def execFork (o : OpFork) (s : State) : Out := performOp (opFork o) s
def execLoop (_o : OpLoop) (s : State) : Out := performOp (opLoop _o) s
def execEndl (_o : OpZ) (s : State) : Out := performOp (opEndl _o) s
def execEndp (_o : OpZ) (s : State) : Out := performOp (opEndp _o) s

end Sys2Proof.Machine
end

