-- ==== Sys2Proof/Machine/LoadStore.lean ====
section
/-!
DEFINITION. Machine/LoadStore.lean: loads, stores, full-empty accesses, atomics, fences and record moves (R218 to R235), and
the convoy loads and membership (R224, R245).
-/

namespace Sys2Proof.Machine

/-! ## Widths (R133, R134) -/

/-- The bytes of an access through a record, and whether it sign-extends. -/
def Env.memWidth (e : Env) (w : BitVec 2) (r : Rec) : Except Stop (Nat × Bool) :=
  match w.toNat with
  | 0 => .ok (4, false)
  | 1 => .ok (8, false)
  | 2 => .ok (16, false)
  | _ => if r.fmt.bits = 4 then .error (e.ill r.num) else .ok (r.fmt.bits / 8, r.fmt == .i8 || r.fmt == .i16)

/-- The bytes of a scratchpad access, and whether it sign-extends. -/
def scrWidth (w : BitVec 2) (nw : BitVec 3) : Nat × Bool :=
  match w.toNat with
  | 0 => (4, false)
  | 1 => (8, false)
  | 2 => (16, false)
  | _ => (if nw.toNat < 2 then 1 else 2, nw.toNat % 2 == 1)

/-- The registers of `n` bytes. -/
def regsOfBytes (n : Nat) : Nat := if n ≤ 4 then 1 else n / 4

/-- The index register of an access. -/
def useIx (a : VReg) : Use := .v a.toNat 1 1 35

/-- The uses of a data register of `n` bytes and an index register. -/
def useMem (d a : VReg) (n : Nat) : List Use := [useD d (regsOfBytes n), useIx a]

/-- Write loaded bytes into a lane. -/
def Warp.load (w : Warp) (d : VReg) (l : Nat) (sg : Bool) (bs : List Byte) : Warp :=
  let n := bs.length
  let v := if sg then modW 32 (signedOf (8 * n) (leNat bs)) else leNat bs
  (List.range (regsOfBytes n)).foldl (fun w k => w.setV (d.toNat + k) l (BitVec.ofNat 32 (v / 2 ^ (32 * k)))) w

/-- The `n` bytes that a lane stores. -/
def Warp.storeData (w : Warp) (d : VReg) (n l : Nat) : List Byte :=
  leBytes n (packCodes 32 ((List.range (regsOfBytes n)).map (fun k => (w.v (d.toNat + k) l).toNat)))

/-- Write each lane's loaded bytes. -/
def Env.landLanes (e : Env) (s : State) (d : VReg) (sg : Bool) (out : List (Nat × List Byte)) : State :=
  e.upd s (fun w => out.foldl (fun w p => w.load d p.1 sg p.2) w)

/-! ## Loads and stores through records (R222, R223) -/

/-- LD (R222). -/
def opLd (o : OpMem) : Op := fun e s =>
  match (do
      let r ← e.record o.rk.toNat
      let (n, sg) ← e.memWidth o.w r
      let offs := e.offsets (lanesOf (e.g o.g)) o.a o.off.toInt
      e.judged s r .read n offs (useMem o.d o.a n) [useIx o.a]
      let ps ← e.plan s r .read 0 n offs
      let (t, out) ← e.loadLanes s ps true r.cpol o.ord o.scp
      pure (e.reading s false (planChunks ps) (e.g o.g) (.ok (e.landLanes t o.d sg out))) : Except Stop Res) with
  | .error st => st.res
  | .ok r => r

/-- Perform the stores of a plan; a release, or a store to an SO page, follows the threads' contributions (R95, R98), and one to an SO
page waits for its permits, which the die's earlier writes have given back (R343). -/
def Env.stored (e : Env) (s : State) (ps : List (Nat × LaneAcc)) (data : Nat → List Byte) (ord : Ord) (scp : Scope)
    (g : LaneMask) : Res :=
  let cs := planChunks ps
  let die := s.dieOf e.c.core
  if anySo cs && !(s.drainDie die).permits e.c.core die true true cs then .hold s
  else e.releasing s (ord == .rel || anySo cs) g (.ok (e.storeLanes s ps data ord scp))

/-- ST (R222). -/
def opSt (o : OpMem) : Op := fun e s =>
  match (do
      let r ← e.record o.rk.toNat
      let (n, _) ← e.memWidth o.w r
      let offs := e.offsets (lanesOf (e.g o.g)) o.a o.off.toInt
      e.judged s r .write n offs (useMem o.d o.a n) [useIx o.a]
      let ps ← e.plan s r .write 1 n offs
      pure (e.stored s ps (fun l => e.w.storeData o.d n l) o.ord o.scp (e.g o.g)) : Except Stop Res) with
  | .error st => st.res
  | .ok r => r

/-- The refusal of a tile access whose lanes do not form one aligned block (R223). -/
def Env.tileShape (e : Env) (r : Rec) (n : Nat) (offs : List (Nat × Int)) : Except Stop Unit :=
  let a0 := match offs with
    | p :: _ => r.addr p.2
    | [] => 0
  let bad := (offs.filter (fun p => r.addr p.2 != (a0 + p.1 * n) % 2 ^ 64)).map (·.1)
  let bad := if a0 % (32 * n) = 0 then bad else lowest e.w.lmask :: bad
  match bad with
  | [] => .ok ()
  | l :: ls => .error (e.ill (ls.foldl min l))

/-- LDW (R223). -/
def opLdw (o : OpMem) : Op := collectively o.g fun e s =>
  match (do
      let r ← e.record o.rk.toNat
      let (n, sg) ← e.memWidth o.w r
      let offs := e.offsets (lanesOf e.w.lmask) o.a o.off.toInt
      e.judged s r .read n offs (useMem o.d o.a n) [useIx o.a] (there := e.tileShape r n offs)
      let ps ← e.plan s r .read 0 n offs
      let (t, out) ← e.loadLanes s ps true r.cpol o.ord o.scp
      pure (e.reading s false (planChunks ps) e.c.mask (.ok (e.landLanes t o.d sg out))) : Except Stop Res) with
  | .error st => st.res
  | .ok r => r

/-- STW (R223). -/
def opStw (o : OpMem) : Op := collectively o.g fun e s =>
  match (do
      let r ← e.record o.rk.toNat
      let (n, _) ← e.memWidth o.w r
      let offs := e.offsets (lanesOf e.w.lmask) o.a o.off.toInt
      e.judged s r .write n offs (useMem o.d o.a n) [useIx o.a] (there := e.tileShape r n offs)
      let ps ← e.plan s r .write 1 n offs
      pure (e.stored s ps (fun l => e.w.storeData o.d n l) o.ord o.scp e.c.mask) : Except Stop Res) with
  | .error st => st.res
  | .ok r => r

/-! ## Scratchpad (R225 to R228) -/

/-- The lanes' workgroup addresses, or a refusal. -/
def Env.scrLanes (e : Env) (g : LaneMask) (d a : VReg) (n : Nat) (off : Int) : Except Stop (List (Nat × Nat)) :=
  match e.uses (useMem d a n) with
  | some st => .error st
  | none =>
    let offs := e.offsets (lanesOf g) a off
    match scrBad e.l.pk.scr n offs with
    | some st => .error st
    | none => .ok (offs.map (fun p => (p.1, p.2.toNat)))

/-- Read each lane's bytes of the workgroup's scratchpad. -/
def Env.scrLoad (e : Env) (s : State) (n : Nat) (ps : List (Nat × Nat)) : List (Nat × List Byte) :=
  ps.map (fun p => (p.1, s.scrBytes e.c.core (e.wg.scrBase + p.2) n))

/-- Note the access of each lane's bytes (R74). -/
def Env.scrTouch (e : Env) (s : State) (n : Nat) (ps : List (Nat × Nat)) : State :=
  ps.foldl (fun s p => s.touch e.c.core (e.wg.scrBase + p.2) n) s

/-- Write each lane's bytes in ascending lane order (R73). -/
def State.scrStore (s : State) (g : Wg) (ps : List (Nat × Nat)) (data : Nat → List Byte) : State :=
  ps.foldl (fun s p => s.scrWrite g.core (g.scrBase + p.2) (data p.1)) s

/-- Set the bits of the granules that the lanes wrote (R50). -/
def State.scrFill (s : State) (g : Wg) (n : Nat) (ps : List (Nat × Nat)) : State :=
  ps.foldl (fun s p => s.feSet g.core (granules (g.scrBase + p.2) n) true) s

/-- A scoped scratchpad acquire beyond the workgroup empties the L1 (R101).
Log entry 15 (DEDUCED). -/
def Env.acquire (e : Env) (s : State) (yes : Bool) (scp : Scope) : State :=
  if yes && scp.wide then s.l1Flush e.c.core else s

/-- A release beyond the die waits for the die's writes (R96, R98).
Log entry 17 (DEDUCED). -/
def Env.release (e : Env) (s : State) (yes : Bool) (scp : Scope) : State :=
  if yes && scp.beyondDie then s.drainDie (s.dieOf e.c.core) else s

/-- LDS (R225). -/
def opLds (o : OpSpad) : Op := fun e s =>
  let (n, sg) := scrWidth o.w o.nw
  match e.scrLanes (e.g o.g) o.d o.a n o.off.toInt with
  | .error st => st.res
  | .ok ps =>
    let s := e.scrTouch (e.acquire s (o.ord == .acq) o.scp) n ps
    .ok (e.landLanes s o.d sg (e.scrLoad s n ps))

/-- STS (R225). -/
def opSts (o : OpSpad) : Op := fun e s =>
  let (n, _) := scrWidth o.w o.nw
  match e.scrLanes (e.g o.g) o.d o.a n o.off.toInt with
  | .error st => st.res
  | .ok ps => e.releasing s (o.ord == .rel) (e.g o.g) (.ok (State.scrStore s e.wg ps (fun l => e.w.storeData o.d n l)))

/-- LDFE (R226, R51): while a granule is empty its threads wait and the entry stays; LDFE.c takes no bit until all are full.
Log entry 74 (DESIGN CHOICE). -/
def opLdfe (o : OpSpad) : Op := fun e s =>
  let (n, sg) := scrWidth o.w o.nw
  match e.scrLanes (e.g o.g) o.d o.a n o.off.toInt with
  | .error st => st.res
  | .ok ps =>
    let need := ps.map (fun p => (p.1, (granules (e.wg.scrBase + p.2) n).filter (fun g => !s.feGet e.c.core g)))
    let held := need.filter (fun p => !p.2.isEmpty)
    if !held.isEmpty then
      .hold (e.upd s (fun w => { w with waits := held.foldl (fun t p => Tbl.put t p.1 (.ldfe p.2)) w.waits }))
    else
      let out := e.scrLoad s n ps
      let s := e.scrTouch (if ps.isEmpty then s else s.l1Flush e.c.core) n ps
      let s := if o.ord == .na then ps.foldl (fun s p => s.feSet e.c.core (granules (e.wg.scrBase + p.2) n) false) s else s
      .ok (e.landLanes s o.d sg out)

/-- STF (R226); the bits it sets are a release (R102). -/
def opStf (o : OpSpad) : Op := fun e s =>
  let (n, _) := scrWidth o.w o.nw
  match e.scrLanes (e.g o.g) o.d o.a n o.off.toInt with
  | .error st => st.res
  | .ok ps =>
    e.releasing s true (e.g o.g) (.ok (State.scrFill (State.scrStore s e.wg ps (fun l => e.w.storeData o.d n l)) e.wg n ps))

/-- FEINIT (R227); its bounds trap gives its address in every lane of %trfmask (R48, R306).
Log entry 31 (DEDUCED). -/
def opFeinit (o : OpFeinit) : Op := fun e s =>
  let us : List Use := match o.a with
    | some i => [useS i 1 35]
    | none => []
  let a := match o.a with
    | some i => (e.w.s i.toNat).toNat
    | none => 0
  let n := o.cnt.toNat
  let idle := e.g o.g = 0 || n = 0
  match e.valued us us (e.refuseIf (!idle && a % 16 != 0) 35) with
  | .error st => st.res
  | .ok _ =>
    if idle then .ok s
    else
      let lo := a + 16 * o.addr.toNat
      if e.l.pk.scr < lo + 16 * n then .trap ⟨5, e.c.mask, 2 ^ 31, allAt e.c.mask lo⟩
      else .ok (s.feSet e.c.core ((List.range n).map (· + (e.wg.scrBase + lo) / 16)) false)

/-- The workgroups of the cluster-group that a mask names. -/
def State.named (s : State) (g : Wg) (mask : Nat) : List Wg :=
  (List.range 8).filterMap (fun r =>
    if bit mask r then s.wgs.find? (fun x => x.launch == g.launch && x.cg == g.cg && x.rank == r) else none)

/-- A rank in the mask has no created workgroup. A workgroup that has been freed was created. -/
def Launch.badRanks (l : Launch) (cg mask : Nat) : Bool :=
  let per := 2 ^ (l.pk.bnd l.pk.clLev - l.pk.bnd l.pk.wgLev)
  (List.range 8).any (fun r => bit mask r && !(r < per && cg * per + r < l.wgCount))

/-- The multicast trap of a mask (R67, R306), if any.
Log entry 31 (DEDUCED). -/
def Env.maskTrap (e : Env) (mask : Nat) : Option Stop :=
  if mask = 0 then some (.trap ⟨7, e.c.mask, 256, []⟩)
  else if e.l.badRanks e.wg.cg mask then some (.trap ⟨7, e.c.mask, mask % 256, []⟩)
  else none

/-- CMCAST (R228); the bits it sets are a release (R102). -/
def opCmcast (o : OpCmcast) : Op := fun e s =>
  let (n, _) := scrWidth o.w o.nw
  match e.scrLanes (e.g o.g) o.d o.a n o.off.toInt with
  | .error st => st.res
  | .ok ps =>
    if e.g o.g = 0 then .ok s
    else
      match e.maskTrap o.mask.toNat with
      | some st => st.res
      | none =>
        e.releasing s true (e.g o.g) (.ok ((s.named e.wg o.mask.toNat).foldl (fun s g =>
          State.scrFill (State.scrStore s g ps (fun l => e.w.storeData o.d n l)) g n ps) s))

/-! ## Atomics (R229 to R233) -/

/-- The types of an atomic: bytes, signedness, and whether it is a float. -/
def atomType : Fmt → Option (Nat × Bool × Bool)
  | .i32 => some (4, true, false)
  | .n32 => some (4, false, false)
  | .i64 => some (8, true, false)
  | .n64 => some (8, false, false)
  | .f32 => some (4, false, true)
  | .f64 => some (8, false, true)
  | _ => none

/-- AT (R134). -/
def atFmt (c : Nat) : Fmt :=
  match c with
  | 0 => .n32
  | 1 => .i32
  | 2 => .f32
  | 3 => .n64
  | 4 => .i64
  | _ => .f64

/-- The new value of an atomic (R229). -/
def atomNew (ty : Fmt) (aop old b : Nat) : Nat :=
  match atomType ty with
  | none => old
  | some (n, sg, fl) =>
    let wd := 8 * n
    let f := if ty == .f64 then specF64 else specF32
    match aop with
    | 0 => if fl then floatStep f false 0 old b else (old + b) % 2 ^ wd
    | 1 => if fl then floatStep f false 1 old b else if readInt sg wd old ≤ readInt sg wd b then old else b
    | 2 => if fl then floatStep f false 2 old b else if readInt sg wd old ≤ readInt sg wd b then b else old
    | 3 => Nat.land old b
    | 4 => Nat.lor old b
    | 5 => Nat.xor old b
    | _ => b

/-- The refused types of an atomic (R229), and the element's bytes. -/
def Env.atomSize (e : Env) (o : OpAtom) (ty : Fmt) (num : Nat) : Except Stop Nat :=
  match atomType ty with
  | none => .error (e.ill num)
  | some (n, _, fl) => if fl && 3 ≤ o.aop.toNat && o.aop.toNat ≤ 5 then .error (e.ill num) else .ok n

/-- The registers of an atomic on elements of `n` bytes. -/
def atomUses (o : OpAtom) (n : Nat) : List Use :=
  [useD o.d (regsOfBytes n), useIx o.a, .v o.b.toNat (regsOfBytes n) (regsOfBytes n) 24]

/-- The trap of misaligned lanes (R229).
Log entry 66 (DEDUCED). -/
def misTrap (info n : Nat) (ads : List (Nat × Nat)) : Except Stop Unit :=
  let bad := ads.filter (fun p => p.2 % n != 0)
  if bad.isEmpty then .ok () else .error (.trap ⟨1, maskOf (bad.map (·.1)), info, laneAddrs bad⟩)

/-- A plan for an atomic, whose misaligned lanes are refused before the lanes that are out of bounds or absent (R229, R307).
Log entry 66 (DEDUCED). -/
def Env.atomPlan (e : Env) (s : State) (r : Rec) (n : Nat) (offs : List (Nat × Int)) (us : List Use) (a : VReg)
    (here : Except Stop Unit := .ok ()) : Except Stop (List (Nat × LaneAcc)) := do
  e.judged s r .write n offs us [useIx a] here (misTrap r.num n (offs.map (fun p => (p.1, r.addr p.2))))
  e.plan s r .write 1 n offs

/-- One lane's read-modify-write at its home: the state and the old value.
Log entry 19 (DEDUCED). -/
def State.rmw (s : State) (die core : Nat) (cs : List Chunk) (ask : RmwReq) (new : Nat → Nat) : State × Nat :=
  match cs with
  | c :: _ =>
    let (s, bs) := s.homeRead die c
    (s.homeWrite die (some core) c (leBytes bs.length (new (leNat bs))) core (some ask), leNat bs)
  | [] => (s, 0)

/-- The ordering effects of an atomic: a release before it and an acquire with it (R98, R229). -/
def Env.ordered (e : Env) (s : State) (ord : Ord) (scp : Scope) (so : Bool) : State :=
  let s := e.release s (ord == .rel || ord == .ar || so) (if so then .sys else scp)
  e.acquire s (ord == .acq || ord == .ar || so) (if so then .sys else scp)

/-- ATOM and CAS: every lane of g in ascending order. -/
def atomRecord (cas : Bool) (o : OpAtom) : Op := fun e s =>
  match (do
      let r ← e.record o.sel.toNat
      let n ← e.atomSize o r.fmt r.num
      let ps ← e.atomPlan s r n (e.offsets (lanesOf (e.g o.g)) o.a o.off.toInt) (atomUses o n) o.a
      let cs := planChunks ps
      match s.checkReads cs with
      | .error h => .error (.halt { h with lmask := maskOf (ps.map (·.1)) })
      | .ok t =>
        let t := e.ordered t o.ord o.scp (anySo cs)
        let die := t.dieOf e.c.core
        let wd := 8 * n
        let t := ps.foldl (fun s p =>
          match p.2 with
          | .fill bs => e.upd s (fun w => w.setElem o.d wd p.1 (leNat bs))
          | .go cs =>
            let b := e.w.elem (.v o.b) wd p.1
            let cmp := e.w.elem (.v o.d) wd p.1
            let ask : RmwReq := if cas then ⟨r.fmt.code, 7, leBytes n cmp ++ leBytes n b⟩ else ⟨r.fmt.code, o.aop.toNat, leBytes n b⟩
            let (s, old) := (s.keepAll (e.who s p.1) cs).rmw die e.c.core cs ask (fun old =>
              if cas then (if old = cmp then b else old) else atomNew r.fmt o.aop.toNat old b)
            e.upd s (fun w => w.setElem o.d wd p.1 old)) t
        pure (e.releasing s (o.ord.releases || anySo cs) (e.g o.g) (e.reading s true cs (e.g o.g) (.ok t))) : Except Stop Res) with
  | .error st => st.res
  | .ok r => r

/-- ATOMS and CASS. -/
def atomScratch (cas : Bool) (o : OpAtom) : Op := fun e s =>
  let ty := atFmt o.sel.toNat
  match (do
      let n ← e.atomSize o ty o.sel.toNat
      let offs := e.offsets (lanesOf (e.g o.g)) o.a o.off.toInt
      e.valued (atomUses o n) [useIx o.a] (misTrap (2 ^ 27) n (offs.map (fun p => (p.1, modW 64 p.2))))
      match scrBad e.l.pk.scr n offs with
      | some st => .error st
      | none =>
        let wd := 8 * n
        let t := offs.foldl (fun s p =>
          let a := e.wg.scrBase + p.2.toNat
          let old := leNat (s.scrBytes e.c.core a n)
          let b := e.w.elem (.v o.b) wd p.1
          let cmp := e.w.elem (.v o.d) wd p.1
          let new := if cas then (if old = cmp then b else old) else atomNew ty o.aop.toNat old b
          e.upd (s.scrWrite e.c.core a (leBytes n new)) (fun w => w.setElem o.d wd p.1 old)) (e.ordered s o.ord o.scp false)
        pure (e.releasing s o.ord.releases (e.g o.g) (.ok t)) : Except Stop Res) with
  | .error st => st.res
  | .ok r => r

/-- ATOM (R229).
Log entry 66 (DEDUCED). -/
def opAtom (o : OpAtom) : Op := atomRecord false o
/-- CAS (R230). -/
def opCas (o : OpAtom) : Op := atomRecord true o
/-- ATOMS (R229). -/
def opAtoms (o : OpAtom) : Op := atomScratch false o
/-- CASS (R230). -/
def opCass (o : OpAtom) : Op := atomScratch true o

/-- A place as one number, so that a location's open sequence has one key (R232). -/
def placeKey : Place → Nat × Option Nat
  | .dram pa mir _ => (pa, mir)
  | .host p a _ => ((1 + p) * 2 ^ 80 + a, none)
  | .peer r x va _ => ((4 + peerKey r x) * 2 ^ 80 + va, none)

/-- The refusals of ATOMO's key and count: n = 0 whatever the guard (R144, R231), and a key at or above n in a lane of g. -/
def Env.atomoKeys (e : Env) (o : OpAtomo) : Except Stop Unit := do
  let n := (e.w.s o.sk.toNat).toNat
  e.refuseIf (n = 0) 14
  match (lanesOf (e.g o.g)).find? (fun l => n ≤ (e.w.v o.b.toNat l).toNat) with
  | some l => .error (e.ill l)
  | none => pure ()

/-- Send one lane's contribution to its home slice. -/
def Env.contribute (e : Env) (s : State) (o : OpAtomo) (r : Rec) (n : Nat) (so : Bool) (lane : Nat) (c : Chunk) : State :=
  let (id, s) := (s.keep (e.who s lane) c).fresh
  let (pa, mir) := placeKey c.pl
  { s with contribs := s.contribs ++ [{
      id := id, by' := e.issuer 0x8B, lane := lane, die := s.dieOf e.c.core, pa := pa, va := c.va, fmt := r.fmt
      key := (e.w.v o.b.toNat lane).toNat, n := (e.w.s o.sk.toNat).toNat, val := e.w.elem (.v o.d) (8 * n) lane
      waiting := false, mir := mir, widx := e.w.widx, so := so }] }

/-- ATOMO: each lane sends one contribution (R231). The misaligned lanes are judged with the other REASON 0 conditions, after
the context faults of any lane (R307).
Log entry 66 (DEDUCED). -/
def opAtomo (o : OpAtomo) : Op := fun e s =>
  match (do
      let r ← e.record o.rk.toNat
      match atomType r.fmt with
      | none => .error (e.ill r.num)
      | some (n, _, _) =>
        let g := e.g o.g
        let keys : List Use := [.v o.b.toNat 1 1 24, useS o.sk 1 14]
        let offs := e.offsets (lanesOf g) o.a 0
        let ps ← e.atomPlan s r n offs ([useD o.d (regsOfBytes n), useIx o.a] ++ keys) o.a
          (if (e.uses keys).isNone then e.atomoKeys o else .ok ())
        let so := anySo (planChunks ps)
        let rel := o.ord.releases || so
        let t := e.release s rel (if so then .sys else o.scp)
        let t := ps.foldl (fun s p => match p.2 with
          | .fill _ | .go [] => s
          | .go (c :: _) => e.contribute s o r n so p.1 c) t
        pure (e.releasing s rel g (.ok t)) : Except Stop Res) with
  | .error st => st.res
  | .ok r => r

/-! ## Fences and records (R234, R235) -/

/-- FENCE (R234): KIND 0 .acq, 1 .rel, 2 .ar, 3 .sc.
Log entry 17 (DEDUCED). -/
def opFence (o : OpFence) : Op := oncePerWarp o.g fun e s =>
  .ok (e.acquire (e.release s (o.kind != 0) o.scp) (o.kind != 1) o.scp)

/-- The address, plan and record of RECLD and RECST; the access is the lowest lane's.
Log entry 31 (DEDUCED). -/
def Env.recPlan (e : Env) (s : State) (o : OpRec) (need : Need) (use : Nat) : Except Stop (Rec × List (Nat × LaneAcc)) := do
  let r ← e.record o.rk.toNat
  let src : List Use := match o.a with
    | some i => [useS i 1 35]
    | none => []
  let g := e.g o.g
  let off : Int := (match o.a with
    | some i => ((e.w.s i.toNat).toNat : Int)
    | none => 0) + o.off.toInt
  let offs := if g = 0 then [] else [(lowest g, off)]
  e.judged s r need 32 offs ([.s (8 * o.d.toNat) 8 1 43] ++ src) src
    (there := e.refuseIf (g != 0 && r.addr off % 32 != 0) r.num)
  let ps ← e.plan s r need use 32 offs
  pure (r, ps)

/-- RECLD (R235). -/
def opRecld (o : OpRec) : Op := fun e s =>
  match (do
      let (r, ps) ← e.recPlan s o .read 0
      let (t, out) ← e.loadLanes s ps true r.cpol o.ord o.scp
      pure (e.reading s false (planChunks ps) (e.g o.g) (.ok (match out with
        | (_, bs) :: _ =>
          e.upd t (fun w => (List.range 8).foldl (fun w j =>
            w.setS (8 * o.d.toNat + j) (BitVec.ofNat 32 (leNat ((bs.drop (4 * j)).take 4)))) w)
        | [] => t))) : Except Stop Res) with
  | .error st => st.res
  | .ok r => r

/-- RECST (R235). -/
def opRecst (o : OpRec) : Op := fun e s =>
  match e.recPlan s o .write 1 with
  | .error st => st.res
  | .ok (_, ps) =>
    e.stored s ps (fun _ => leBytes 32 (wordsAt e.w.s (8 * o.d.toNat) 8)) o.ord o.scp (e.g o.g)

/-! ## Convoys (R82, R83, R224, R245) -/

/-- A declaration index that the launch does not have is REASON 0 (R245). -/
def Env.declared (e : Env) (d : Nat) : Except Stop Unit := e.refuseIf (e.l.convoys.length ≤ d) d

/-- CVJOIN (R82, R245). -/
def opCvjoin (o : OpCvjoin) : Op := fun e s =>
  match e.declared o.k.toNat with
  | .error st => st.res
  | .ok _ =>
    let g := e.g o.g
    if g = 0 then .ok s
    else
      let die := s.dieOf e.c.core
      let (ok, a, first) := s.cvJoin die e.l.id o.k.toNat e.w
      let s := e.upd s (fun w => overLanes g (fun l w => w.setP o.d.toNat l ok) { w with assoc := a })
      if first then
        .ok (s.modConvoy die e.l.id o.k.toNat (fun c =>
          { c with joins := c.joins + 1, counted := c.counted ++ [32 * e.w.wg + e.w.widx] }))
      else .ok s

/-- CVLEAVE (R83, R245). -/
def opCvleave (o : OpK) : Op := fun e s =>
  match e.declared o.n.toNat with
  | .error st => st.res
  | .ok _ =>
    if e.g o.g = 0 then .ok s
    else .ok (e.upd s (fun w => match w.assoc with
      | some a => if a.decl = o.n.toNat then { w with assoc := none } else w
      | none => w))

/-- CVLD (R84, R224). -/
def opCvld (o : OpMem) : Op := fun e s =>
  match (do
      let r ← e.record o.rk.toNat
      let (n, sg) ← e.memWidth o.w r
      e.judged s r .read n (e.offsets (lanesOf (e.g o.g)) o.a o.off.toInt) (useMem o.d o.a n) [useIx o.a]
      pure (r, n, sg) : Except Stop (Rec × Nat × Bool)) with
  | .error st => st.res
  | .ok (r, n, sg) =>
    let g := e.g o.g
    let die := s.dieOf e.c.core
    if g = 0 then .ok s
    else if !e.w.cvPass && !s.cvMayRead die e.l.id e.w r.base then
      .hold (e.upd s (fun w => { w with waits := (lanesOf e.c.mask).foldl (fun t l =>
        match Tbl.find? t l with
        | some (.cvld _) => t
        | _ => Tbl.put t l (.cvld s.clk)) w.waits }))
    else
      match (do
          let ps ← e.plan s r .read 0 n (e.offsets (lanesOf g) o.a o.off.toInt)
          let (t, out) ← e.loadLanes s ps false r.cpol .relaxed .none
          pure (e.reading s false (planChunks ps) g (.ok (e.upd (e.landLanes t o.d sg out)
            (fun w => { w with assoc := t.cvAdvance die e.l.id w r.base })))) : Except Stop Res) with
      | .error st => st.res
      | .ok r => r

/-! ## The meanings -/

def execLd (o : OpMem) (s : State) : Out := performOp (opLd o) s
def execSt (o : OpMem) (s : State) : Out := performOp (opSt o) s
def execLdw (o : OpMem) (s : State) : Out := performOp (opLdw o) s
def execStw (o : OpMem) (s : State) : Out := performOp (opStw o) s
def execLds (o : OpSpad) (s : State) : Out := performOp (opLds o) s
def execSts (o : OpSpad) (s : State) : Out := performOp (opSts o) s
def execLdfe (o : OpSpad) (s : State) : Out := performOp (opLdfe o) s
def execStf (o : OpSpad) (s : State) : Out := performOp (opStf o) s
def execFeinit (o : OpFeinit) (s : State) : Out := performOp (opFeinit o) s
def execCmcast (o : OpCmcast) (s : State) : Out := performOp (opCmcast o) s
def execAtom (o : OpAtom) (s : State) : Out := performOp (opAtom o) s
def execCas (o : OpAtom) (s : State) : Out := performOp (opCas o) s
def execAtoms (o : OpAtom) (s : State) : Out := performOp (opAtoms o) s
def execCass (o : OpAtom) (s : State) : Out := performOp (opCass o) s
def execAtomo (o : OpAtomo) (s : State) : Out := performOp (opAtomo o) s
def execFence (o : OpFence) (s : State) : Out := performOp (opFence o) s
def execRecld (o : OpRec) (s : State) : Out := performOp (opRecld o) s
def execRecst (o : OpRec) (s : State) : Out := performOp (opRecst o) s
def execCvjoin (o : OpCvjoin) (s : State) : Out := performOp (opCvjoin o) s
def execCvleave (o : OpK) (s : State) : Out := performOp (opCvleave o) s
def execCvld (o : OpMem) (s : State) : Out := performOp (opCvld o) s

end Sys2Proof.Machine
end

