-- ==== Sys2Proof/Machine/Migrate.lean ====
section
/-!
DEFINITION. Machine/Migrate.lean: promotion of pages (R330, R331), shoot-downs (R332 to R335), and MIGRQ and TINV
(R236, R237).
-/

namespace Sys2Proof.Machine


/-! ## Frame pools (R330, R382) -/

/-- The frames of 128 KiB that a page of `size` bytes takes: the first free run that starts at a multiple of the size.
Log entry 33 (DESIGN CHOICE). -/
def Pool.take (p : Pool) (size : Nat) : Option (Nat × Pool) :=
  let n := size / 2 ^ 17
  let free := fun i => (p.base + i * 2 ^ 17) % size == 0 && i + n ≤ p.frames &&
    (List.range n).all (fun j => !p.used.contains (i + j))
  match (List.range p.frames).find? free with
  | some i => some (p.base + i * 2 ^ 17, { p with used := p.used ++ (List.range n).map (· + i) })
  | none => none

/-- Give back the frames of a page at `frame`; frames that lie outside the pool as it now stands are the driver's.
Log entry 33 (DESIGN CHOICE). -/
def Pool.give (p : Pool) (frame size : Nat) : Pool :=
  { p with used := p.used.filter (fun j =>
      !(frame ≤ p.base + j * 2 ^ 17 && p.base + j * 2 ^ 17 < frame + size)) }

/-- A pool of a context's die; a context whose pool was never set has an empty one. -/
def Ctx.pool' (x : Ctx) (die : Nat) : Pool := (Tbl.find? x.pools die).getD ⟨0, 0, []⟩

/-- Give a migration's frames back to its pool. -/
def State.giveFrame (s : State) (m : Migration) : State :=
  s.modCtx m.ctx (fun x => { x with pools := Tbl.put x.pools m.die ((x.pool' m.die).give m.frame m.size) })

/-! ## Migrations (R330) -/

/-- The state of a page as MIGRQ reports it (R236). -/
inductive PageState
  | resident
  | absent (l : Leaf)
  | failed
  | refused
  deriving DecidableEq, Repr

/-- Walk an address for residency. -/
def State.pageState (s : State) (x : Ctx) (va : Nat) : PageState :=
  match s.walk x ((s.part? (x.key / 8)).getD ⟨0, [0], 50, 0⟩) va with
  | none => .refused
  | some l => if leafF l.e then .failed else if leafP l.e then .resident else .absent l

/-- The migration that covers an address of a context. -/
def State.migOf (s : State) (ctx va : Nat) : Option Migration :=
  s.migs.find? (fun m => m.ctx == ctx && m.va ≤ va && va < m.va + m.size)

/-- Request the migration of an absent page: it joins one that runs, or takes a frame; the flag is false when the pool has
none. -/
def State.migrate (s : State) (x : Ctx) (va : Nat) (l : Leaf) : State × Bool :=
  match s.migOf x.key va with
  | some _ => (s, true)
  | none =>
    let die := leafHdie l.e
    match (x.pool' die).take l.size with
    | none => (s, false)
    | some (fr, pool) =>
      let (id, s) := s.fresh
      let m : Migration := { id := id, ctx := x.key, die := die, va := va - va % l.size, leafPa := l.at', size := l.size,
                             src := leafHport l.e * 2 ^ 64 + leafPfn l.e, frame := fr, piece := 0, retried := false,
                             anyRetry := false }
      ({ s.modCtx x.key (fun x => { x with pools := Tbl.put x.pools die pool }) with migs := s.migs ++ [m] }, true)

/-- One step of the reflected CRC-64. -/
def crcBit (c : Nat) : Nat := if c % 2 = 1 then Nat.xor (c / 2) 0xC96C5795D7870F42 else c / 2

/-- CRC-64/XZ of some bytes. -/
def crc64 (bs : List Byte) : Nat :=
  Nat.xor (bs.foldl (fun c b => (List.range 8).foldl (fun c _ => crcBit c) (Nat.xor c b.toNat)) (2 ^ 64 - 1)) (2 ^ 64 - 1)

/-- The leaf of a migrated page: PFN, P = 1, HOST = 0. -/
def Migration.leaf (m : Migration) (e : Nat) : Nat :=
  e - fld e 17 35 * 2 ^ 17 + m.frame - (if leafHost e then 2 ^ 9 else 0) + (if leafP e then 0 else 4)

/-- The leaf that a migration serves, as it stands. -/
def State.migLeaf (s : State) (m : Migration) : Nat := readLe s.mem m.leafPa 8

/-- Write a page-table entry at its home. -/
def State.putEntry (s : State) (pa e : Nat) : State := s.writeHome (pa / 2 ^ 37 % 4) pa none (leBytes 8 e)

/-- One 4 KiB piece: copied if its CRC matches its tag, copied again once, else the page fails. `damaged` says that the
copy arrived changed. -/
def State.migPiece (s : State) (m : Migration) (damaged : Bool) : State :=
  let bs := readBytes s.hostMem (m.src + 4096 * m.piece) 4096
  let tag := readLe s.hostMem (m.src + m.size + 8 * m.piece) 8
  let set := fun (f : Migration → Migration) => { s with migs := updateWhere (·.id == m.id) f s.migs }
  if !damaged && crc64 bs == tag then
    let p := ((s.ctx? m.ctx).bind (fun x => s.part? (x.key / 8))).getD ⟨0, [0], 50, 0⟩
    let (pa, mir) := homeOf p (m.leaf (s.migLeaf m)) m.size (m.va + 4096 * m.piece)
    let s := set (fun m => { m with piece := m.piece + 1, retried := false })
    s.writeHome (pa / 2 ^ 37 % 4) pa mir bs
  else if !m.retried then set (fun m => { m with retried := true, anyRetry := true })
  else
    let s := { s.giveFrame m with migs := s.migs.filter (·.id != m.id) }
    let e := s.migLeaf m
    s.putEntry m.leafPa (if leafF e then e else e + 2 ^ 8)

/-- Every piece has matched: the leaf becomes resident. Whether this promotion needed a retry replaces what an earlier one of the
page left. -/
def State.migDone (s : State) (m : Migration) : State :=
  let s := { s with migs := s.migs.filter (·.id != m.id),
                    migRetry := s.migRetry.filter (· != (m.ctx, m.va)) ++ (if m.anyRetry then [(m.ctx, m.va)] else []) }
  s.putEntry m.leafPa (m.leaf (s.migLeaf m))

/-! ## Shoot-downs (R331 to R335) -/

/-- A page number lies in a shoot-down's range; numbers are taken modulo 2^40. -/
def inRange (lo hi vpn : Nat) : Bool := (vpn + 2 ^ 40 - lo % 2 ^ 40) % 2 ^ 40 < hi - lo

/-- A shoot-down that covers an address runs: what waits for its page walks the entry when that has completed (R331). -/
def State.shooting (s : State) (ctx va : Nat) : Bool :=
  s.shoots.any (fun d => d.ctx == ctx && !d.done && inRange d.lo d.hi (fld va 17 40))

/-- The range of a shoot-down, rounded outward to 128 KiB. -/
def sdRange (va len : Nat) : Nat × Nat :=
  let lo := va / 2 ^ 17
  let hi := ceilDiv (va + len) (2 ^ 17)
  (lo % 2 ^ 40, lo % 2 ^ 40 + (hi - lo))

/-- The span in tree order for an initiator (R332). -/
def spanOrder (span : List Nat) (initiator : Nat) : List Nat :=
  let up := (List.range 8192).filter span.contains
  up.filter (initiator ≤ ·) ++ up.filter (· < initiator)

/-- The children of a package in the tree. -/
def spanKids (order : List Nat) (rank : Nat) : List Nat :=
  match order.findIdx? (· == rank) with
  | some i => ([2 * i + 1, 2 * i + 2].filterMap (fun j => order[j]?))
  | none => []

/-- The packages below one in the tree. -/
def spanBelow (order : List Nat) (rank : Nat) : List Nat :=
  (List.range 13).foldl (fun acc _ => acc ++ (acc.flatMap (spanKids order)).filter (fun r => !acc.contains r)) (spanKids order rank)

/-- The parent of a package in the tree. -/
def spanParent (order : List Nat) (rank : Nat) : Option Nat :=
  match order.findIdx? (· == rank) with
  | some 0 | none => none
  | some i => order[(i - 1) / 2]?

/-- The die of index 0 of a context's partition. -/
def State.headDie (s : State) (ctx : Nat) : Nat := ((s.part? (ctx / 8)).bind (·.dies.head?)).getD 0

/-- Send an invalidation to some packages, from the die of index 0. -/
def State.sendShoot (s : State) (sd : Shootdown) (ranks : List Nat) : State :=
  ranks.foldl (fun s r => s.tilic (s.headDie sd.ctx) r (.shoot r sd.root sd.ctx sd.lo sd.hi)) s

/-- Start a shoot-down on this package for an initiating rank and context `by'`, as package `parent` has sent it. The package passes it on to its
children in the tree, unless another than its parent sent it, which reaches them itself (R334). -/
def State.startShoot (s : State) (by' ctx initiator parent va len : Nat) (host : Bool) : Nat × State :=
  let (id, s) := s.fresh
  let (lo, hi) := sdRange va len
  let order := spanOrder (((s.ctx? ctx).map (·.span)).getD []) initiator
  let kids := if initiator == s.rank || spanParent order s.rank == some parent then spanKids order s.rank else []
  let sd : Shootdown := { id := id, root := initiator, by' := by', ctx := ctx, lo := lo, hi := hi, host := host, parent := parent, swept := [],
                          kids := kids, started := s.now (s.headDie ctx), fenced := false, halted := false, done := false,
                          marks := [] }
  (id, { s with shoots := s.shoots ++ [sd] }.sendShoot sd kids)

/-- The die that a cached translation serves. -/
def State.cacheDie (s : State) (t : TEntry) : Nat :=
  if t.level = 2 then t.owner else if t.level = 1 then s.dieOf t.owner else s.dieOf (t.owner / 1024)

/-- A die sweeps its translations of a range and performs the context's accesses made through old ones; a migration of the
range whose home is the die is cancelled (R331, R333). -/
def State.sweep (s : State) (sd : Shootdown) (die : Nat) : State :=
  let p := (s.part? (sd.ctx / 8)).getD ⟨0, [0], 50, 0⟩
  let s := s.drain (fun w => w.die == die && w.ctx == sd.ctx)
  let hit := fun (m : Migration) => m.ctx == sd.ctx && p.dies.getD m.die 0 == die &&
    (List.range (m.size / 2 ^ 17)).any (fun i => inRange sd.lo sd.hi (fld m.va 17 40 + i))
  let s := (s.migs.filter hit).foldl State.giveFrame s
  { s with
    tcache := s.tcache.filter (fun t => !(t.ctx == sd.ctx && inRange sd.lo sd.hi t.vpn && s.cacheDie t == die))
    migs := s.migs.filter (fun m => !hit m)
    shoots := updateWhere (·.id == sd.id) (fun d =>
      { d with swept := d.swept ++ [die], marks := Tbl.put d.marks die s.nextId }) s.shoots }

/-- A contribution of the context that a die sent through an old translation of the range has not been performed (R333, item 2). -/
def State.oldContrib (s : State) (sd : Shootdown) (die : Nat) : Bool :=
  s.contribs.any (fun c => c.by'.ctx == sd.ctx && c.die == die && inRange sd.lo sd.hi (fld c.va 17 40)
    && c.id < Tbl.get 0 sd.marks die)

/-- Every die of the package and every child has acknowledged. -/
def State.shootReady (s : State) (sd : Shootdown) : Bool :=
  let p := (s.part? (sd.ctx / 8)).getD ⟨0, [0], 50, 0⟩
  sd.kids.isEmpty && p.dies.all (fun d => sd.swept.contains (4 + d))

/-! ## MIGRQ and TINV -/

/-- An address lies in some lease range of a context: a standing range, or a range of one of its launches (R236). -/
def State.inLease (s : State) (x : Ctx) (va : Nat) : Bool :=
  let vpn := fld va 17 40
  canonicalVa va && (x.standing.any (fun (e : Nat × Lease) => e.2.covers vpn)
    || s.launches.any (fun l => l.ctx == x.key && l.st == .queued && l.leases.any (fun r => r.covers vpn)))

/-- One lane's request: the state and the code of Table R236. -/
def State.migrq (s : State) (x : Ctx) (va : Nat) : State × Nat :=
  if !s.inLease x va then (s, 3)
  else
    match s.pageState x va with
    | .resident => (s, 0)
    | .failed => (s, 2)
    | .refused => (s, 3)
    | .absent l => ((s.migrate x va l).1, 1)

/-- MIGRQ (R236): `ctx` names the privileged form. -/
def opMigrq (o : OpMigrq) : Op := fun e s =>
  match (do
      let us := [useD o.d 1, o.a.use 2 35] ++ (match o.ctx with
        | some i => [useS i 1 27]
        | none => [])
      e.aligned us
      (if o.ctx.isSome && !e.x.priv then .error (e.privilege 0x90 0) else .ok ())
      e.need us : Except Stop Unit) with
  | .error st => st.res
  | .ok _ =>
    let key := match o.ctx with
      | some i => if (e.w.s i.toNat).toNat < 8 then some (e.x.key / 8 * 8 + (e.w.s i.toNat).toNat) else none
      | none => some e.x.key
    .ok ((lanesOf (e.g o.g)).foldl (fun s l =>
      let (s, d) := match key.bind s.ctx? with
        | some x => s.migrq x (e.w.src64 o.a l).toNat
        | none => (s, 3)
      e.upd s (fun w => w.setV o.d.toNat l (BitVec.ofNat 32 d))) s)

/-- The shoot-down that the warp waits for in TINV.
Log entry 64 (DEDUCED). -/
def Env.tinvOf (e : Env) (s : State) : Option Shootdown :=
  match e.w.wait (lowest e.c.mask) with
  | .tinv id => s.shoots.find? (·.id == id)
  | _ => none

/-- TINV (R237): it starts the shoot-down and retires when that completes.
Log entry 64 (DEDUCED). -/
def opTinv (o : OpTinv) : Op := fun e s =>
  match (do
      let us := [useS o.d 1 43, useS o.a 2 35, useS o.b 2 27, useS o.c 1 19]
      e.aligned us
      e.refuseIf (e.g o.g != 0 && 7 < (e.w.s o.c.toNat).toNat) 19
      (if e.x.priv then .ok () else .error (e.privilege 0x91 0))
      e.need us : Except Stop Unit) with
  | .error st => st.res
  | .ok _ =>
    let write := fun (s : State) (v : Word) => e.upd s (fun w => w.setS o.d.toNat v)
    if e.g o.g = 0 then .ok s
    else
      match e.tinvOf s with
      | some sd =>
        if sd.done then
          .ok ((write { s with shoots := s.shoots.filter (·.id != sd.id) } (if sd.fenced then 1 else 0)).l1Flush e.c.core)
        else .hold s
      | none =>
        let key := e.x.key / 8 * 8 + (e.w.s o.c.toNat).toNat
        let len := (e.w.s64 o.b.toNat).toNat
        if len = 0 || (s.ctx? key).isNone then .ok (write s 0)
        else
          let (id, s) := s.startShoot e.x.key key s.rank s.rank (e.w.s64 o.a.toNat).toNat len false
          .hold (e.upd s (fun w => w.waitIn (lanesOf e.c.mask) (fun _ => .tinv id)))

/-! ## The meanings -/

def execMigrq (o : OpMigrq) (s : State) : Out := performOp (opMigrq o) s
def execTinv (o : OpTinv) (s : State) : Out := performOp (opTinv o) s

end Sys2Proof.Machine
end

