-- ==== Sys2Proof/Machine/Reel.lean ====
section
/-!
DEFINITION. Machine/Reel.lean: the copy engine: its commands and their checks at issue (R60 to R72, R238 to R242), their
pieces and completion (R66, R69), QFENCE and CQWAIT (R243, R244).
-/

namespace Sys2Proof.Machine

/-! ## The box walk (R64, R65) -/

/-- A 4-bit format is walked in bytes of two elements. -/
def Rec.nib (r : Rec) : Bool := r.fmt.bits == 4
/-- The bytes of one unit of the walk. -/
def Rec.unit (r : Rec) : Nat := max 1 (r.fmt.bits / 8)
/-- The units of a row of `n` elements. -/
def Rec.row (r : Rec) (n : Nat) : Nat := if r.nib then n / 2 else n

/-- The units of a box. -/
def Rec.units (r : Rec) (size : List Nat) : Nat :=
  ((List.range 4).map (fun d => size.getD (d + 1) 1)).foldl (· * ·) (r.row (size.getD 0 1))

/-- The record indices of unit `n` of a box, dimension 0 fastest. -/
def Rec.at' (r : Rec) (org : List Int) (size : List Nat) (n : Nat) : List Int :=
  let n0 := r.row (size.getD 0 1)
  let j0 := n % n0 * (if r.nib then 2 else 1)
  let rest := (List.range 4).foldl (fun (acc : List Nat × Nat) d =>
    let m := size.getD (d + 1) 1
    (acc.1 ++ [acc.2 % m], acc.2 / m)) ([], n / n0)
  (j0 :: rest.1).zipIdx.map (fun p => org.getD p.2 0 + (p.1 : Int))

/-- The virtual address of an element (R55). -/
def Rec.va (r : Rec) (ix : List Int) : Nat :=
  r.addr (ix.getD 0 0 * (r.fmt.bits : Int) / 8
    + ((List.range 4).map (fun d => ix.getD (d + 1) 0 * (r.strOf (d + 1) : Int))).foldl (· + ·) 0)

/-- Which elements of a unit are in bounds: bit 0 the first, bit 1 the second of a 4-bit pair (R58). -/
def Rec.inside (r : Rec) (ix : List Int) : Nat :=
  let ok := fun (d : Nat) (i : Int) => 0 ≤ i && i < (r.extOf d : Int)
  let full := if r.nib then 3 else 1
  if r.bnd = 0 then full
  else if (List.range 4).all (fun d => ok (d + 1) (ix.getD (d + 1) 0)) then
    (if ok 0 (ix.getD 0 0) then 1 else 0) + (if r.nib && ok 0 (ix.getD 0 0 + 1) then 2 else 0)
  else 0

/-- Where the swizzle places a packed offset (R65). -/
def swizzle (swz q : Nat) : Nat :=
  Nat.xor q (Nat.land (q / 8) (match swz with
    | 1 => 0x10
    | 2 => 0x30
    | 3 => 0x70
    | _ => 0))

/-- The alignment of the scratchpad address under a swizzle. -/
def swizzleAlign (swz : Nat) : Nat :=
  match swz with
  | 1 => 256
  | 2 => 512
  | 3 => 1024
  | _ => 16

/-! ## Checks at issue (R63) -/

/-- The trap of an engine command: every lane of the group, and the address in its lowest lane.
Log entry 31 (DEDUCED). -/
def Env.engTrap (e : Env) (cause info va : Nat) : Stop := .trap ⟨cause, e.c.mask, info, [(lowest e.c.mask, BitVec.ofNat 64 va)]⟩

/-- An engine's access to the launch's memory. -/
def Env.eng (e : Env) (s : State) : Who := s.engineWho e.x e.l.leases (s.dieOf e.c.core) (some e.c.core)

/-- Translate every unit that a command touches: the context fault of some unit, else the page-absent trap of the first in walk
order; `soft` says that absent and failed pages are accepted (CPIDX). -/
def Env.reach (e : Env) (s : State) (need : Need) (r : Rec) (vas : List Nat) (n : Nat) (soft : Bool) : Except Stop Unit :=
  let denied := vas.filterMap (fun va => match s.recChunks (e.eng s) need r va n with
    | .ok _ => none
    | .error d => some (va, d))
  let hard := denied.filterMap (fun p => if p.2.1 == .absent || (soft && p.2.1 == .failed) then none
    else some (0, p.2.1.code, p.2.2))
  if !hard.isEmpty then .error (.halt { laneHalt hard with lmask := e.c.mask })
  else
    match denied with
    | (va, _) :: _ => if soft then .ok () else .error (e.engTrap 10 (r.num + 2 * 256) va)
    | [] => .ok ()

/-- The page of an address as the walk finds it now: its base, or the 128 KiB block of a peer or an unmapped address. -/
def Env.pageAt (e : Env) (s : State) (r : Rec) (va : Nat) : Nat :=
  let size := match r.peer? with
    | some _ => 2 ^ 17
    | none => match s.walk e.x (e.part s) va with
      | some l => l.size
      | none => 2 ^ 17
  va - va % size

/-- The walk numbers at which pieces begin, over `n` units of `u` bytes: where the walk crosses a page boundary of a memory side, and
otherwise after 4 KiB. `pages` gives, per memory side, the page of a unit that is accessed there. -/
def pieceCuts (n u : Nat) (pages : Nat → List (Option Nat)) : List Nat :=
  ((List.range n).foldl (fun (acc : List Nat × Nat × List (Option Nat)) i =>
    let (cuts, bytes, at') := acc
    let pg := pages i
    let cross := (List.zipWith (fun a b => match a, b with
      | some a, some b => a != b
      | _, _ => false) pg at').contains true
    let at' := pg.zipIdx.map (fun p => p.1.or (at'.getD p.2 none))
    if cuts.isEmpty || 4096 ≤ bytes || cross then (cuts ++ [i], u, at') else (cuts, bytes + u, at')) ([], 0, [])).1

/-- The geometry check of a box (R63, item 1): the descriptor's bit, if one offends. -/
def boxGeometry (r : Rec) (org : List Int) (size : List Nat) (saddr swz : Nat) : Option Nat :=
  match [(0, 192), (1, 208), (2, 224), (3, 240), (4, 248)].find? (fun (p : Nat × Nat) => size.getD p.1 1 == 0) with
  | some p => some p.2
  | none =>
    if r.nib && org.getD 0 0 % 2 != 0 then some 32
    else if r.nib && size.getD 0 1 % 2 != 0 then some 192
    else if saddr % 16 != 0 then some 0
    else if saddr % swizzleAlign swz != 0 then some 28
    else none

/-- Items 3 to 5 of R63 for a box, and its pieces.
Log entry 85 (DESIGN CHOICE). -/
def Env.boxReach (e : Env) (s : State) (need : Need) (r : Rec) (org : List Int) (size : List Nat) (saddr swz : Nat) :
    Except Stop (List Nat) := do
  let n := r.units size
  let u := r.unit
  let place := fun i => saddr + swizzle swz (i * u)
  let top := e.l.pk.scr
  (match (List.range n).find? (fun i => top < place i + u) with
    | some i => .error (e.engTrap 5 (2 ^ 31) (max (place i) top))
    | none => .ok ())
  let ix := r.at' org size
  let full := if r.nib then 3 else 1
  (match if r.bnd = 1 then (List.range n).find? (fun i => r.inside (ix i) != full) else none with
    | some i => .error (e.engTrap 5 r.num (r.va (ix i)))
    | none => .ok ())
  e.reach s need r (((List.range n).filter (fun i => r.inside (ix i) != 0)).map (fun i => r.va (ix i))) u false
  pure (pieceCuts n u (fun i => [if r.inside (ix i) = 0 then none else some (e.pageAt s r (r.va (ix i)))]))

/-! ## Queues (R60, R103) -/

/-- The places that a queue's commands take, the one being performed among them (R60).
Log entry 75 (DESIGN CHOICE). -/
def State.reelDepth (s : State) (core q : Nat) : Nat := (s.reelQ.filter (fun c => c.core == core && c.q == q)).length

/-- The commands that a new command of queue code `q` waits for: those of every QFENCE that names its queue. -/
def State.fenceOf (s : State) (core q : Nat) : List Nat :=
  (s.qfences.filter (fun f => f.core == core && bit f.mask q)).flatMap (·.pend)

/-- Count a command of a workgroup that has entered a queue (R244). -/
def State.countIn (s : State) (wg q : Nat) : State :=
  s.modWg wg (fun g => { g with entered := Tbl.set 0 g.entered q ((Tbl.get 0 g.entered q + 1) % 2 ^ 32) })

/-- A command of a workgroup has completed: it is counted (R61, R69), fences and programs that wait for it go on. -/
def State.countOut (s : State) (i : Issuer) (q id : Nat) : State :=
  let drop := fun (l : List Nat) => l.filter (· != id)
  let s := s.modWg i.wg (fun g => { g with done := Tbl.set 0 g.done q ((Tbl.get 0 g.done q + 1) % 2 ^ 32) })
  { s with
    qfences := (s.qfences.map (fun (f : QFence) => { f with pend := drop f.pend })).filter (fun f => !f.pend.isEmpty)
    reelQ := s.reelQ.map (fun (c : ReelCmd) => { c with after := drop c.after })
    matQ := s.matQ.map (fun (c : MatCmd) => { c with after := drop c.after })
    seqrs := s.seqrs.map (fun (p : Seqr) => { p with cmds := drop p.cmds }) }

/-- The units of a block (R70). -/
def Rec.blockUnits (r : Rec) : Nat := r.row (r.extOf 0)

/-- The parts of blocks in units `[a, b)` of the walk over the blocks of some lanes, each of `n` units. -/
def blockParts (lanes : List Nat) (n a b : Nat) : List (Nat × Nat × Nat) :=
  lanes.zipIdx.filterMap (fun p =>
    let lo := max a (p.2 * n)
    let hi := min b ((p.2 + 1) * n)
    if lo < hi then some (p.1, lo - p.2 * n, hi - p.2 * n) else none)

/-- The pieces of CPIDX in walk order: ascending lane, then ascending element. -/
def ReelOp.pieces (op : ReelOp) (cuts : List Nat) : List (List (Nat × Nat × Nat)) :=
  match op with
  | .idx r _ lanes _ _ _ =>
    let ls := lanesOf lanes
    cuts.zipIdx.map (fun p => blockParts ls r.blockUnits p.1 (cuts.getD (p.2 + 1) (ls.length * r.blockUnits)))
  | _ => []

/-- Enter a reel command (R60). -/
def State.enterReel (s : State) (i : Issuer) (core q : Nat) (op : ReelOp) (cuts : List Nat) : Nat × State :=
  let (id, s) := s.fresh
  let c : ReelCmd := { id := id, core := core, q := q, by' := i, op := op, cuts := cuts, started := false, piece := 0,
                       after := s.fenceOf core q, landed := [], walk := op.pieces cuts, deferred := [], status := [] }
  (id, { s with reelQ := s.reelQ ++ [c] }.countIn i.wg q)

/-- What a reel instruction captures: its queue, its command, its pieces, and a change of the state at issue. -/
structure ReelCap where
  q : Nat
  op : ReelOp
  cuts : List Nat
  pre : State → State := id

/-- A reel instruction in a warp: warp-collective, checked at issue, entered when it retires (R60, R62, R63). -/
def reelOp (g : Guard) (opc : Nat) (q : QCode) (cap : Env → State → Except Stop ReelCap) (qbit : Nat := 43) : Op := fun e s =>
  collectively g (fun e s =>
    if 8 ≤ q.toNat then (e.ill qbit).res
    else match cap e s with
      | .error st => st.res
      | .ok c =>
        if 16 ≤ s.reelDepth e.c.core c.q then .hold s
        else .ok ((c.pre s).enterReel (e.issuer opc) e.c.core c.q c.op c.cuts).2) e s

/-! ## CPBOX and CPSTB (R238 to R240) -/

/-- A box descriptor (Table 5 of the memory chapter). -/
structure BoxDesc where
  saddr : Nat
  mask : Nat
  swz : Nat
  org : List Int
  size : List Nat

/-- The fields of a descriptor. -/
def BoxDesc.of (d : Nat) : BoxDesc :=
  { saddr := fld d 0 20, mask := fld d 20 8, swz := fld d 28 2,
    org := (List.range 5).map (fun i => signedOf 32 (fld d (32 + 32 * i) 32)),
    size := [fld d 192 16, fld d 208 16, fld d 224 16, fld d 240 8, fld d 248 8] }

/-- Read the box descriptor; `mc` says that MASK may be set. -/
def Env.boxDesc (e : Env) (b : Nat) (mc : Bool) : Except Stop BoxDesc :=
  let d := wordsAt e.w.s b 8
  match firstSet d ((if mc then [] else (List.range 8).map (· + 20)) ++ [30, 31]) with
  | some k => .error (e.ill k)
  | none => .ok (BoxDesc.of d)

/-- The formats of Table 8. -/
def redFmt : Fmt → Bool
  | .f32 | .f16 | .bf16 | .i32 | .n32 | .i64 | .n64 => true
  | _ => false

/-- The R layouts. A pairing of operation and format that R68 refuses names field A, whose record holds the format.
Log entry 76 (DESIGN CHOICE). -/
def capBox (o : OpBox) (store : Bool) (e : Env) (s : State) : Except Stop ReelCap := do
  let bar : List Use := match o.bar with
    | some b => [.b b.toNat]
    | none => []
  let r ← e.record o.rk.toNat
  e.need (.s o.b.toNat 8 1 27 :: bar)
  let d ← e.boxDesc o.b.toNat (!store && o.mc)
  e.refuseIf (store && o.op != 0 && !redFmt r.fmt) 35
  (match boxGeometry r d.org d.size d.saddr d.swz with
    | some b => .error (e.ill b)
    | none => .ok ())
  (match if !store && o.mc then e.maskTrap d.mask else none with
    | some st => .error st
    | none => .ok ())
  let cuts ← e.boxReach s (if store then .write else .read) r d.org d.size d.saddr d.swz
  let bar := o.bar.map (·.toNat)
  pure { q := o.q.toNat, cuts := cuts,
         op := if store then .stb r d.saddr d.swz o.op.toNat d.org d.size bar else .box r d.saddr d.swz d.mask d.org d.size bar }

/-- The first extent of a record that the S layout cannot copy (R239): %trinfo's record and bit. -/
def wholeLimit (r : Rec) : Option Nat :=
  ([(0, 65535, r.num, 64), (1, 65535, r.num, 96), (2, 65535, r.num + 1, 0), (3, 255, r.num + 1, 32), (4, 255, r.num + 1, 64)].find?
    (fun (p : Nat × Nat × Nat × Nat) => p.2.1 < r.extOf p.1)).map (fun p => p.2.2.1 + p.2.2.2 * 256)

/-- The S layouts: the whole record. -/
def capWhole (o : OpBoxS) (store : Bool) (e : Env) (s : State) : Except Stop ReelCap := do
  let r ← e.record o.rk.toNat
  (match wholeLimit r with
    | some i => .error (e.ill i)
    | none => .ok ())
  let saddr := 16 * o.imm.toNat
  let org : List Int := [0, 0, 0, 0, 0]
  e.refuseIf (boxGeometry r org r.ext saddr 0).isSome (r.num + 64 * 256)
  let cuts ← e.boxReach s (if store then .write else .read) r org r.ext saddr 0
  pure { q := o.q.toNat, cuts := cuts,
         op := if store then .stb r saddr 0 0 org r.ext none else .box r saddr 0 0 org r.ext none }

/-- CPBOX (R239). -/
def opCpbox (o : OpBox) : Op := reelOp o.g 0xA0 o.q (capBox o false)
def opCpboxImm (o : OpBoxS) : Op := reelOp o.g 0xA0 o.q (capWhole o false)
/-- CPSTB (R240). -/
def opCpstb (o : OpBox) : Op := reelOp o.g 0xA1 o.q (capBox o true)
def opCpstbImm (o : OpBoxS) : Op := reelOp o.g 0xA1 o.q (capWhole o true)

/-! ## CPIDX (R70, R241) -/

/-- The bytes of one block, and the distance of two (R70). -/
def Rec.blockBytes (r : Rec) : Nat := r.extOf 0 * r.fmt.bits / 8
def Rec.blockPitch (r : Rec) : Nat :=
  let p := roundUp r.blockBytes 16
  if p % 256 = 0 then p + 16 else p

/-- The indices of a unit of a block. -/
def Rec.blockIx (r : Rec) (idx u : Nat) : List Int := [(u * (if r.nib then 2 else 1) : Nat), (idx : Int)]

/-- The checks of CPIDX once its addresses are known; `fb` is the word bit of the field that gives them. -/
def Env.idxCap (e : Env) (s : State) (q : Nat) (r : Rec) (idxs : List Nat) (blk list : Nat) (bar : Option Nat) (fb : Nat) :
    Except Stop ReelCap := do
  e.refuseIf (r.extOf 0 = 0 || (r.nib && r.extOf 0 % 2 != 0)) (r.num + 64 * 256)
  e.refuseIf (blk % 16 != 0 || list % 16 != 0) fb
  let ls := lanesOf e.w.lmask
  let p := r.blockPitch
  let top := e.l.pk.scr
  (match ls.find? (fun l => top < blk + l * p + r.blockBytes) with
    | some l => .error (e.engTrap 5 (2 ^ 31) (max (blk + l * p) top))
    | none => if top < list + 48 then .error (e.engTrap 5 (2 ^ 31) (max list top)) else .ok ())
  let bad := ls.filter (fun l => r.extOf 1 ≤ idxs.getD l 0)
  (if bad.isEmpty then .ok ()
    else .error (.trap ⟨8, maskOf bad, r.num, laneAddrs (bad.map (fun l => (l, idxs.getD l 0)))⟩))
  let n := r.blockUnits
  e.reach s .read r (ls.flatMap (fun l => (List.range n).map (fun u => r.va (r.blockIx (idxs.getD l 0) u)))) r.unit true
  let cuts := pieceCuts (ls.length * n) r.unit (fun k =>
    [some (e.pageAt s r (r.va (r.blockIx (idxs.getD (ls.getD (k / n) 0) 0) (k % n))))])
  pure { q := q, cuts := cuts, op := .idx r idxs e.w.lmask blk list bar,
         pre := fun s => s.scrWrite e.c.core (e.wg.scrBase + list) (List.replicate 32 0xFF) }

def capIdx (o : OpIdx) (e : Env) (s : State) : Except Stop ReelCap := do
  let r ← e.record o.rk.toNat
  e.need [o.b.use 1 27, useS o.c 2 19]
  let c0 := (e.w.s o.c.toNat).toNat
  let c1 := (e.w.s (o.c.toNat + 1)).toNat
  let bcode := fld c1 20 7
  e.refuseIf (fld c0 20 12 != 0 || fld c1 27 5 != 0 || 97 ≤ bcode) 19
  e.need (if bcode = 0 then [] else [.b (bcode - 1)])
  e.idxCap s o.q.toNat r ((List.range 32).map (fun l => (e.w.src o.b l).toNat)) (fld c0 0 20) (fld c1 0 20)
    (if bcode = 0 then none else some (bcode - 1)) 19

def capIdxS (o : OpIdxS) (e : Env) (s : State) : Except Stop ReelCap := do
  let r ← e.record o.rk.toNat
  e.need [useD o.d 1]
  let blk := 16 * o.imm.toNat
  e.idxCap s o.q.toNat r ((List.range 32).map (fun l => (e.w.v o.d.toNat l).toNat)) blk (blk + 32 * r.blockPitch) none 19

/-- CPIDX (R241). -/
def opCpidx (o : OpIdx) : Op := reelOp o.g 0xA2 o.q (capIdx o)
def opCpidxImm (o : OpIdxS) : Op := reelOp o.g 0xA2 o.q (capIdxS o) 3

/-! ## CPSS and CPFILL (R242) -/

/-- The range checks of CPSS and CPFILL, and their pieces. -/
def Env.range (e : Env) (addr len : Nat) (mask : Option Nat) : Except Stop (List Nat) := do
  e.refuseIf (addr % 16 != 0 || len % 16 != 0 || len = 0) 35
  (match mask.bind e.maskTrap with
    | some st => .error st
    | none => .ok ())
  (if e.l.pk.scr < addr + len then .error (e.engTrap 5 (2 ^ 31) (max addr e.l.pk.scr)) else .ok ())
  pure ((List.range (ceilDiv len 4096)).map (4096 * ·))

def capSs (o : OpSs) (e : Env) (_ : State) : Except Stop ReelCap := do
  e.need ([useS o.a 2 35, useS o.b 1 27] ++ (match o.bar with
    | some b => [.b b.toNat]
    | none => []))
  let mask := (e.w.s o.b.toNat).toNat
  e.refuseIf (256 ≤ mask) 27
  let addr := (e.w.s o.a.toNat).toNat
  let len := (e.w.s (o.a.toNat + 1)).toNat
  let cuts ← e.range addr len (some mask)
  pure { q := o.q.toNat, cuts := cuts, op := .ss addr len mask (o.bar.map (·.toNat)) }

def capSsS (o : OpSsS) (e : Env) (_ : State) : Except Stop ReelCap := do
  e.need [useS o.a 2 35]
  let addr := (e.w.s o.a.toNat).toNat
  let len := (e.w.s (o.a.toNat + 1)).toNat
  let cuts ← e.range addr len (some o.mask.toNat)
  pure { q := o.q.toNat, cuts := cuts, op := .ss addr len o.mask.toNat none }

def capFill (q : QCode) (a : SReg) (us : List Use) (pat : Env → Word) (fe : Bool) (e : Env) (_ : State) :
    Except Stop ReelCap := do
  e.need (useS a 2 35 :: us)
  let addr := (e.w.s a.toNat).toNat
  let len := (e.w.s (a.toNat + 1)).toNat
  let cuts ← e.range addr len none
  pure { q := q.toNat, cuts := cuts, op := .fill addr len (pat e) fe }

/-- CPSS (R242). -/
def opCpss (o : OpSs) : Op := reelOp o.g 0xA3 o.q (capSs o)
def opCpssImm (o : OpSsS) : Op := reelOp o.g 0xA3 o.q (capSsS o)
/-- CPFILL (R242). -/
def opCpfill (o : OpFill) : Op :=
  reelOp o.g 0xA4 o.q (capFill o.q o.a [useS o.b 1 27] (fun e => e.w.s o.b.toNat) o.fe)
def opCpfillImm (o : OpFillS) : Op :=
  reelOp o.g 0xA4 o.q (capFill o.q o.a [] (fun _ => o.imm.signExtend 32) o.fe)

/-! ## QFENCE and CQWAIT (R243, R244) -/

/-- The commands in the queues that a mask names: bit k is cq k, bits 8 and 9 are mq 0 and mq 1. -/
def State.queued (s : State) (core qm : Nat) : List Nat :=
  (s.reelQ.filter (fun c => c.core == core && bit qm c.q)).map (·.id)
    ++ (s.matQ.filter (fun c => c.core == core && bit qm (8 + c.q))).map (·.id)

/-- Enter a fence (R103); one with nothing to wait for is over at once. -/
def State.fenceQ (s : State) (core qm : Nat) : State :=
  let p := s.queued core qm
  if p.isEmpty then s else { s with qfences := s.qfences ++ [⟨core, qm, p⟩] }

/-- QFENCE (R243). -/
def opQfence (o : OpQfence) : Op := fun e s =>
  if o.qm = 0 then (e.ill 3).res
  else if e.g o.g = 0 then .ok s
  else .ok (s.fenceQ e.c.core o.qm.toNat)

/-- CQWAIT (R244).
Log entry 29 (DEDUCED). -/
def opCqwait (o : OpCqwait) : Op := fun e s =>
  let us : List Use := match o.t with
    | some i => [useS i 1 27]
    | none => []
  match e.uses us with
  | some st => st.res
  | none =>
    let g := e.g o.g
    if g = 0 then .ok s
    else
      let t : Word := match o.t with
        | some i => e.w.s i.toNat
        | none => BitVec.ofNat 32 (Tbl.get 0 ((s.wg? e.wg.id).getD e.wg).entered o.q.toNat)
      .wait (e.upd s (fun w => w.waitIn (lanesOf g) (fun _ => .cqwait o.q.toNat t))) g

/-! ## The meanings -/

def execCpbox (o : OpBox) (s : State) : Out := performOp (opCpbox o) s
def execCpboxImm (o : OpBoxS) (s : State) : Out := performOp (opCpboxImm o) s
def execCpstb (o : OpBox) (s : State) : Out := performOp (opCpstb o) s
def execCpstbImm (o : OpBoxS) (s : State) : Out := performOp (opCpstbImm o) s
def execCpidx (o : OpIdx) (s : State) : Out := performOp (opCpidx o) s
def execCpidxImm (o : OpIdxS) (s : State) : Out := performOp (opCpidxImm o) s
def execCpss (o : OpSs) (s : State) : Out := performOp (opCpss o) s
def execCpssImm (o : OpSsS) (s : State) : Out := performOp (opCpssImm o) s
def execCpfill (o : OpFill) (s : State) : Out := performOp (opCpfill o) s
def execCpfillImm (o : OpFillS) (s : State) : Out := performOp (opCpfillImm o) s
def execQfence (o : OpQfence) (s : State) : Out := performOp (opQfence o) s
def execCqwait (o : OpCqwait) (s : State) : Out := performOp (opCqwait o) s

end Sys2Proof.Machine
end

