-- ==== Sys2Proof/Machine/ReelRun.lean ====
section
/-!
DEFINITION. Machine/ReelRun.lean: the reel at work: starting a command, performing its pieces, deferred blocks, completion
(R61, R66 to R72).
-/

namespace Sys2Proof.Machine

/-! ## Events -/

/-- The meaning of an event row: what it does with its arguments, or the refusal that it is not enabled. -/
def event (name : String) (f : EvArgs → State → Option State) (s : State) : Out :=
  match f s.ev s with
  | some t => .next t
  | none => .refused (.notEnabled name)

/-! ## What an engine works under -/

/-- The workgroup, launch and context of an issuer, the engine's accesses, and %ctxmode as its word was dispatched. -/
structure EngCtx where
  g : Wg
  l : Launch
  x : Ctx
  die : Nat
  who : Who
  mode : Word

def State.engCtx (s : State) (i : Issuer) : Option EngCtx :=
  match s.wg? i.wg with
  | none => none
  | some g =>
    match s.launch? g.launch with
    | none => none
    | some l =>
      match s.ctx? l.ctx with
      | none => none
      | some x =>
        let die := s.dieOf i.core
        some ⟨g, l, x, die, s.engineWho x l.leases die (some i.core), i.mode⟩

/-- A context fault that an engine detects (R312, R314). -/
def State.engHalt (s : State) (i : Issuer) (src : Nat) (h : CFault) : State :=
  s.raiseHalt i.ctx (s.dieOf i.core) i.core 0 i.pc i.seq ((s.wg? i.wg).map (·.wg) |>.getD 0)
    { h with src := if h.src = 1 then src else h.src }

/-- A refused access of an accepted command (R63, Table 3 of the context chapter). -/
def lateFault (d : Deny × Nat) : CFault := { cause := if d.1 == .failed then 35 else 36, va := d.2 }

/-- Read a chunk as an engine does: never through an L1. -/
def State.engChunk (s : State) (who : Who) (c : Chunk) : State × List Byte × List (Nat × Option Nat) :=
  match c.pl with
  | .dram pa mir kind => (s, s.dieBytes who.die pa c.n, if kind == 1 then [] else [(lineOf pa, mir.map lineOf)])
  | .host p a _ => (s, s.hostBytes p a c.n, [])
  | .peer r x va _ => (s.askPeer (who.core.getD 0) who.die r false (.read r x va c.n), s.peerBytes (peerKey r x) va c.n, [])

/-- An engine's read of `n` bytes at an address through a record. -/
def State.engRead (s : State) (who : Who) (r : Rec) (va n : Nat) :
    Except CFault (State × List Byte × List (Nat × Option Nat)) :=
  match s.recChunks who .read r va n with
  | .error d => .error (lateFault d)
  | .ok cs =>
    match s.checkReads cs with
    | .error h => .error h
    | .ok s =>
      .ok (cs.foldl (fun acc c =>
        let (s', bs, ls) := acc.1.engChunk who c
        (s'.keep who c, acc.2.1 ++ bs, acc.2.2 ++ ls)) (s, [], []))

/-- A command touches an SO page in some element: all of its elements are ordered as SO (R97). `vas` are the addresses of its
units. -/
def State.engSo (s : State) (who : Who) (need : Need) (r : Rec) (vas : List Nat) : Bool :=
  vas.any (fun va => match s.recChunks who need r va r.unit with
    | .ok cs => anySo cs
    | .error _ => false)

/-- The addresses of those of units `[a, b)` of a box of which `p` holds, by the halves that are in bounds. -/
def Rec.spanVas (r : Rec) (org : List Int) (size : List Nat) (a b : Nat) (p : Nat → Bool := (· != 0)) : List Nat :=
  (((List.range (b - a)).map (a + ·)).filter (fun i => p (r.inside (r.at' org size i)))).map (fun i => r.va (r.at' org size i))

/-- The addresses of the units of a box that are in bounds. -/
def Rec.boxVas (r : Rec) (org : List Int) (size : List Nat) : List Nat := r.spanVas org size 0 (r.units size)

/-- Of a unit of 4-bit pairs just one half is in bounds: it is written by a read-modify-write. -/
def Rec.half (r : Rec) (ins : Nat) : Bool := r.nib && ins != 0 && ins != 3

/-- An engine finds no permit for some range, an address and a length, that it accesses at its home at once (R343). -/
def State.engFull (s : State) (who : Who) (agent : Nat) (write all : Bool) (r : Rec) (ps : List (Nat × Nat)) : Bool :=
  ps.any (fun p => p.2 != 0 && match s.recChunks who (if write then .write else .read) r p.1 p.2 with
    | .ok cs => !s.permits agent who.die write all cs
    | .error _ => false)

/-- What an engine writes as SO follows the die's earlier writes (R95). -/
def State.soDrain (s : State) (die : Nat) (so : Bool) : State := if so then s.drainDie die else s

/-- An engine's write through a record: plain, or `f` of the old bytes as one read-modify-write at the home (R68), which a peer is asked
for as `ask`; `so` is the order of its whole command. The old bytes are checked for errors (R325). -/
def State.engWrite (s : State) (who : Who) (id ctx agent : Nat) (so : Bool) (r : Rec) (va : Nat) (bs : List Byte)
    (f : Option (List Byte → List Byte)) (ask : Option RmwReq := none) : Except CFault State :=
  match s.recChunks who .write r va bs.length with
  | .error d => .error (lateFault d)
  | .ok cs =>
    match f with
    | none => .ok ((s.keepAll who cs).writeChunks id ctx agent who.die none so cs bs)
    | some f =>
      match s.checkReads cs with
      | .error h => .error h
      | .ok s =>
      let s := s.keepAll who cs
      let (s, old) := cs.foldl (fun acc c =>
        let (s', b) := acc.1.homeRead who.die c
        (s', acc.2 ++ b)) (s, [])
      .ok ((cs.foldl (fun (acc : State × List Byte) c =>
        (acc.1.homeWrite who.die none c (acc.2.take c.n) agent ask, acc.2.drop c.n)) (s, f old)).1)

/-! ## Pieces of a box -/

/-- The fill of one unit that lies outside, or of the half of a 4-bit pair that does (R58, R59, R64). -/
def Rec.unitFill (r : Rec) : List Byte := if r.bnd = 3 then Fmt.nanBytes r.fmt else List.replicate r.unit 0

/-- Keep the nibbles of `b` that `inside` names and take the others from `old`. -/
def nibMerge (inside : Nat) (b old : Byte) : Byte :=
  BitVec.ofNat 8 ((if bit inside 0 then b.toNat else old.toNat) % 16
    + (if bit inside 1 then b.toNat else old.toNat) / 16 * 16)

/-- The destinations of a command: its own workgroup, or those of its mask (R67). -/
def State.dests (s : State) (g : Wg) (mask : Nat) : List Wg := if mask = 0 then [g] else s.named g mask

/-- The scratchpad granules that are complete after the packed bytes `[a, b)` of `t` (R50). -/
def doneGranules (a b t : Nat) : List Nat :=
  (List.range (ceilDiv t 16)).filter (fun k => a < min (16 * k + 16) t && min (16 * k + 16) t ≤ b)

/-- The signals of a piece at one destination: full-empty bits, then arrival bytes (R69).
Log entry 20 (DEDUCED). -/
def State.signalPiece (s : State) (g : Wg) (gran : List Nat) (bar : Option Nat) (n : Nat) : State :=
  let s := s.feSet g.core gran true
  match bar with
  | some b => s.arriveBytes g.id b n
  | none => s

/-- The reel's piece number `k`: its first walk number and the one after its last. -/
def ReelCmd.span (c : ReelCmd) (k total : Nat) : Nat × Nat := (c.cuts.getD k total, c.cuts.getD (k + 1) total)

/-- A piece of a box load: read every unit, then write every destination (R64 to R67). -/
def State.boxPiece (s : State) (c : ReelCmd) (x : EngCtx) (r : Rec) (saddr swz mask : Nat) (org : List Int) (size : List Nat)
    (bar : Option Nat) : Except CFault State :=
  let (a, b) := c.span c.piece (r.units size)
  let u := r.unit
  let got := (List.range (b - a)).foldl (fun (acc : Except CFault (State × List (Nat × List Byte) × List (Nat × Option Nat))) i =>
    match acc with
    | .error h => .error h
    | .ok (s, out, ls) =>
      let n := a + i
      let ix := r.at' org size n
      let p := saddr + swizzle swz (n * u)
      let ins := r.inside ix
      if ins = 0 then .ok (s, out ++ [(p, r.unitFill)], ls)
      else
        match s.engRead x.who r (r.va ix) u with
        | .error h => .error h
        | .ok (s, bs, l) =>
          let bs := if r.nib then bs.map (fun y => nibMerge ins y 0) else bs
          .ok (s, out ++ [(p, bs)], ls ++ l)) (.ok (s, [], []))
  match got with
  | .error h => .error h
  | .ok (s, out, ls) =>
    let s := s.askLines x.x.key c.core x.die ls
    let gran := (doneGranules (a * u) (b * u) (r.units size * u)).map (fun k => saddr + swizzle swz (16 * k))
    .ok ((s.dests x.g mask).foldl (fun s g =>
      let s := out.foldl (fun s p => s.scrWrite g.core (g.scrBase + p.1) p.2) s
      s.signalPiece g (gran.map (fun p => (g.scrBase + p) / 16)) bar ((b - a) * u)) s)

/-- The combining of a reduce-on-store (R68).
Log entry 19 (DEDUCED). -/
def reduceBytes (fmt : Fmt) (op : Nat) (new old : List Byte) : List Byte :=
  let n := new.length
  let v := match fmt.fspec with
    | some f => floatStep f false (op - 1) (leNat old) (leNat new)
    | none => atomNew fmt (op - 1) (leNat old) (leNat new)
  leBytes n v

/-- A piece of a box store (R240). -/
def State.stbPiece (s : State) (c : ReelCmd) (x : EngCtx) (r : Rec) (saddr swz op : Nat) (org : List Int) (size : List Nat)
    (bar : Option Nat) : Except CFault State :=
  let (a, b) := c.span c.piece (r.units size)
  let u := r.unit
  let so := s.engSo x.who .write r (r.boxVas org size)
  let (id, s) := (s.soDrain x.die so).fresh
  let put := (List.range (b - a)).foldl (fun (acc : Except CFault (State × Nat)) i =>
    match acc with
    | .error h => .error h
    | .ok (s, cnt) =>
      let n := a + i
      let ix := r.at' org size n
      let ins := r.inside ix
      if ins = 0 then .ok (s, cnt)
      else
        let at' := x.g.scrBase + saddr + swizzle swz (n * u)
        let bs := s.scrBytes c.core at' u
        let s := s.touch c.core at' u
        let f : Option (List Byte → List Byte) :=
          if op != 0 then some (reduceBytes r.fmt op bs)
          else if r.nib && ins != 3 then some (fun old => [nibMerge ins (bs.headD 0) (old.headD 0)])
          else none
        match s.engWrite x.who id x.x.key c.core so r (r.va ix) bs f
            (if op != 0 then some ⟨r.fmt.code, op - 1, bs⟩ else none) with
        | .error h => .error h
        | .ok s => .ok (s, cnt + u)) (.ok (s, 0))
  match put with
  | .error h => .error h
  | .ok (s, cnt) => .ok (s.signalPiece x.g [] bar cnt)

/-- A piece of a scratchpad copy or fill (R242): bytes `[a, b)` of the range, of a copy read from it. -/
def State.rangePiece (s : State) (c : ReelCmd) (x : EngCtx) (addr len mask : Nat) (bar : Option Nat) (fe copy : Bool)
    (bytes : State → Nat → Nat → List Byte) : State :=
  let (a, b) := c.span c.piece len
  let bs := bytes s (addr + a) (b - a)
  let s := if copy then s.touch c.core (x.g.scrBase + addr + a) (b - a) else s
  (s.dests x.g mask).foldl (fun s g =>
    (s.scrWrite g.core (g.scrBase + addr + a) bs).signalPiece g
      (if fe then granules (g.scrBase + addr + a) (b - a) else []) bar (b - a)) s

/-! ## Blocks of CPIDX (R70 to R72) -/

/-- What the walk finds for a block. -/
inductive BlockState
  | ready
  | absent
  | failed
  | fault (h : CFault)

/-- The addresses of some parts of a block. -/
def Rec.partVas (r : Rec) (idx : Nat) (ps : List (Nat × Nat)) : List Nat :=
  ps.flatMap (fun p => (List.range (p.2 - p.1)).map (fun i => r.va (r.blockIx idx (p.1 + i))))

def State.blockState (s : State) (x : EngCtx) (r : Rec) (vas : List Nat) : BlockState :=
  let ds := vas.filterMap (fun va => match s.recChunks x.who .read r va r.unit with
    | .ok _ => none
    | .error d => some d)
  match ds.find? (fun d => d.1 != .absent && d.1 != .failed) with
  | some d => .fault (lateFault d)
  | none => if ds.any (fun d => d.1 == .failed) then .failed else if ds.isEmpty then .ready else .absent

/-- Request the migration of every absent page among some addresses, of a peer from its package; the flag is false when one is refused.
Log entry 32 (DEDUCED). -/
def State.migrateBlock (s : State) (x : EngCtx) (r : Rec) (vas : List Nat) : State × Bool :=
  match r.peer? with
  | some k =>
    let absent := vas.filter (fun va => s.translatePeer x.who .read k va matches .error .absent)
    (((absent.map (fun va => va - va % 2 ^ 17)).eraseDups).foldl (fun s va => s.tilic x.die k (.migrate k x.x.key va)) s, true)
  | none => vas.foldl (fun acc va =>
    match acc.1.pageState x.x va with
    | .absent l =>
      (match acc.1.ctx? x.x.key with
        | some c =>
          let (s, ok) := acc.1.migrate c va l
          (s, acc.2 && ok)
        | none => (acc.1, false))
    | _ => acc) (s, true)

/-- Units `[a, b)` of the block of a lane. -/
def State.blockUnits (s : State) (c : ReelCmd) (x : EngCtx) (r : Rec) (blk lane idx a b : Nat) (bar : Option Nat) :
    Except CFault State :=
  let u := r.unit
  let base := x.g.scrBase + blk + lane * r.blockPitch
  let got := (List.range (b - a)).foldl (fun (acc : Except CFault (State × List Byte × List (Nat × Option Nat))) i =>
    match acc with
    | .error h => .error h
    | .ok (s, out, ls) =>
      match s.engRead x.who r (r.va (r.blockIx idx (a + i))) u with
      | .error h => .error h
      | .ok (s, bs, l) => .ok (s, out ++ bs, ls ++ l)) (.ok (s, [], []))
  match got with
  | .error h => .error h
  | .ok (s, bs, ls) =>
    let s := (s.askLines x.x.key c.core x.die ls).scrWrite c.core (base + a * u) bs
    .ok (s.signalPiece x.g ((doneGranules (a * u) (b * u) (r.blockUnits * u)).map (fun k => (base + 16 * k) / 16)) bar ((b - a) * u))

def State.setReel (s : State) (id : Nat) (f : ReelCmd → ReelCmd) : State := { s with reelQ := updateWhere (·.id == id) f s.reelQ }

/-- The block of a lane has landed, the `k`-th of its command: its entry of the arrival list, and the bit of a list granule that is
complete (R72). `code` is the lane's outcome (R71).
Log entry 32 (DEDUCED). -/
def State.landBlock (s : State) (c : ReelCmd) (x : EngCtx) (list k lane code : Nat) : State :=
  let s := s.scrWrite c.core (x.g.scrBase + list + k) [BitVec.ofNat 8 lane]
  let s := if k = 15 || k = 31 then s.feSet c.core [(x.g.scrBase + list + k) / 16] true else s
  s.setReel c.id (fun c => { c with landed := c.landed ++ [lane], status := Tbl.set 0 c.status lane code })

/-- The parts of a lane's block that stand in some pieces. -/
def laneParts (walk : List (List (Nat × Nat × Nat))) (lane : Nat) : List (Nat × Nat) :=
  walk.flatMap (fun p => (p.filter (fun t => t.1 == lane)).map (·.2))

/-- The pieces without a lane. -/
def dropLane (walk : List (List (Nat × Nat × Nat))) (lane : Nat) : List (List (Nat × Nat × Nat)) :=
  (walk.map (fun p => p.filter (fun t => t.1 != lane))).filter (fun p => !p.isEmpty)

/-- Perform some parts of a lane's block. -/
def State.laneUnits (s : State) (c : ReelCmd) (x : EngCtx) (r : Rec) (blk lane idx : Nat) (bar : Option Nat) (ps : List (Nat × Nat)) :
    Except CFault State :=
  ps.foldl (fun (acc : Except CFault State) p => acc.bind (fun s => s.blockUnits c x r blk lane idx p.1 p.2 bar)) (.ok s)

/-- The outcome of a lane whose block has arrived: 01 where the promotion of one of its pages has needed an integrity retry (R71, R330).
Log entry 32 (DEDUCED). -/
def State.arrived (s : State) (x : EngCtx) (r : Rec) (idx : Nat) : Nat :=
  let retried := fun (va : Nat) => match r.peer? with
    | some k => bit (Tbl.get 0 s.peerPages (peerKey k x.x.key * 2 ^ 40 + fld va 17 40)) 5
    | none => (s.walk x.x x.who.part va).any (fun l => s.migRetry.contains (x.x.key, va - va % l.size))
  if (r.partVas idx [(0, r.blockUnits)]).any retried then 1 else 0

/-- One event of the walk of CPIDX: the outcome of a lane of the next piece whose block cannot be fetched now, which leaves the walk,
or the piece itself.
Log entry 32 (DEDUCED). -/
def State.idxPiece (s : State) (c : ReelCmd) (x : EngCtx) (r : Rec) (idxs : List Nat) (blk list : Nat) (bar : Option Nat) :
    Except CFault State :=
  match c.walk with
  | [] => .ok s
  | p :: rest =>
    let state := fun (lane : Nat) => s.blockState x r (r.partVas (idxs.getD lane 0) (laneParts c.walk lane))
    let stuck := p.find? (fun t => match state t.1 with
      | .ready => false
      | _ => true)
    match stuck with
    | some (lane, _) =>
      let leave := fun (s : State) (f : ReelCmd → ReelCmd) => s.setReel c.id (fun c => f { c with walk := dropLane c.walk lane })
      let code := fun (s : State) (k : Nat) => leave s (fun c => { c with status := Tbl.set 0 c.status lane k })
      let ps := laneParts c.walk lane
      (match state lane with
        | .ready => .ok s
        | .fault h => .error h
        | .failed => .ok (code s 2)
        | .absent =>
          let (s, ok) := s.migrateBlock x r (r.partVas (idxs.getD lane 0) ps)
          .ok (if ok then leave s (fun c => { c with deferred := c.deferred ++ [(lane, ps)] }) else code s 3))
    | none =>
      let units := fun (acc : Except CFault State) (t : Nat × Nat × Nat) =>
        acc.bind (fun s => s.laneUnits c x r blk t.1 (idxs.getD t.1 0) bar [t.2])
      (p.foldl units (.ok s)).map (fun (s : State) =>
        let s := s.setReel c.id (fun c => { c with piece := c.piece + 1, walk := rest })
        ((p.map (·.1)).filter (fun l => (laneParts rest l).isEmpty)).zipIdx.foldl (fun s e =>
          s.landBlock c x list (c.landed.length + e.2) e.1 (s.arrived x r (idxs.getD e.1 0))) s)

/-- A deferred block whose migration has ended (R71): fetched, or recorded as failed or unavailable; none while it is awaited, or
while a shoot-down of its pages runs (R331). `refused` says that the peer package that holds an absent page could not promote it.
Log entry 32 (DEDUCED). -/
def State.deferredFetch (s : State) (c : ReelCmd) (x : EngCtx) (r : Rec) (idxs : List Nat) (blk list : Nat) (bar : Option Nat)
    (lane : Nat) (ps : List (Nat × Nat)) (refused : Bool) : Option (Except CFault State) :=
  let idx := idxs.getD lane 0
  let give := fun (s : State) (code : Nat) =>
    s.setReel c.id (fun c => { c with deferred := c.deferred.filter (·.1 != lane), status := Tbl.set 0 c.status lane code })
  let vas := r.partVas idx ps
  if r.peer?.isNone && vas.any (fun va => (s.migOf x.x.key va).isSome || s.shooting x.x.key va) then none
  else
    match s.blockState x r vas with
    | .fault h => some (.error h)
    | .failed => some (.ok (give s 2))
    | .absent =>
      if r.peer?.isSome then (if refused then some (.ok (give s 3)) else none)
      else
        let (s, ok) := s.migrateBlock x r vas
        some (.ok (if ok then s else give s 3))
    | .ready =>
      some ((s.laneUnits c x r blk lane idx bar ps).map (fun (s : State) =>
        let code := s.arrived x r idx
        let s := s.setReel c.id (fun c =>
          { c with piece := c.piece + ps.length, deferred := c.deferred.filter (·.1 != lane) })
        s.landBlock c x list c.landed.length lane code))

/-! ## Start, piece, completion -/

/-- The command at the head of a queue. -/
def State.reelHead (s : State) (core q : Nat) : Option ReelCmd := s.reelQ.find? (fun c => c.core == core && c.q == q)

/-- The context of a command runs on: not halted there. -/
def State.engLive (s : State) (i : Issuer) : Bool := !s.haltedOn i.ctx (s.dieOf i.core)

def ReelCmd.ready (c : ReelCmd) : Bool := !c.started && c.after.isEmpty
/-- Pieces of the walk are left. -/
def ReelCmd.left (c : ReelCmd) : Bool :=
  match c.op with
  | .idx .. => !c.walk.isEmpty
  | _ => c.piece < c.cuts.length

/-- NPIECE of a command's stop record (R314). For CPIDX the blocks that were deferred make pieces of their own, and those that are
not fetched make none.
Log entry 32 (DEDUCED). -/
def ReelCmd.total (c : ReelCmd) : Nat :=
  match c.op with
  | .idx .. => c.piece + c.walk.length + (c.deferred.map (·.2.length)).foldl (· + ·) 0
  | _ => c.cuts.length

def ReelCmd.morePieces (c : ReelCmd) : Bool := c.started && c.left
def ReelCmd.over (c : ReelCmd) : Bool := c.started && !c.left && c.deferred.isEmpty

/-- What the reel reads through: it awaits the replies of a peer that gives none, since the traffic to it is dropped (R334). -/
def State.reelMute (s : State) (c : ReelCmd) : Bool :=
  match c.op with
  | .box r .. | .idx r .. => r.peer?.any (s.drops (s.dieOf c.core))
  | _ => false

/-- The next piece of a command finds no permit for what it accesses at its home at once: units on SO pages, and those that a store
combines (R343). -/
def State.reelFull (s : State) (c : ReelCmd) (x : EngCtx) : Bool :=
  let full := fun (s : State) (write all : Bool) (r : Rec) (vas : List Nat) => s.engFull x.who c.core write all r (vas.map (·, r.unit))
  match c.op with
  | .box r _ _ _ org size _ =>
    let (a, b) := c.span c.piece (r.units size)
    full s false false r (r.spanVas org size a b)
  | .stb r _ _ op org size _ =>
    let (a, b) := c.span c.piece (r.units size)
    let so := s.engSo x.who .write r (r.boxVas org size)
    let s := s.soDrain x.die so
    full s true (so || op != 0) r (r.spanVas org size a b) || full s true true r (r.spanVas org size a b r.half)
  | .idx r idxs .. => full s false false r ((c.walk.headD []).flatMap (fun t => r.partVas (idxs.getD t.1 0) [t.2]))
  | .ss .. | .fill .. => false

/-- REEL_COMMAND_START (R61, R103). -/
def reelStart (a : EvArgs) (s : State) : Option State :=
  match s.reelHead a.a a.b with
  | some c => if c.ready && s.engLive c.by' then some (s.setReel c.id (fun c => { c with started := true })) else none
  | none => none

/-- The outcome of engine work as a state: a fault is recorded. -/
def State.orHalt (s : State) (i : Issuer) (src : Nat) (r : Except CFault State) : State :=
  match r with
  | .ok t => t
  | .error h => s.engHalt i src h

/-- REEL_PIECE_COMPLETE (R66, R69). -/
def reelPiece (a : EvArgs) (s : State) : Option State :=
  match s.reelHead a.a a.b with
  | none => none
  | some c =>
    if !(c.morePieces && s.engLive c.by') || s.reelMute c then none
    else
      match s.engCtx c.by' with
      | none => none
      | some x =>
        if s.reelFull c x then none
        else
        let next := fun (r : Except CFault State) => r.map (fun t => t.setReel c.id (fun c => { c with piece := c.piece + 1 }))
        some (s.orHalt c.by' 2 (match c.op with
          | .box r saddr swz mask org size bar => next (s.boxPiece c x r saddr swz mask org size bar)
          | .stb r saddr swz op org size bar => next (s.stbPiece c x r saddr swz op org size bar)
          | .idx r idxs _ blk list bar => s.idxPiece c x r idxs blk list bar
          | .ss addr len mask bar =>
            next (.ok (s.rangePiece c x addr len mask bar true true (fun s p n => s.scrBytes c.core (x.g.scrBase + p) n)))
          | .fill addr len pat fe =>
            next (.ok (s.rangePiece c x addr len 0 none fe false (fun _ _ n =>
              (List.range n).map (fun i => BitVec.ofNat 8 (fld pat.toNat (8 * (i % 4)) 8)))))))

/-- CPIDX_DEFERRED_FETCH (R71): the deferred block of lane `c`; `d` 1 says that a peer could not promote its page.
Log entry 32 (DEDUCED). -/
def reelDeferred (a : EvArgs) (s : State) : Option State :=
  match s.reelHead a.a a.b with
  | none => none
  | some c =>
    match c.op, s.engCtx c.by' with
    | .idx r idxs _ blk list bar, some x =>
      if c.started && !c.left && s.engLive c.by' && !s.reelMute c then
        (c.deferred.find? (·.1 == a.c)).bind (fun d =>
          if s.engFull x.who c.core false false r ((r.partVas (idxs.getD a.c 0) d.2).map (·, r.unit)) then none
          else (s.deferredFetch c x r idxs blk list bar a.c d.2 (a.d = 1)).map (s.orHalt c.by' 2))
      else none
    | _, _ => none

/-- The status of CPIDX: codes, requested mask, count, and the last granule's bit (R72).
Log entry 32 (DEDUCED). -/
def State.idxStatus (s : State) (c : ReelCmd) (g : Wg) (lanes : LaneMask) (list : Nat) : State :=
  let a := g.scrBase + list
  let codes := packCodes 2 ((List.range 32).map (fun l => Tbl.get 0 c.status l))
  (s.scrWrite c.core (a + 32) (leBytes 8 codes ++ leBytes 4 lanes.toNat ++ leBytes 4 c.landed.length)).feSet c.core
    [a / 16, a / 16 + 1, a / 16 + 2] true

/-- REEL_COMMAND_COMPLETE (R69): the completion count is a release at .dev, so the die's writes reach their homes.
Log entry 20 (DEDUCED). -/
def reelComplete (a : EvArgs) (s : State) : Option State :=
  match s.reelHead a.a a.b with
  | none => none
  | some c =>
    if !(c.over && s.engLive c.by') then none
    else
      let s := match c.op, s.wg? c.by'.wg with
        | .idx _ _ lanes _ list _, some g => s.idxStatus c g lanes list
        | _, _ => s
      let s := s.drainDie (s.dieOf c.core)
      some ({ s with reelQ := s.reelQ.filter (·.id != c.id) }.countOut c.by' c.q c.id)

def execReelCommandStart (s : State) : Out := event "REEL_COMMAND_START" reelStart s
def execReelPieceComplete (s : State) : Out := event "REEL_PIECE_COMPLETE" reelPiece s
def execReelCommandComplete (s : State) : Out := event "REEL_COMMAND_COMPLETE" reelComplete s
def execCpidxDeferredFetch (s : State) : Out := event "CPIDX_DEFERRED_FETCH" reelDeferred s

/-- The next event of the reels, if one is enabled. -/
def reelNext (s : State) : Option (Instr × EvArgs) :=
  s.reelQ.findSome? (fun c =>
    if (s.reelHead c.core c.q).map (·.id) != some c.id || !s.engLive c.by' then none
    else
      let ev : EvArgs := { a := c.core, b := c.q }
      if c.over then some (.reelCommandComplete, ev)
      else if c.morePieces then (if (reelPiece ev s).isSome then some (.reelPieceComplete, ev) else none)
      else if c.ready then some (.reelCommandStart, ev)
      else
        ((c.deferred.map (·.1)).find? (fun l => (reelDeferred { ev with c := l } s).isSome)).map
          (fun l => (Instr.cpidxDeferredFetch, { ev with c := l })))

end Sys2Proof.Machine
end

