-- ==== Sys2Proof/Machine/Matrix.lean ====
section
/-!
DEFINITION. Machine/Matrix.lean: shapes, tiles, accumulator handles and the matrix commands (R252 to R264), with the
arithmetic of R115 to R118.
-/

namespace Sys2Proof.Machine

/-! ## Shapes (R253) -/

/-- What Table 3 says of a format: bits of an element, and whether it may be sparse. -/
def mmaFmt : Fmt → Option (Nat × Bool)
  | .bf16 | .f16 => some (16, false)
  | .f8e4 | .f8e5 | .i8 => some (8, true)
  | .n8 => some (8, false)
  | .f4 | .i4 => some (4, true)
  | _ => none

/-- Kept elements of a group under SPN. -/
def keptOf (spn : Nat) : Nat := if spn = 1 then 6 else if spn = 2 then 8 else 12

/-- GS: the bytes of a compressed group (Table 6 of the number chapter). -/
def groupBytes (bits kept : Nat) : Nat := 2 * ceilDiv ((bits + 5) * kept) 16

/-- The least member of a rising list at or above a request, or the largest. -/
def grantUp (v : Nat) (set : List Nat) : Nat := (set.find? (v ≤ ·)).getD (set.getLastD 0)

/-- A capacity of Table 3 is exceeded. -/
def overCap (bits spn m n k : Nat) : Bool :=
  8 * 8192 < m * k * bits
    || (if spn = 0 then decide (8 * 8192 < n * k * bits) else decide (2048 < n * (k / 24) * groupBytes bits (keptOf spn)))

/-- Step 3 of R253: halve until the capacities hold. -/
def fitShape (bits spn kmin : Nat) : Nat → Nat × Nat × Nat → Nat × Nat × Nat
  | 0, x => x
  | fuel + 1, (m, n, k) =>
    if !overCap bits spn m n k then (m, n, k)
    else fitShape bits spn kmin fuel (if kmin < k then (m, n, k / 2) else if n ≤ m then (m / 2, n, k) else (m, n / 2, k))

/-- The shape granted for a request. -/
def grant (fmt : Fmt) (bits spn m n k : Nat) : Shape :=
  let mn := [16, 32, 64, 128]
  let ks := if spn = 0 then [16, 32, 64, 128, 256] else [48, 96, 192]
  let (m, n, k) := fitShape bits spn (ks.headD 0) 16 (grantUp m mn, grantUp n mn, grantUp k ks)
  ⟨m, n, k, fmt, spn⟩

/-- The granted-shape word (Table 4). -/
def Shape.word (h : Shape) : Nat :=
  h.m + h.n * 2 ^ 8 + h.k * 2 ^ 16 + h.fmt.code * 2 ^ 25 + h.spn * 2 ^ 30

/-- SHAPE (R253). -/
def opShape (o : OpShape) : Op := collectively o.g fun e s =>
  let r := o.imm.toNat
  let spn := o.spn.toNat
  match (do
      e.refuseIf (fld r 0 5 = 0) 19
      e.refuseIf (fld r 5 5 = 0) 24
      e.refuseIf (fld r 10 6 = 0) 29
      match mmaFmt o.ty with
      | none => .error (e.ill 10)
      | some (bits, sparse) =>
        e.refuseIf (spn != 0 && !sparse) 5
        e.need [useS o.d 1 43]
        pure (grant o.ty bits spn (8 * fld r 0 5) (8 * fld r 5 5) (8 * fld r 10 6)) : Except Stop Shape) with
  | .error st => st.res
  | .ok h => .ok (e.upd s (fun w => { w.setS o.d.toNat (BitVec.ofNat 32 h.word) with shape := some h }))

/-! ## Tiles (R254) -/

/-- The physical number of the `k`-th tile of the warp in a slot, as a key of `tiles`. -/
def State.tileKey (s : State) (core slot k : Nat) : Nat :=
  64 * core + ((List.range 64).filter (fun t => Tbl.get 0 s.tileOf (64 * core + t) == slot + 1)).getD k 0

/-- Bytes of a tile: the data side at 0, the scale region at 8,192, the weight region at 10,240. -/
def State.tileBytes (s : State) (t off n : Nat) : List Byte := readBytes s.tiles (t * 12288 + off) n

def State.tileWrite (s : State) (t off : Nat) (bs : List Byte) : State :=
  { s with tiles := writeBytes s.tiles (t * 12288 + off) bs }

/-- The code of element `i` of `bits`-wide elements laid end to end at `off`. -/
def State.tileElem (s : State) (t off bits i : Nat) : Nat :=
  fld (leNat (s.tileBytes t (off + i * bits / 8) (ceilDiv bits 8))) (i * bits % 8) bits

/-- A row of a data side. -/
def State.tileRow (s : State) (t bits k i : Nat) : List Nat := (List.range k).map (fun j => s.tileElem t 0 bits (i * k + j))

/-- One compressed group expanded to 24 elements (R117). -/
def expandGroup (bits kept : Nat) (g : Nat) : List Nat :=
  (List.range kept).foldl (fun acc k => acc.set (fld g (bits * kept + 5 * k) 5) (fld g (bits * k) bits)) (List.replicate 24 0)

/-- A row of a weight region, expanded. -/
def State.weightRow (s : State) (t bits kept k j : Nat) : List Nat :=
  let gs := groupBytes bits kept
  (List.range (k / 24)).flatMap (fun i => expandGroup bits kept (leNat (s.tileBytes t (10240 + (j * (k / 24) + i) * gs) gs)))

/-- The scale of row `i`, block `b`. -/
def State.tileScale (s : State) (t k i b : Nat) : Nat := leNat (s.tileBytes t (8192 + i * (k / 8) + b) 1)

/-! ## Accumulators (R258, R259) -/

/-- The key of element `i` of a handle's banks. -/
def accKey (core : Nat) (banks : List Nat) (i : Nat) : Nat := (256 * core + banks.getD (i / 512) 0) * 2048 + 4 * (i % 512)

def State.accGet (s : State) (core : Nat) (banks : List Nat) (i : Nat) : Nat :=
  leNat (readBytes s.banks (accKey core banks i) 4)

def State.accPut (s : State) (core : Nat) (banks : List Nat) (i v : Nat) : State :=
  { s with banks := writeBytes s.banks (accKey core banks i) (leBytes 4 v) }

/-- The banks that a configuration needs. -/
def Shape.need (h : Shape) : Nat := ceilDiv (h.m * h.n) 512

def Warp.handle? (w : Warp) (h : Nat) : Option Handle := Tbl.find? w.handles h

/-- Change the handle of some banks of a core, in its warp and in the programs that hold the binding. -/
def State.modHandle (s : State) (core : Nat) (banks : List Nat) (f : Handle → Handle) : State :=
  let go := fun (t : Tbl Handle) => t.map (fun (p : Nat × Handle) => (p.1, if p.2.banks = banks then f p.2 else p.2))
  { s with
    warps := s.warps.map (fun (p : Nat × Warp) =>
      (p.1, if p.1 / 32 = core then { p.2 with handles := go p.2.handles } else p.2))
    seqrs := s.seqrs.map (fun (q : Seqr) => if q.core = core then { q with handles := go q.handles } else q) }

/-- A bound handle large enough for the configuration, or REASON 0 (R259); `bitNo` is the field that names it. -/
def Env.bound (e : Env) (h : Nat) (sh : Option Shape) (bitNo : Nat) : Except Stop Handle :=
  match e.w.handle? h with
  | none => .error (e.ill bitNo)
  | some x =>
    match sh with
    | some sh => if x.banks.length < sh.need then .error (e.ill sh.need) else .ok x
    | none => .ok x

/-- The configuration, or REASON 0 with INFO 0. -/
def Env.config (e : Env) : Except Stop Shape :=
  match e.w.shape with
  | some sh => .ok sh
  | none => .error (e.ill 0)

/-- The banks of a core that no warp holds, ascending.
Log entry 37 (DESIGN CHOICE). -/
def State.freeBanks (s : State) (core : Nat) : List Nat :=
  (List.range 256).filter (fun b => Tbl.get 0 s.bankOf (256 * core + b) == 0)

/-- Prepare storage for a context: what another context left is cleared, and what the same context left is kept or
cleared, a free choice (R32, R49, R258). `t` is the storage, `own` its owners, `k` the block's key and `n` its bytes.
Log entry 10 (DEDUCED). -/
def startBlock (free ctx : Nat) (t : Tbl Byte) (own : Tbl Nat) (k n : Nat) : Tbl Byte × Tbl Nat × Nat :=
  let o := Tbl.get 0 own k
  let own' := Tbl.put own k (ctx + 1)
  if o = 0 then (t, own', free)
  else if o = ctx + 1 then ((if Config.freeBit (2 * free) then t else Tbl.clear t (k * n) n), own', free + 1)
  else (Tbl.clear t (k * n) n, own', free)

/-- ABALLOC (R258).
Log entry 37 (DESIGN CHOICE). -/
def opAballoc (o : OpAballoc) : Op := collectively o.g fun e s =>
  let n := o.n.toNat
  let h := o.a.toNat
  if n = 0 || 32 < n then (e.ill n).res
  else if (e.w.handle? h).isSome then (e.ill 35).res
  else if e.l.pk.maxBanks < e.w.bankCount + n then (e.ill n).res
  else
    let core := e.c.core
    let set := fun (s : State) (b : Bool) => e.upd s (overLanes e.c.mask (fun l w => w.setP o.d.toNat l b))
    let fr := s.freeBanks core
    if fr.length < n then .ok (set s false)
    else
      let bs := fr.take n
      let s := bs.foldl (fun s b =>
        let k := 256 * core + b
        let (t, own, free) := startBlock s.free e.x.key s.banks s.bankOwner k 2048
        { s with banks := t, bankOwner := own, free := free, bankOf := Tbl.put s.bankOf k (e.c.slot + 1) }) s
      let x : Handle := ⟨bs, 0, none, false⟩
      .ok (set (e.upd s (fun w => { w with handles := Tbl.put w.handles h x })) true)

/-- A matrix command of the warp, or of a program it forked, names a handle and is not complete (R260).
Log entry 38 (DEDUCED). -/
def State.mxBusy (s : State) (e : Env) (h : Nat) : Bool :=
  s.matQ.any (fun c => c.core == e.c.core && c.by'.slot == e.c.slot && c.by'.wg == e.wg.id && (match c.op with
    | .mma k .. => k == h
    | .scacc k _ a _ _ => k == h || a == h
    | .accz k _ => k == h
    | .tld .. | .tst .. | .wbld .. => false))

/-- ABFREE (R258, R260).
Log entry 38 (DEDUCED). -/
def opAbfree (o : OpAbfree) : Op := collectively o.g fun e s =>
  let h := o.a.toNat
  match e.bound h none 35 with
  | .error st => st.res
  | .ok x =>
    if s.mxBusy e h then .hold s
    else
      let s := { s with bankOf := x.banks.foldl (fun t b => Tbl.del t (256 * e.c.core + b)) s.bankOf }
      .ok (e.upd s (fun w => { w with handles := Tbl.del w.handles h }))

/-- The row and the column block (R260). -/
def Env.accSel (e : Env) (r : RowSel) : Nat × Nat :=
  match r with
  | .const row cb => (row.toNat, cb.toNat)
  | .scalar i => (fld (e.w.s i.toNat).toNat 0 8, fld (e.w.s i.toNat).toNat 8 3)

/-- The checks of ACCRD and ACCWR: the row, the column block, the handle and the configuration. What passes the handle's banks is an
access to an element beyond them (R259). -/
def Env.accCheck (e : Env) (o : OpAcc) (rd : Bool) (bitNo : Nat) : Except Stop (Nat × Nat × Handle × Shape) := do
  let src : List Use := match o.row with
    | .scalar i => [useS i 1 27]
    | .const _ _ => []
  let (row, cb) := e.accSel o.row
  let cols := fun (sh : Shape) (cb : Nat) =>
    ((if rd then List.range 32 else lanesOf (e.g o.g)).map (32 * cb + ·)).filter (· < sh.n)
  match e.w.handle? o.h.toNat, e.w.shape with
  | some x, some sh =>
    let count := rd && row = 255
    e.valued (.v o.v.toNat 1 1 bitNo :: src) src
      (if (sh.m ≤ row && !count) || ceilDiv sh.n 32 ≤ cb then .error (e.ill row)
       else if !count && (cols sh cb).any (fun c => 512 * x.banks.length ≤ row * sh.n + c) then .error (e.ill sh.need)
       else .ok ())
    pure (row, cb, x, sh)
  | _, _ =>
    e.valued src src (.error (e.ill row))
    .error (e.ill row)

/-- ACCRD (R260).
Log entry 38 (DEDUCED). -/
def opAccrd (o : OpAcc) : Op := collectively o.g fun e s =>
  match e.accCheck o true 43 with
  | .error st => st.res
  | .ok (row, cb, x, sh) =>
    if s.mxBusy e o.h.toNat then .hold s
    else
      let v := fun (l : Nat) =>
        let c := 32 * cb + l
        if row = 255 then (if l = 0 then x.steps.toNat else if l = 1 then x.banks.length else 0)
        else if c < sh.n then s.accGet e.c.core x.banks (row * sh.n + c) else 0
      .ok (e.upd (s.touchBanks e.c.core x.banks) (overLanes (e.g o.g) (fun l w => w.setV o.v.toNat l (BitVec.ofNat 32 (v l)))))

/-- ACCWR (R260).
Log entry 38 (DEDUCED). -/
def opAccwr (o : OpAcc) : Op := collectively o.g fun e s =>
  match e.accCheck o false 35 with
  | .error st => st.res
  | .ok (row, cb, x, sh) =>
    if s.mxBusy e o.h.toNat then .hold s
    else
      let s := (lanesOf (e.g o.g)).foldl (fun s l =>
        let c := 32 * cb + l
        if c < sh.n then s.accPut e.c.core x.banks (row * sh.n + c) (e.w.v o.v.toNat l).toNat else s) (s.touchBanks e.c.core x.banks)
      .ok (s.modHandle e.c.core x.banks (fun h => { h with steps := h.steps + 1, tag := none, tagRet := false }))

/-! ## Matrix commands at issue (R255 to R257, R261) -/

/-- What a matrix command captures. -/
abbrev MatCapture := Env → State → Except Stop MatOp

/-- Items 4 and 5 of R63 for the boxes of a tile command: bounds in walk order, then translation; a context fault of any box
precedes a trap. -/
def Env.tileReach (e : Env) (s : State) (need : Need) (boxes : List (Rec × List Int × List Nat)) : Except Stop Unit := do
  (match boxes.findSome? (fun b =>
      let (r, org, size) := b
      let full := if r.nib then 3 else 1
      if r.bnd != 1 then none
      else ((List.range (r.units size)).find? (fun i => r.inside (r.at' org size i) != full)).map (fun i =>
        e.engTrap 5 r.num (r.va (r.at' org size i)))) with
    | some st => .error st
    | none => .ok ())
  let outs := boxes.filterMap (fun b =>
    let (r, org, size) := b
    let ix := r.at' org size
    match e.reach s need r (((List.range (r.units size)).filter (fun i => r.inside (ix i) != 0)).map (fun i => r.va (ix i)))
        r.unit false with
    | .ok _ => none
    | .error st => some st)
  match outs.find? (fun st => match st with
    | .halt _ => true
    | .trap _ => false) with
  | some st => .error st
  | none => match outs with
    | st :: _ => .error st
    | [] => .ok ()

/-- The origins that B and roff give (R255). -/
def Env.tileOrg (e : Env) (o : OpTile) : Int × Int :=
  match o.b with
  | some b => (signedOf 32 (e.w.s b.toNat).toNat, signedOf 32 (e.w.s (b.toNat + 1)).toNat + o.k.toNat)
  | none => (0, o.k.toNat)

/-- The register uses of a tile command. -/
def tileUses (o : OpTile) : List Use :=
  .t o.t.toNat :: (match o.b with
    | some b => [useS b 2 27]
    | none => [])

/-- The illegal field uses of a tile command (R252).
Log entry 25 (DESIGN CHOICE). -/
def Env.tileFields (e : Env) (o : OpTile) : Except Stop Unit := do
  e.refuseIf (o.mx && o.sc) 5
  e.refuseIf (o.rb && o.mx) 3
  e.refuseIf (o.rk == 7 && (o.sc || o.mx)) 35

/-- The box and the scale box of a dense tile. -/
def tileBoxes (sh : Shape) (r : Rec) (scr : Option Rec) (rows : Nat) (mx : Bool) (org0 org1 : Int) :
    List (Rec × List Int × List Nat) :=
  (r, [org0, org1, 0, 0, 0], [sh.k, rows, 1, 1, 1]) :: (match scr with
    | some q => if mx then [(q, [org0 / 32, org1, 0, 0, 0], [ceilDiv sh.k 32, rows, 1, 1, 1])]
                else [(q, [org0 / 8, org1, 0, 0, 0], [sh.k / 8, rows, 1, 1, 1])]
    | none => [])

/-- TLD and TST (R255). -/
def capTile (o : OpTile) (store : Bool) : MatCapture := fun e s => do
  e.tileFields o
  e.aligned (tileUses o)
  let sh ← e.config
  let r ← e.record o.rk.toNat
  let rows := if o.rb then sh.n else sh.m
  let (o0, o1) := e.tileOrg o
  let mx := o.mx && !store
  e.refuseIf (!mx && r.fmt != sh.fmt) r.num
  e.refuseIf (o.sc && (sh.fmt != .f4 || o0 % 8 != 0 || r.pair)) r.num
  e.refuseIf (mx && ((sh.fmt != .bf16 && sh.fmt != .f16) || !([.f8e4, .f8e5, .f4, .i8] : List Fmt).contains r.fmt || o0 % 32 != 0)) r.num
  let scr ← (if o.sc || mx then do
      let q ← e.record (o.rk.toNat + 1)
      e.refuseIf (q.fmt != .n8) q.num
      pure (some q)
    else pure none : Except Stop (Option Rec))
  e.refuseIf (r.nib && o0 % 2 != 0) 27
  e.need (tileUses o)
  e.tileReach s (if store then .write else .read) (tileBoxes sh r scr rows mx o0 o1)
  pure (if store then .tst r scr o.t.toNat rows o0 o1 else .tld r scr o.t.toNat rows mx o0 o1)

/-- The boxes of a compressed weight operand (R256). -/
def weightBoxes (sh : Shape) (r : Rec) (scr : Option Rec) (org0 org1 : Int) : List (Rec × List Int × List Nat) :=
  let gs := groupBytes sh.fmt.bits (keptOf sh.spn)
  (r, [org0, org1, 0, 0, 0], [sh.k / 24 * gs, sh.n, 1, 1, 1]) :: (match scr with
    | some q => [(q, [3 * org0 / gs, org1, 0, 0, 0], [sh.k / 8, sh.n, 1, 1, 1])]
    | none => [])

/-- WBLD (R256).
Log entry 25 (DESIGN CHOICE). -/
def capWbld (o : OpTile) : MatCapture := fun e s => do
  e.refuseIf (o.rk == 7 && o.sc) 35
  e.aligned (tileUses o)
  let sh ← e.config
  e.refuseIf (sh.spn = 0) 0
  let r ← e.record o.rk.toNat
  let (o0, o1) := e.tileOrg o
  e.refuseIf (r.fmt != .n8) 35
  e.refuseIf (o0 % (groupBytes sh.fmt.bits (keptOf sh.spn) : Int) != 0) 27
  e.refuseIf (o.sc && (sh.fmt != .f4 || r.pair)) r.num
  let scr ← (if o.sc then do
      let q ← e.record (o.rk.toNat + 1)
      e.refuseIf (q.fmt != .n8) q.num
      pure (some q)
    else pure none : Except Stop (Option Rec))
  e.need (tileUses o)
  e.tileReach s .read (weightBoxes sh r scr o0 o1)
  pure (.wbld r scr o.t.toNat o0 o1)

/-- MMA (R262). -/
def capMma (o : OpMma) : MatCapture := fun e _ => do
  let sh ← e.config
  e.refuseIf (o.ty != sh.fmt) 10
  e.refuseIf (o.wb != (sh.spn != 0)) 3
  e.refuseIf (sh.fmt == .f4 && sh.k / 8 ≤ o.blk.toNat) 19
  let x ← e.bound o.d.toNat (some sh) 43
  e.need [.t o.a.toNat, .t o.b.toNat]
  pure (.mma o.d.toNat x.banks o.a.toNat o.b.toNat o.blk.toNat o.wb)

/-- SCACC (R263).
Log entry 36 (DEDUCED). -/
def capScacc (o : OpScacc) : MatCapture := fun e _ => do
  e.refuseIf (o.d = o.a) 35
  let sh ← e.config
  let x ← e.bound o.d.toNat (some sh) 43
  let p ← e.bound o.a.toNat (some sh) 35
  e.refuseIf (!p.tagRet) 35
  e.need [useS o.b 1 27]
  pure (.scacc o.d.toNat x.banks o.a.toNat p.banks (e.w.s o.b.toNat))

/-- ACCZ (R264). -/
def capAccz (o : OpAccz) : MatCapture := fun e _ => do
  let x ← e.bound o.d.toNat none 43
  pure (.accz o.d.toNat x.banks)

/-- The banks that a command writes, and whether it leaves a plane tag. -/
def MatOp.writes (sh : Option Shape) : MatOp → Option (List Nat × Bool)
  | .mma _ b _ _ _ _ => some (b, sh.any (fun h => h.fmt == .f4))
  | .scacc _ b _ _ _ => some (b, false)
  | .accz _ b => some (b, false)
  | .tld .. | .tst .. | .wbld .. => none

/-! ## Pieces and K steps (R257, R261) -/

/-- The walk of a tile command: its box and its scale box, and how many units of each make one group. A block and its scale are one
unit (R94), so they lie in one piece. -/
structure TileWalk where
  box : Rec × List Int × List Nat
  scale : Option (Rec × List Int × List Nat)
  w : Nat
  v : Nat

def TileWalk.groups (t : TileWalk) : Nat := t.box.1.units t.box.2.2 / t.w

/-- The walk of a command that reads or writes memory. -/
def MatOp.walk (sh : Shape) : MatOp → Option TileWalk
  | .tld r scr _ rows mx o0 o1 =>
    let bs := tileBoxes sh r scr rows mx o0 o1
    bs.head?.map (fun b => ⟨b, bs[1]?, if scr.isSome then r.row (if mx then min 32 sh.k else 8) else 1, if scr.isSome then 1 else 0⟩)
  | .tst r scr _ rows o0 o1 =>
    let bs := tileBoxes sh r scr rows false o0 o1
    bs.head?.map (fun b => ⟨b, bs[1]?, if scr.isSome then r.row 8 else 1, if scr.isSome then 1 else 0⟩)
  | .wbld r scr _ o0 o1 =>
    let bs := weightBoxes sh r scr o0 o1
    bs.head?.map (fun b => ⟨b, bs[1]?, if scr.isSome then groupBytes sh.fmt.bits (keptOf sh.spn) else 1, if scr.isSome then 3 else 0⟩)
  | .mma .. | .scacc .. | .accz .. => none

/-- The page of the first unit in bounds among units `lo` to `lo + n − 1` of a box. -/
def Env.boxPage (e : Env) (s : State) (b : Rec × List Int × List Nat) (lo n : Nat) : Option Nat :=
  (List.range n).findSome? (fun i =>
    let ix := b.1.at' b.2.1 b.2.2 (lo + i)
    if b.1.inside ix = 0 then none else some (e.pageAt s b.1 (b.1.va ix)))

/-- Where the pieces of a tile command begin in its groups, or the K steps of MMA: 16 values of k, the whole command for f4 (R261).
SCACC and ACCZ are not divided. -/
def Env.matCuts (e : Env) (s : State) (sh : Option Shape) (op : MatOp) : List Nat :=
  match sh with
  | none => [0]
  | some h =>
    match op.walk h with
    | some t => pieceCuts t.groups (t.w * t.box.1.unit) (fun i =>
        [e.boxPage s t.box (i * t.w) t.w, t.scale.bind (fun b => e.boxPage s b (i * t.v) t.v)])
    | none => match op with
      | .mma .. => if h.fmt == .f4 then [0] else List.range (h.k / 16)
      | _ => [0]

def State.matDepth (s : State) (core q : Nat) : Nat := (s.matQ.filter (fun c => c.core == core && c.q == q)).length

/-- Enter a matrix command (R261). -/
def State.enterMat (s : State) (i : Issuer) (core q : Nat) (sh : Option Shape) (op : MatOp) (cuts : List Nat) :
    Nat × State :=
  let (id, s) := s.fresh
  let c : MatCmd := { id := id, core := core, q := q, by' := i, shape := sh, op := op, started := false,
                      after := s.fenceOf core (8 + q), cuts := cuts, piece := 0 }
  let s := match op.writes sh with
    | some (b, tag) => s.modHandle core b (fun h => { h with tagRet := tag })
    | none => s
  (id, { s with matQ := s.matQ ++ [c] }.countIn i.wg (8 + q))

/-- A matrix command in a warp. -/
def matOp (g : Guard) (opc : Nat) (mq : Bool) (cap : MatCapture) : Op := collectively g fun e s =>
  match cap e s with
  | .error st => st.res
  | .ok op =>
    let q := if mq then 1 else 0
    if 16 ≤ s.matDepth e.c.core q then .hold s
    else .ok (s.enterMat (e.issuer opc) e.c.core q e.w.shape op (e.matCuts s e.w.shape op)).2

def opTld (o : OpTile) : Op := matOp o.g 0xC1 o.mq (capTile o false)
def opTst (o : OpTile) : Op := matOp o.g 0xC2 o.mq (capTile o true)
def opWbld (o : OpTile) : Op := matOp o.g 0xC3 o.mq (capWbld o)
def opMma (o : OpMma) : Op := matOp o.g 0xC4 o.mq (capMma o)
def opScacc (o : OpScacc) : Op := matOp o.g 0xC5 o.mq (capScacc o)
def opAccz (o : OpAccz) : Op := matOp o.g 0xC8 o.mq (capAccz o)

/-! ## The arithmetic of the engine -/

/-- The exact sum of the products of a group (R118). -/
def groupSum (f : FSpec) (flush : Bool) (a b : List Nat) : XVal :=
  sumX (List.zipWith (fun x y => (mulX (f.input flush x) (f.input flush y)).1) a b)

/-- One group of 16 added to an accumulator (R118). Flush mode reaches the operands, the rounded group sum and the accumulator.
Log entry 79 (DESIGN CHOICE). -/
def groupStep (f : FSpec) (flush : Bool) (acc : Nat) (a b : List Nat) : Nat :=
  let fin := fun (x : XVal) => specF32.output flush (specF32.round .rne x).1
  let t := specF32.input flush (fin (groupSum f flush a b))
  fin (addX .rne (specF32.input flush acc) t).1

/-- Integer MMA: exact products, a wrapping sum (R118, R262). -/
def intDot (signed : Bool) (bits acc : Nat) (a b : List Nat) : Nat :=
  modW 32 ((List.zipWith (fun x y => readInt signed bits x * readInt signed bits y) a b).foldl (· + ·) (acc : Int))

/-- One K step of an element of MMA (R262) from its operands of that step: the group of 16 at `k`, or for f4 the exact plane value of
a block. -/
def mmaStep (sh : Shape) (flush : Bool) (blk k acc : Nat) (a b : List Nat) : Nat :=
  let cut := fun (x : List Nat) => (x.drop (16 * k)).take 16
  match sh.fmt with
  | .f4 =>
    let cut := fun (x : List Nat) => (x.drop (8 * blk)).take 8
    (specF32.round .rne (groupSum specF4 false (cut a) (cut b))).1
  | t => match t.fspec with
    | some f => groupStep f flush acc (cut a) (cut b)
    | none => intDot t.isSigned t.bits acc (cut a) (cut b)

/-- D + P × sa × sb × band (R116, R263). -/
def scaccElem (flush : Bool) (d p sa sb band : Nat) : Nat :=
  let ps := (mulX (mulX (specF32.input flush p) (specE3m5.value sa)).1 (specE3m5.value sb)).1
  let bv := specBf16.input flush band
  let term := match bv with
    | .fin .. => if sa = 0 || sb = 0 then .zero false else (mulX ps bv).1
    | _ => (mulX ps bv).1
  specF32.output flush (specF32.round .rne (addX .rne (specF32.input flush d) term).1).1

/-- An element imported from an MX block (R115): its value under the block's scale, rounded to the granted format. -/
def mxElem (src dst : Fmt) (scale c : Nat) : Nat :=
  match dst.fspec with
  | none => 0
  | some d =>
    let v : XVal := match src.fspec with
      | some f => f.value c
      | none => scaleX (.ofInt (signedOf 8 c)) (-6)
    let x : XVal := if scale = 255 then .nan else scaleX v ((scale : Int) - 127)
    (d.round .rne x).1

/-! ## The commands at work -/

/-- Read units `lo` to `lo + n − 1` of a box, with the fills of R59. -/
def State.boxRead (s : State) (who : Who) (b : Rec × List Int × List Nat) (lo n : Nat) :
    Except CFault (State × List Byte × List (Nat × Option Nat)) :=
  let (r, org, size) := b
  (List.range n).foldl (fun acc i =>
    match acc with
    | .error h => .error h
    | .ok (s, out, ls) =>
      let ix := r.at' org size (lo + i)
      let ins := r.inside ix
      if ins = 0 then .ok (s, out ++ r.unitFill, ls)
      else
        match s.engRead who r (r.va ix) r.unit with
        | .error h => .error h
        | .ok (s, bs, l) => .ok (s, out ++ (if r.nib then bs.map (fun y => nibMerge ins y 0) else bs), ls ++ l)) (.ok (s, [], []))

/-- Write those of units `lo` to `lo + n − 1` of a box that are in bounds. -/
def State.boxWrite (s : State) (x : EngCtx) (id core : Nat) (so : Bool) (b : Rec × List Int × List Nat) (lo n : Nat)
    (data : Nat → List Byte) : Except CFault State :=
  let (r, org, size) := b
  (List.range n).foldl (fun acc i =>
    match acc with
    | .error h => .error h
    | .ok s =>
      let ix := r.at' org size (lo + i)
      let ins := r.inside ix
      if ins = 0 then .ok s
      else
        let bs := data (lo + i)
        s.engWrite x.who id x.x.key core so r (r.va ix) bs
          (if r.nib && ins != 3 then some (fun old => [nibMerge ins (bs.headD 0) (old.headD 0)]) else none)) (.ok s)

/-- The code of element `i` of `bits`-wide elements in a list of bytes. -/
def codeIn (bits : Nat) (bs : List Byte) (i : Nat) : Nat :=
  fld (leNat ((bs.drop (i * bits / 8)).take (ceilDiv bits 8))) (i * bits % 8) bits

/-- A piece of a load, groups `[a, b)` of its walk: the data at `off` of the tile and the scales at 8,192, or with `mx` the elements
rounded to the granted format (R115, R255). -/
def State.tileLoad (s : State) (x : EngCtx) (core t off : Nat) (sh : Shape) (w : TileWalk) (mx : Bool) (a b : Nat) : Except CFault State :=
  match s.boxRead x.who w.box (a * w.w) ((b - a) * w.w) with
  | .error h => .error h
  | .ok (s, bs, l1) =>
    match (match w.scale with
      | some q => s.boxRead x.who q (a * w.v) ((b - a) * w.v)
      | none => .ok (s, [], [])) with
    | .error h => .error h
    | .ok (s, sc, l2) =>
      let s := s.askLines x.x.key core x.die (l1 ++ l2)
      let r := w.box.1
      if mx then
        let n := min 32 sh.k
        .ok (s.tileWrite t (2 * a * n) ((List.range ((b - a) * n)).flatMap (fun k =>
          leBytes 2 (mxElem r.fmt sh.fmt (codeIn 8 sc (k / n)) (codeIn r.fmt.bits bs k)))))
      else .ok ((s.tileWrite t (off + a * w.w * r.unit) bs).tileWrite t (8192 + a * w.v) sc)

/-- A TST is ordered as SO when a unit that it writes lies on an SO page (R97). -/
def State.storeSo (s : State) (x : EngCtx) (w : TileWalk) : Bool :=
  let so := fun (q : Rec × List Int × List Nat) => s.engSo x.who .write q.1 (q.1.boxVas q.2.1 q.2.2)
  so w.box || w.scale.any so

/-- Some units of groups `[a, b)` of a walk are written by read-modify-writes. -/
def TileWalk.halves (w : TileWalk) (a b : Nat) : Bool :=
  let half := fun (q : Rec × List Int × List Nat) (n : Nat) => !(q.1.spanVas q.2.1 q.2.2 (a * n) (b * n) q.1.half).isEmpty
  half w.box w.w || w.scale.any (fun q => half q w.v)

/-- The writes of an instruction become one unit, which reaches memory at one moment (R94). -/
def State.oneUnit (s : State) (id : Nat) : State := { s with writes := updateWhere (·.id == id) (fun w => { w with unit := true }) s.writes }

/-- Write groups `[a, b)` of the walk of TST. -/
def State.storeGroups (s : State) (x : EngCtx) (core t : Nat) (w : TileWalk) (id : Nat) (so : Bool) (a b : Nat) : Except CFault State :=
  (s.boxWrite x id core so w.box (a * w.w) ((b - a) * w.w) (fun i => s.tileBytes t (i * w.box.1.unit) w.box.1.unit)).bind (fun s =>
    match w.scale with
    | some q => s.boxWrite x id core so q (a * w.v) ((b - a) * w.v) (fun i => s.tileBytes t (8192 + i) 1)
    | none => .ok s)

/-- A piece of TST, groups `[a, b)` of its walk. Each block and its scale are one write: they travel as one unit, or, where a part of
them is written at its home at once, both are (R94). -/
def State.tileStore (s : State) (x : EngCtx) (core t : Nat) (w : TileWalk) (a b : Nat) : Except CFault State :=
  let so := s.storeSo x w
  let s := s.soDrain x.die so
  if w.scale.isNone then
    let (id, s) := s.fresh
    s.storeGroups x core t w id so a b
  else
    (List.range (b - a)).foldl (fun (acc : Except CFault State) i => acc.bind (fun s =>
      let (id, s) := s.fresh
      (s.storeGroups x core t w id (so || w.halves (a + i) (a + i + 1)) (a + i) (a + i + 1)).map (·.oneUnit id))) (.ok s)

/-- The scales of block `blk` of the first `n` rows of a tile. -/
def State.scales (s : State) (t k n blk : Nat) : List Nat := (List.range n).map (fun i => s.tileScale t k i blk)

/-- The plane tag of a core's banks.
Log entry 36 (DEDUCED). -/
def State.tagOf (s : State) (core : Nat) (banks : List Nat) : Option PlaneTag :=
  (((s.warps.filter (fun p => p.1 / 32 == core)).flatMap (fun p => p.2.handles))
    ++ ((s.seqrs.filter (·.core == core)).flatMap (·.handles))).findSome? (fun (h : Nat × Handle) =>
      if h.2.banks = banks then h.2.tag else none)

/-- A scale code that no rule gives: SCACC before any plane tag has been left (R261, R263).
Log entry 36 (DEDUCED). -/
def freeScale (n i : Nat) : Nat := packCodes 1 ((List.range 8).map (fun b => (Config.freeBit (2 * (8 * (n + i) + b))).toNat))

/-- Write each element of an accumulator from its old value. -/
def State.accMap (s : State) (core : Nat) (banks : List Nat) (sh : Shape) (f : Nat → Nat → Nat → Nat) : State :=
  (List.range (sh.m * sh.n)).foldl (fun t i => t.accPut core banks i (f (i / sh.n) (i % sh.n) (s.accGet core banks i))) s

/-- The handle's step count and plane tag after a command that wrote it. -/
def State.stepped (s : State) (core : Nat) (banks : List Nat) (tag : Option PlaneTag) : State :=
  s.modHandle core banks (fun h => { h with steps := h.steps + 1, tag := tag })

/-- The flush mode of a command. -/
def EngCtx.flush (x : EngCtx) : Bool := x.mode.getLsbD 0

/-- The tiles and the banks that a command accesses. -/
def MatOp.storage : MatOp → List Nat × List Nat
  | .tld _ _ t _ _ _ _ | .tst _ _ t _ _ _ | .wbld _ _ t _ _ => ([t], [])
  | .mma _ b ta tb _ _ => ([ta, tb], b)
  | .scacc _ b _ p _ => ([], b ++ p)
  | .accz _ b => ([], b)

/-- Note a command's accesses to its tiles and banks (R74). -/
def State.matTouch (s : State) (c : MatCmd) : State :=
  let (ts, bs) := c.op.storage
  (ts.foldl (fun t i => t.touchTile c.core (s.tileKey c.core c.by'.slot i % 64)) s).touchBanks c.core bs

/-- Perform the next piece or K step of a command.
Log entry 35 (DEDUCED). -/
def State.matRun (s : State) (c : MatCmd) (x : EngCtx) : Except CFault State :=
  let sh := c.shape.getD ⟨0, 0, 0, .n8, 0⟩
  let tile := s.tileKey c.core c.by'.slot
  let last : Bool := c.cuts.length ≤ c.piece + 1
  let s := s.matTouch c
  let span := fun (w : TileWalk) => (c.cuts.getD c.piece 0, c.cuts.getD (c.piece + 1) w.groups)
  match c.op with
  | .tld _ _ t _ mx _ _ =>
    match c.op.walk sh with
    | some w => s.tileLoad x c.core (tile t) 0 sh w mx (span w).1 (span w).2
    | none => .ok s
  | .wbld _ _ t _ _ =>
    match c.op.walk sh with
    | some w => s.tileLoad x c.core (tile t) 10240 sh w false (span w).1 (span w).2
    | none => .ok s
  | .tst _ _ t _ _ _ =>
    match c.op.walk sh with
    | some w => s.tileStore x c.core (tile t) w (span w).1 (span w).2
    | none => .ok s
  | .mma _ banks ta tb blk wb =>
    let bits := sh.fmt.bits
    let as := (List.range sh.m).map (s.tileRow (tile ta) bits sh.k)
    let bs := (List.range sh.n).map (fun j =>
      if wb then s.weightRow (tile tb) bits (keptOf sh.spn) sh.k j else s.tileRow (tile tb) bits sh.k j)
    let tag : Option PlaneTag :=
      if sh.fmt == .f4 then some ⟨s.scales (tile ta) sh.k sh.m blk, s.scales (tile tb) sh.k sh.n blk⟩ else none
    let s := s.accMap c.core banks sh (fun i j acc => mmaStep sh x.flush blk c.piece acc (as.getD i []) (bs.getD j []))
    .ok (if last then s.stepped c.core banks tag else s)
  | .scacc _ banks _ plane band =>
    let n := s.free
    let (tag, s) := match s.tagOf c.core plane with
      | some t => (t, s)
      | none => (⟨(List.range sh.m).map (freeScale n), (List.range sh.n).map (freeScale (n + sh.m))⟩,
                 { s with free := s.free + 8 * (sh.m + sh.n) })
    .ok ((s.accMap c.core banks sh (fun i j d => scaccElem x.flush d (s.accGet c.core plane (i * sh.n + j)) (tag.sa.getD i 0)
      (tag.sb.getD j 0) (fld band.toNat (16 * (j / 64)) 16))).stepped c.core banks none)
  | .accz _ banks =>
    .ok (({ s with banks := banks.foldl (fun t b => Tbl.clear t ((256 * c.core + b) * 2048) 2048) s.banks }).stepped c.core banks none)

/-! ## Start and completion (R261) -/

def State.matHead (s : State) (core q : Nat) : Option MatCmd := s.matQ.find? (fun c => c.core == core && c.q == q)

/-- What the engine reads through: it awaits the replies of a peer that gives none, since the traffic to it is dropped (R334). -/
def State.matMute (s : State) (c : MatCmd) : Bool :=
  let mute := fun (r : Rec) => r.peer?.any (s.drops (s.dieOf c.core))
  match c.op with
  | .tld r q .. | .wbld r q .. => mute r || q.any mute
  | _ => false

/-- The next piece finds no permit for what it accesses at its home at once (R343). -/
def State.matFull (s : State) (c : MatCmd) (x : EngCtx) : Bool :=
  match c.op.walk (c.shape.getD ⟨0, 0, 0, .n8, 0⟩) with
  | none => false
  | some w =>
    let a := c.cuts.getD c.piece 0
    let b := c.cuts.getD (c.piece + 1) w.groups
    let full := fun (s : State) (write all : Bool) =>
      let of := fun (q : Rec × List Int × List Nat) (n : Nat) =>
        s.engFull x.who c.core write all q.1 ((q.1.spanVas q.2.1 q.2.2 (a * n) (b * n)).map (·, q.1.unit))
      of w.box w.w || w.scale.any (fun q => of q w.v)
    match c.op with
    | .tst .. =>
      let so := s.storeSo x w
      full (s.soDrain x.die so) true (so || w.halves a b)
    | _ => full s false false

/-- Two commands of one core access a tile or bank that one of them writes: a shared bank, or a shared tile that one of them loads.
Log entry 35 (DEDUCED). -/
def MatCmd.clashes (c d : MatCmd) : Bool :=
  let loads := fun (o : MatOp) => match o with
    | .tld .. | .wbld .. => true
    | .tst .. | .mma .. | .scacc .. | .accz .. => false
  let share := fun (x y : List Nat) => x.any y.contains
  c.core == d.core && (share c.op.storage.2 d.op.storage.2
    || c.by'.slot == d.by'.slot && (loads c.op || loads d.op) && share c.op.storage.1 d.op.storage.1)

/-- A command may start: those that a QFENCE named have completed, and none of the other queue that has started clashes with it, so each
element holds the value of one of the two (R103, R261). -/
def State.matMayStart (s : State) (c : MatCmd) : Bool := c.after.isEmpty && !s.matQ.any (fun d => d.started && d.id != c.id && c.clashes d)

/-- Pieces or K steps of a started command are left. -/
def MatCmd.left (c : MatCmd) : Bool := c.piece < c.cuts.length

def State.setMat (s : State) (id : Nat) (f : MatCmd → MatCmd) : State := { s with matQ := updateWhere (·.id == id) f s.matQ }

/-- MATRIX_COMMAND_START: the next command starts; or the next piece or K step of one that has started is performed (R257, R261).
Log entry 35 (DEDUCED). -/
def matStart (a : EvArgs) (s : State) : Option State :=
  match s.matHead a.a a.b with
  | none => none
  | some c =>
    if !s.engLive c.by' then none
    else if !c.started then (if s.matMayStart c then some (s.setMat c.id (fun c => { c with started := true })) else none)
    else if !c.left || s.matMute c then none
    else (s.engCtx c.by').bind (fun x =>
      if s.matFull c x then none
      else some (s.orHalt c.by' 3 ((s.matRun c x).map (fun t => t.setMat c.id (fun c => { c with piece := c.piece + 1 })))))

/-- MATRIX_COMMAND_COMPLETE: every piece or K step is performed; the command's count, and the release at .dev that the count is
(R69, R261).
Log entries 20 (DEDUCED), 35 (DEDUCED). -/
def matComplete (a : EvArgs) (s : State) : Option State :=
  match s.matHead a.a a.b with
  | none => none
  | some c =>
    if !(c.started && !c.left && s.engLive c.by') then none
    else
      some (({ s.drainDie (s.dieOf c.core) with matQ := s.matQ.filter (·.id != c.id) }).countOut c.by' (8 + c.q) c.id)

def execMatrixCommandStart (s : State) : Out := event "MATRIX_COMMAND_START" matStart s
def execMatrixCommandComplete (s : State) : Out := event "MATRIX_COMMAND_COMPLETE" matComplete s

/-- The next event of the matrix engines, if one is enabled. -/
def matNext (s : State) : Option (Instr × EvArgs) :=
  s.matQ.findSome? (fun c =>
    if (s.matHead c.core c.q).map (·.id) != some c.id || !s.engLive c.by' then none
    else
      let ev : EvArgs := { a := c.core, b := c.q }
      if c.started && !c.left then some (.matrixCommandComplete, ev)
      else if (matStart ev s).isSome then some (.matrixCommandStart, ev)
      else none)

/-! ## The meanings -/

def execShape (o : OpShape) (s : State) : Out := performOp (opShape o) s
def execAballoc (o : OpAballoc) (s : State) : Out := performOp (opAballoc o) s
def execAbfree (o : OpAbfree) (s : State) : Out := performOp (opAbfree o) s
def execAccrd (o : OpAcc) (s : State) : Out := performOp (opAccrd o) s
def execAccwr (o : OpAcc) (s : State) : Out := performOp (opAccwr o) s
def execTld (o : OpTile) (s : State) : Out := performOp (opTld o) s
def execTst (o : OpTile) (s : State) : Out := performOp (opTst o) s
def execWbld (o : OpTile) (s : State) : Out := performOp (opWbld o) s
def execMma (o : OpMma) (s : State) : Out := performOp (opMma o) s
def execScacc (o : OpScacc) (s : State) : Out := performOp (opScacc o) s
def execAccz (o : OpAccz) (s : State) : Out := performOp (opAccz o) s

end Sys2Proof.Machine
end

