-- ==== Sys2Proof/Machine/Amplitude.lean ====
section
/-!
DEFINITION. Machine/Amplitude.lean: the amplitude engines: the state and its map, QMAP and QGATE, exchanges, gates and
probability sums (R268 to R281, R123).
-/

namespace Sys2Proof.Machine

/-! ## The state and its map (R268, R269) -/

/-- The qubits. -/
def QMap.n (m : QMap) : Nat := m.l + m.db + m.rb
/-- Bytes of an amplitude, and the format of a part. -/
def QMap.es (m : QMap) : Nat := if m.c128 then 16 else 8
def QMap.part (m : QMap) : FSpec := if m.c128 then specF64 else specF32
def QMap.pos (m : QMap) (q : Nat) : Nat := m.perm.getD q 0
/-- The address of the amplitude at a local offset on the die of index `d`. -/
def QMap.va (m : QMap) (d o : Nat) : Nat := (m.base + (d * 2 ^ m.l + o) * m.es) % 2 ^ 64
/-- Bit `p` of the physical index of local offset `o`, on the die of index `d` of group member `g`. -/
def QMap.bitAt (m : QMap) (d g o p : Nat) : Bool := if p < m.l then bit o p else bit (d + g * 2 ^ m.db) (p - m.l)

/-- Exchange the positions of two qubits. -/
def swapPos (perm : List Nat) (a b : Nat) : List Nat := (perm.set a (perm.getD b 0)).set b (perm.getD a 0)

/-- The first exchange that a gate needs: the old position P of the target, h, and the map after it; none when no target is
away, and `some none` when no local position is free (R276). -/
def nextExch (m : QMap) (t c : List Nat) : Option (Option (Nat × Nat × List Nat)) :=
  let used := ((t ++ c).map m.pos).filter (· < m.l)
  match ((List.range m.n).filter (fun p => m.l ≤ p && t.any (fun q => m.pos q == p))).head? with
  | none => none
  | some p =>
    match ((List.range m.l).filter (fun h => !used.contains h)).getLast? with
    | none => some none
    | some h =>
      match m.perm.findIdx? (· == p), m.perm.findIdx? (· == h) with
      | some a, some b => some (some (p, h, swapPos m.perm a b))
      | _, _ => some none

/-- The map after every exchange of a gate, or none. -/
def exchAll (t c : List Nat) : Nat → QMap → Option QMap
  | 0, m => some m
  | n + 1, m =>
    match nextExch m t c with
    | none => some m
    | some none => none
    | some (some (_, _, p)) => exchAll t c n { m with perm := p }

/-- ADDR of a gate's descriptor. -/
def AmpOp.addr : AmpOp → Nat
  | .setMap _ => 0
  | .gate _ addr _ _ _ _ _ => addr

/-- The map that a command leaves.
Log entry 44 (DEDUCED). -/
def AmpOp.after (op : AmpOp) (m : Option QMap) : Option QMap :=
  match op with
  | .setMap n => some n
  | .gate mode _ t c _ _ _ =>
    m.map (fun m =>
      if mode = 0 || mode = 2 then (exchAll t c 5 m).getD m
      else if mode = 3 then { m with perm := swapPos m.perm (t.getD 0 0) (t.getD 1 0) } else m)

/-- The map of a context on a die. -/
def State.qmap? (s : State) (ctx die : Nat) : Option QMap := Tbl.find? s.qmaps (4 * ctx + die)

/-- The map as the commands that the engine has accepted will leave it: what a command is checked against at issue.
Log entry 44 (DEDUCED). -/
def State.qmapAhead (s : State) (ctx die : Nat) : Option QMap :=
  (s.ampQ.filter (fun c => c.die == die && c.by'.ctx == ctx && c.stage != .done)).foldl (fun m c => c.op.after m) (s.qmap? ctx die)

/-! ## Commands at issue (R270, R271, R273, R274) -/

/-- A record for addresses that a descriptor names. -/
def plainRec : Rec := ⟨0, 0, [], [], .n8, 0, 0, 0, false, 0⟩

/-- An address in every 128 KiB block of a region. -/
def regionVas (va len : Nat) : List Nat :=
  (List.range (ceilDiv (va % 2 ^ 17 + len) (2 ^ 17))).map (fun i => if i = 0 then va else va - va % 2 ^ 17 + i * 2 ^ 17)

/-- Translate every page of a region (R63, item 5). -/
def Env.regionReach (e : Env) (s : State) (need : Need) (va len : Nat) : Except Stop Unit :=
  e.reach s need plainRec ((regionVas va len).map (· % 2 ^ 64)) 1 false

/-- The octet that A names, in bits. -/
def Env.octet (e : Env) (a : SReg) : Except Stop Nat := do
  e.need [useS a 8 35]
  pure (wordsAt e.w.s a.toNat 8)

def State.ampDepth (s : State) (die q : Nat) : Nat := (s.ampQ.filter (fun c => c.die == die && c.q == q)).length

/-- Enter an amplitude command, or hold it while its queue is full (R279). -/
def Env.enterAmp (e : Env) (s : State) (opc q : Nat) (op : AmpOp) : Res :=
  let die := s.dieOf e.c.core
  if 16 ≤ s.ampDepth die q then .hold s
  else
    let (id, s) := s.fresh
    let c : AmpCmd := { id := id, die := die, q := q, by' := e.issuer opc, op := op, stage := .waiting, seq := 0, map := none, mat := [],
                        grants := 0 }
    .ok ({ s with ampQ := s.ampQ ++ [c] }.countIn e.wg.id (10 + q))

/-- The reserved bits of the QMAP.set descriptor. -/
def setReserved : List Nat := [70, 71, 74, 75, 76, 77, 78, 79] ++ (List.range 12).map (· + 84) ++ (List.range 147).map (· + 109)

/-- The first offending bit of a QMAP.set descriptor (R271, R384). -/
def Env.setOffence (e : Env) (s : State) (d : Nat) (c128 : Bool) : Option Nat :=
  let p := e.part s
  let i := p.pdie (s.dieOf e.c.core)
  let l := fld d 64 6
  let db := fld d 72 2
  let rb := fld d 80 4
  let rbase := fld d 96 13
  leastOf [firstSet d setReserved, firstSet d (List.range 7),
    if l = 0 || (if c128 then 32 else 33) < l then some 64 else none,
    if 2 < db || p.dies.length < 2 ^ db || 2 ^ db ≤ i then some 72 else none,
    if 13 < rb || (rb != 0 && !s.ranked) then some 80 else none,
    if s.rank < rbase || rbase + 2 ^ rb ≤ s.rank then some 96 else none]

/-- QMAP.set (R271). -/
def opQmapSet (o : OpQ) : Op := fun e s =>
  if o.q.toNat < 10 || 13 < o.q.toNat then (e.ill 43).res
  else
    match (do
        e.refuseIf (o.mode != 0) 3
        e.refuseIf (o.ty != .c64 && o.ty != .c128) 10
        let d ← e.octet o.a
        if e.g o.g = 0 then pure none
        else
          let c128 := o.ty == .c128
          (match e.setOffence s d c128 with
            | some b => .error (e.ill b)
            | none => .ok ())
          let m : QMap := { base := fld d 0 64, l := fld d 64 6, db := fld d 72 2, rb := fld d 80 4, rbase := fld d 96 13,
                            c128 := c128, perm := List.range (fld d 64 6 + fld d 72 2 + fld d 80 4), seq := 0 }
          e.regionReach s .write (m.va ((e.part s).pdie (s.dieOf e.c.core)) 0) (2 ^ m.l * m.es)
          pure (some m) : Except Stop (Option QMap)) with
    | .error st => st.res
    | .ok none => .ok s
    | .ok (some m) => e.enterAmp s 0xCD (o.q.toNat - 10) (.setMap m)

/-- The value of QMAP.rd (R272). -/
def qmapValue (m : Option QMap) (q : Nat) : Nat :=
  match m with
  | none => if q = 255 then 0 else 2 ^ 32 - 1
  | some m =>
    if q = 255 then m.n + m.l * 2 ^ 8 + m.db * 2 ^ 16 + m.rb * 2 ^ 20 + (if m.c128 then 2 ^ 30 else 0) + 2 ^ 31
    else if m.n ≤ q then 2 ^ 32 - 1
    else
      let p := m.pos q
      p + 2 ^ 6 * (if p < m.l then 0 else if p < m.l + m.db then 1 else 2)

/-- QMAP.rd (R272): it waits for the commands that its workgroup had entered when it began. -/
def opQmapRd (o : OpQrd) : Op := fun e s =>
  let code := o.q.toNat
  if code < 10 || 13 < code then (e.ill 35).res
  else
    match (do
        e.refuseIf (o.ty != .n8) 10
        e.need [useS o.d 1 43] : Except Stop Unit) with
    | .error st => st.res
    | .ok _ =>
      if e.g o.g = 0 then .ok s
      else
        let g := (s.wg? e.wg.id).getD e.wg
        let t := match e.w.wait (lowest e.c.mask) with
          | .qmapRd _ t => t
          | _ => Tbl.get 0 g.entered code
        if (Tbl.get 0 g.done code + 2 ^ 32 - t) % 2 ^ 32 < 2 ^ 31 then
          let v := qmapValue (s.qmap? e.x.key (s.dieOf e.c.core)) o.k.toNat
          .ok ((e.upd s (fun w => w.setS o.d.toNat (BitVec.ofNat 32 v))).l1Flush e.c.core)
        else .hold (e.upd s (fun w => w.waitIn (lanesOf e.c.mask) (fun _ => .qmapRd code t)))

/-- The reserved bits of the QGATE descriptor (Table 4). -/
def gateReserved : List Nat :=
  (List.range 256).filter (fun i => !(i < 70
    || [96, 104, 112, 120, 128, 160, 168, 176, 184].any (fun b => b ≤ i && i < b + 6)
    || (192 ≤ i && i < 197) || (200 ≤ i && i < 205)))

/-- KT's range and KC's range by mode (Table 5). -/
def gateCounts (mode kt kc : Nat) : Bool × Bool :=
  match mode with
  | 2 => (1 ≤ kt && kt ≤ 4, 1 ≤ kc && kc ≤ 5 - kt)
  | 3 => (kt == 2, kc == 0)
  | _ => (1 ≤ kt && kt ≤ 5, kc == 0)

/-- The lowest set bit at or above which an address offends. -/
def lowBit (n k : Nat) : Option Nat := (List.range k).find? (bit n)

/-- The qubits of a descriptor: their bit positions and values. -/
def gateQubits (d kt kc : Nat) : List (Nat × Nat) :=
  (((List.range (min kt 5)).map (fun i => 96 + 8 * i)) ++ ((List.range (min kc 4)).map (fun i => 160 + 8 * i))).map
    (fun b => (b, fld d b 6))

/-- The first offending bit of a QGATE descriptor for a map of `n` qubits (R274, item 1). -/
def gateOffence (d mode n : Nat) : Option Nat :=
  let kt := fld d 64 3
  let kc := fld d 67 3
  let (okt, okc) := gateCounts mode kt kc
  let qs := gateQubits d kt kc
  leastOf [firstSet d gateReserved, if okt then none else some 64, if okc then none else some 67,
    lowBit d (if mode = 3 then 64 else if mode = 4 then 3 else 4),
    ((qs.zipIdx).find? (fun p => n ≤ p.1.2 || (qs.take p.2).any (fun x => x.2 == p.1.2))).map (fun p => p.1.1)]

/-- Elements that ADDR names. -/
def gateElems (mode kt : Nat) : Nat := if mode = 1 then 2 ^ kt else if mode = 0 || mode = 2 then 4 ^ kt else 0

/-- QGATE (R273, R274). -/
def opQgate (o : OpQ) : Op := fun e s =>
  let mode := o.mode.toNat
  if o.q.toNat < 10 || 13 < o.q.toNat then (e.ill 43).res
  else
    match (do
        e.refuseIf (5 ≤ mode) 3
        e.refuseIf (o.ty != .c64 && o.ty != .c128) 10
        let d ← e.octet o.a
        if e.g o.g = 0 then pure none
        else
          match s.qmapAhead e.x.key (s.dieOf e.c.core) with
          | none => .error (e.ill 0xFFFE)
          | some m =>
            e.refuseIf ((if m.c128 then Fmt.c128 else Fmt.c64) != o.ty) 0xFFFD
            (match gateOffence d mode m.n with
              | some b => .error (e.ill b)
              | none => .ok ())
            let kt := fld d 64 3
            let kc := fld d 67 3
            let qs := (gateQubits d kt kc).map (·.2)
            let t := qs.take kt
            let c := qs.drop kt
            e.refuseIf ((mode = 0 || mode = 2) && (exchAll t c 5 m).isNone) 0xFFFF
            let addr := fld d 0 64
            (if mode = 4 then e.regionReach s .write addr 8
              else if mode = 3 then .ok ()
              else e.regionReach s .read addr (gateElems mode kt * m.es))
            pure (some (.gate mode addr t c (fld d 192 5) (fld d 200 5) m.c128)) : Except Stop (Option AmpOp)) with
    | .error st => st.res
    | .ok none => .ok s
    | .ok (some op) => e.enterAmp s 0xCC (o.q.toNat - 10) op

/-! ## The engine at work -/

/-- What an engine works under: its context, its die index and its group member. -/
structure AmpCtx where
  x : EngCtx
  who : Who
  d : Nat
  g : Nat

def State.ampCtx (s : State) (c : AmpCmd) (m : QMap) : Option AmpCtx :=
  (s.engCtx c.by').map (fun x => ⟨x, { x.who with core := none }, x.who.part.pdie c.die, s.rank - m.rbase⟩)

/-- Read bytes for an amplitude engine; a gate that has no matrix reads none. Each read is queued as a merge read.
Log entry 77 (DEDUCED). -/
def State.ampRead (s : State) (x : AmpCtx) (die va n : Nat) : Except CFault (State × List Byte) :=
  if n = 0 then .ok (s, [])
  else
    match s.engRead x.who plainRec va n with
    | .error h => .error h
    | .ok (s, bs, ls) => .ok (s.askLines x.x.x.key (1000 + die) die ls, bs)

/-- Some page of a region is an SO page: a command that touches it is ordered as SO throughout (R97). -/
def State.ampSo (s : State) (x : AmpCtx) (need : Need) (va len : Nat) : Bool := s.engSo x.who need plainRec (regionVas va len)

def State.ampWrite (s : State) (x : AmpCtx) (id die : Nat) (so : Bool) (va : Nat) (bs : List Byte) : Except CFault State :=
  s.engWrite x.who id x.x.x.key (1000 + die) so plainRec va bs none

/-- The two parts of an amplitude or a matrix element. -/
def partsOf (f : FSpec) (bs : List Byte) : XVal × XVal :=
  let n := f.width / 8
  (f.value (leNat (bs.take n)), f.value (leNat ((bs.drop n).take n)))

def bytesOf (f : FSpec) (re im : XVal) : List Byte :=
  leBytes (f.width / 8) (f.round .rne re).1 ++ leBytes (f.width / 8) (f.round .rne im).1

/-- The exact products whose sum is one part of u × x. -/
def cmulRe (u x : XVal × XVal) : List XVal := [(mulX u.1 x.1).1, (mulX u.2 x.2).1.flip]
def cmulIm (u x : XVal × XVal) : List XVal := [(mulX u.1 x.2).1, (mulX u.2 x.1).1]

/-- Element `i` of a matrix or diagonal. -/
def elemAt (m : QMap) (mat : List Byte) (i : Nat) : XVal × XVal := partsOf m.part ((mat.drop (i * m.es)).take m.es)

/-- One new amplitude: row `r` of the matrix applied to a group (R275). -/
def gateRow (m : QMap) (mat : List Byte) (xs : List (XVal × XVal)) (r : Nat) : List Byte :=
  let ts := xs.zipIdx.map (fun p => (elemAt m mat (r * xs.length + p.2), p.1))
  bytesOf m.part (sumX (ts.flatMap (fun p => cmulRe p.1 p.2))) (sumX (ts.flatMap (fun p => cmulIm p.1 p.2)))

/-- Read several amplitudes by local offset. -/
def State.ampGets (s : State) (x : AmpCtx) (die : Nat) (m : QMap) (os : List Nat) : Except CFault (State × List (XVal × XVal)) :=
  os.foldl (fun acc o => match acc with
    | .error h => .error h
    | .ok (s, out) => match s.ampRead x die (m.va x.d o) m.es with
      | .error h => .error h
      | .ok (s, bs) => .ok (s, out ++ [partsOf m.part bs])) (.ok (s, []))

/-- A command is ordered as SO when a page of its die's state is an SO page, or one of its matrix or diagonal (R97). -/
def State.ampOrder (s : State) (x : AmpCtx) (op : AmpOp) (m : QMap) : Bool :=
  s.ampSo x .read (m.va x.d 0) (2 ^ m.l * m.es) || (match op with
    | .gate mode addr t _ _ _ _ => gateElems mode t.length != 0 && s.ampSo x .read addr (gateElems mode t.length * m.es)
    | .setMap _ => false)

/-- The engine finds no permit for some amplitudes of its die, which it reads, or with `write` writes, at their homes at once (R343). -/
def State.ampFull (s : State) (x : AmpCtx) (die : Nat) (op : AmpOp) (m : QMap) (write : Bool) (os : List Nat) : Bool :=
  s.ampOrder x op m &&
    (s.soDrain die write).engFull x.who (1000 + die) write write plainRec (os.map (fun o => (m.va x.d o, m.es)))

/-- Write several amplitudes by local offset. -/
def State.ampPuts (s : State) (x : AmpCtx) (id : Nat) (cmd : AmpCmd) (m : QMap) (ps : List (Nat × List Byte)) : Except CFault State :=
  let so := s.ampOrder x cmd.op m
  ps.foldl (fun acc p => match acc with
    | .error h => .error h
    | .ok s => s.ampWrite x id cmd.die so (m.va x.d p.1) p.2) (.ok (s.soDrain cmd.die so))

/-- The offset of a group's member `j`: the target bits of `o` replaced. -/
def groupOffset (pos : List Nat) (o j : Nat) : Nat := (pos.zipIdx).foldl (fun a p => if bit j p.2 then a + 2 ^ p.1 else a) o

/-- The amplitudes of a piece: at most 128 KiB of them (R281). -/
def QMap.perPiece (m : QMap) : Nat := 2 ^ 17 / m.es

/-- Part `k` of a list cut into parts of `n`. -/
def cutOf {α : Type} (n k : Nat) (l : List α) : List α := (l.drop (k * n)).take n

/-- The lowest local offset of every group of a gate, ascending. -/
def QMap.groups (m : QMap) (t : List Nat) : List Nat := (List.range (2 ^ m.l)).filter (fun o => (t.map m.pos).all (fun p => !bit o p))

/-- The groups of a piece. -/
def QMap.groupsPer (m : QMap) (t : List Nat) : Nat := max 1 (m.perPiece / 2 ^ t.length)

/-- The pieces of a gate's own work: of .diag and .prob by offsets, of .u and .ctl by whole groups. -/
def QMap.gatePieces (m : QMap) (mode : Nat) (t : List Nat) : Nat :=
  if mode = 1 || mode = 4 then ceilDiv (2 ^ m.l) m.perPiece else ceilDiv (m.groups t).length (m.groupsPer t)

/-- Piece `k` of .u and .ctl on the local state: its groups in ascending lowest offset (R275). -/
def State.ampApply (s : State) (x : AmpCtx) (cmd : AmpCmd) (m : QMap) (t c : List Nat) (cval k : Nat) : Except CFault State :=
  let pos := t.map m.pos
  let acts := fun (o : Nat) => (c.zipIdx).all (fun q => m.bitAt x.d x.g o (m.pos q.1) == bit cval q.2)
  let (id, s) := s.fresh
  ((cutOf (m.groupsPer t) k (m.groups t)).filter acts).foldl (fun acc o => match acc with
    | .error h => .error h
    | .ok s =>
      let os := (List.range (2 ^ t.length)).map (groupOffset pos o)
      match s.ampGets x cmd.die m os with
      | .error h => .error h
      | .ok (s, xs) => s.ampPuts x id cmd m (os.zipIdx.map (fun p => (p.1, gateRow m cmd.mat xs p.2)))) (.ok s)

/-- The index that the target bits of an offset form. -/
def AmpCtx.index (x : AmpCtx) (m : QMap) (t : List Nat) (o : Nat) : Nat :=
  (t.zipIdx).foldl (fun a p => if m.bitAt x.d x.g o (m.pos p.1) then a + 2 ^ p.2 else a) 0

/-- Piece `k` of .diag (R275). -/
def State.ampDiag (s : State) (x : AmpCtx) (cmd : AmpCmd) (m : QMap) (t : List Nat) (k : Nat) : Except CFault State :=
  let (id, s) := s.fresh
  (cutOf m.perPiece k (List.range (2 ^ m.l))).foldl (fun acc o => match acc with
    | .error h => .error h
    | .ok s =>
      match s.ampGets x cmd.die m [o] with
      | .error h => .error h
      | .ok (s, xs) =>
        let dg := elemAt m cmd.mat (x.index m t o)
        let v := xs.headD (.nan, .nan)
        s.ampPuts x id cmd m [(o, bytesOf m.part (sumX (cmulRe dg v)) (sumX (cmulIm dg v)))]) (.ok s)

/-- One addition of a probability sum in f64 (R123).
Log entry 43 (DEDUCED). -/
def probAdd (a b : Nat) : Nat := (specF64.round .rne (addX .rne (specF64.value a) (specF64.value b)).1).1

/-- |a|² (R123). -/
def probTerm (x : XVal × XVal) : Nat := (specF64.round .rne (addX .rne (mulX x.1 x.1).1 (mulX x.2 x.2).1).1).1

/-- A fold from the left. -/
def probSum : List Nat → Nat
  | [] => 0
  | x :: xs => xs.foldl probAdd x

/-- A sum continued from the left: what has been added, and the further terms. -/
def probMore (acc : Option Nat) (ts : List Nat) : Option Nat :=
  match acc, ts with
  | some a, ts => some (ts.foldl probAdd a)
  | none, [] => none
  | none, t :: ts => some (ts.foldl probAdd t)

/-- The die's sum after piece `k` (R275, R278).
Log entry 43 (DEDUCED). -/
def State.ampSum (s : State) (x : AmpCtx) (cmd : AmpCmd) (m : QMap) (t : List Nat) (val k : Nat) (acc : Option Nat) :
    Except CFault (State × Option Nat) :=
  let os := (cutOf m.perPiece k (List.range (2 ^ m.l))).filter (fun o => x.index m t o == val % 2 ^ t.length)
  match s.ampGets x cmd.die m os with
  | .error h => .error h
  | .ok (s, xs) => .ok (s, probMore acc (xs.map probTerm))

/-! ## Exchanges (R276, R277) -/

def State.setAmp (s : State) (id : Nat) (f : AmpCmd → AmpCmd) : State := { s with ampQ := updateWhere (·.id == id) f s.ampQ }

def State.setMap (s : State) (ctx die : Nat) (m : QMap) : State := { s with qmaps := Tbl.put s.qmaps (4 * ctx + die) m }

/-- The map changes at the end of an exchange (R276), unless another command has replaced it since (R279).
Log entry 44 (DEDUCED). -/
def State.changeMap (s : State) (ctx die : Nat) (m : QMap) (perm : List Nat) : State :=
  match s.qmap? ctx die with
  | some cur => if cur = { m with seq := cur.seq } then s.setMap ctx die { cur with perm := perm } else s
  | none => s

/-- The fingerprint of a map and a gate: all of both.
Log entry 43 (DEDUCED). -/
def fingerprint (m : QMap) (op : AmpOp) : Nat :=
  packCodes 64 (m.perm ++ (match op with
    | .setMap _ => []
    | .gate mode addr t c cval val _ => [mode, addr, t.length] ++ t ++ [c.length] ++ c ++ [cval, val]))

/-- The local offsets that leave in an exchange, ascending: those whose bit h is not x.
Log entry 45 (DEDUCED). -/
def leaving (m : QMap) (x : AmpCtx) (p h : Nat) : List Nat :=
  (List.range (2 ^ m.l)).filter (fun o => bit o h != m.bitAt x.d x.g 0 p)

/-- The partner of an exchange of bit P: a die index of this package, or a rank.
Log entry 45 (DEDUCED). -/
def partner (m : QMap) (x : AmpCtx) (p : Nat) : Nat ⊕ Nat :=
  if p < m.l + m.db then .inl (Nat.xor x.d (2 ^ (p - m.l))) else .inr (m.rbase + Nat.xor x.g (2 ^ (p - m.l - m.db)))

/-- The amplitudes of one piece of an exchange: 128 KiB across a bridge (R281), 4 KiB across Tilic (R366, R374). -/
def exchPer (m : QMap) (x : AmpCtx) (p : Nat) : Nat := (if (partner m x p).isLeft then 2 ^ 17 else 2 ^ 12) / m.es

/-- The pieces of an exchange. -/
def exchPieces (m : QMap) (x : AmpCtx) (p h : Nat) : Nat := max 1 (ceilDiv (leaving m x p h).length (exchPer m x p))

/-- The pieces that an engine grants ahead to its partner package (R366, R374).
Log entry 46 (DEDUCED). -/
def ampAhead : Nat := 16

/-- Grant a partner package some pieces of exchange `idx` of a command (R374). -/
def State.grantAmp (s : State) (x : AmpCtx) (cmd : AmpCmd) (idx rank n : Nat) : State :=
  if n = 0 then s else s.tilic cmd.die rank (.ampGrant rank x.d cmd.q cmd.seq idx n)

/-- The partner of an exchange does not match: the amplitude-mismatch cause here, and on a partner package, which is told (R277).
Log entry 45 (DEDUCED). -/
def State.ampMismatch (s : State) (x : AmpCtx) (c : AmpCmd) (m : QMap) (p : Nat) : State :=
  let s := s.engHalt c.by' 4 { cause := 42 }
  match partner m x p with
  | .inl _ => s
  | .inr r => s.tilic c.die r (.ampBad r x.d c.q)

/-- An exchange comes before exchange `idx` of the command of number `seq`.
Log entry 45 (DEDUCED). -/
def exchOlder (seq' xidx seq idx : Nat) : Bool := seq' < seq || (seq' == seq && xidx < idx)

/-- What a gate does next, after `idx` exchanges: the next exchange, with the grants that have come for it, or its own work. A partner
without a route is the amplitude-exchange cause (R384); grants left of an earlier exchange do not match (R277). -/
def State.ampGoOn (s : State) (x : AmpCtx) (cmd : AmpCmd) (m : QMap) (idx : Nat) : State :=
  let put := fun (s : State) (st : AmpStage) (n : Nat) => s.setAmp cmd.id (fun c => { c with stage := st, grants := n })
  match cmd.op with
  | .setMap _ => s
  | .gate _ _ t c _ _ _ =>
    match nextExch m t c with
    | some none => s.engHalt cmd.by' 4 { cause := 42 }
    | none => put s (.applying 0) 0
    | some (some (p, h, _)) =>
      match partner m x p with
      | .inl _ => put s (.exchanging idx 0 0) 0
      | .inr r =>
        let mine := s.ampGrants.filter (fun g => g.ctx == cmd.by'.ctx && g.die == cmd.die && g.q == cmd.q)
        let now := mine.filter (fun g => g.seq == cmd.seq && g.xidx == idx)
        let s := put { s with ampGrants := s.ampGrants.filter (!now.contains ·) } (.exchanging idx 0 0)
          ((now.map (·.n)).foldl (· + ·) 0)
        if (s.stripe x.who.part r 0).isNone then s.engHalt cmd.by' 4 { cause := 43 }
        else if mine.any (fun g => exchOlder g.seq g.xidx cmd.seq idx) then s.ampMismatch x cmd m p
        else s.grantAmp x cmd idx r (min ampAhead (exchPieces m x p h))

/-- Send piece `i` of the exchange of bit `p` against position `h`. -/
def State.ampSend (s : State) (x : AmpCtx) (cmd : AmpCmd) (m : QMap) (p h i : Nat) : Except CFault State := do
  let (s, bs) ← (cutOf (exchPer m x p) i (leaving m x p h)).foldlM (fun (acc : State × List Byte) o => do
    let (s, b) ← acc.1.ampRead x cmd.die (m.va x.d o) m.es
    pure (s, acc.2 ++ b)) (s, [])
  let ty := if m.c128 then 17 else 16
  let fp := fingerprint m cmd.op
  match partner m x p with
  | .inl d => pure { s with ampMsgs := s.ampMsgs ++ [⟨cmd.die, x.who.part.dies.getD d 0, cmd.q, x.x.x.key, cmd.seq, ty, fp, i, bs⟩] }
  | .inr r => match s.stripe x.who.part r i with
    | some port => pure (s.tilicAt port (.amp r x.d cmd.q cmd.seq ty fp i bs))
    | none => .error { cause := 43 }

/-- The head of an amplitude queue. -/
def State.ampHead (s : State) (die q : Nat) : Option AmpCmd := s.ampQ.find? (fun c => c.die == die && c.q == q)

/-- The die index of a physical die's command works on the group's map: the dies that take part. -/
def ampDies (m : QMap) (p : Part) : List Nat := p.dies.take (2 ^ m.db)

/-- The sums of every engine of this package that takes part, if each has reached the command of sequence number `seq`: die
number, command and sum.
Log entry 45 (DEDUCED). -/
def State.probSums (s : State) (ctx : Nat) (dies : List Nat) (seq : Nat) : Option (List (AmpCmd × Nat)) :=
  dies.foldr (fun d acc =>
    match acc, s.ampQ.findSome? (fun c => if c.die == d && c.by'.ctx == ctx && c.seq == seq then (match c.stage with
        | .summed v => some (c, v.toNat)
        | _ => none) else none) with
    | some l, some x => some (x :: l)
    | _, _ => none) (some [])

/-- A die's sum stands; the last of the package sends the package's sum to its peers. -/
def State.ampSummed (s : State) (x : AmpCtx) (cmd : AmpCmd) (m : QMap) (v : Nat) : State :=
  let s := s.setAmp cmd.id (fun c => { c with stage := .summed (BitVec.ofNat 64 v) })
  match s.probSums cmd.by'.ctx (ampDies m x.who.part) cmd.seq with
  | some sums =>
    let own := BitVec.ofNat 64 (probSum (sums.map (·.2)))
    let others := ((List.range (2 ^ m.rb)).map (· + m.rbase)).filter (· != s.rank)
    others.foldl (fun s r => s.tilic cmd.die r (.probSum r own)) s
  | none => s

/-- The local offsets that the next piece of a command accesses, and whether it writes them. -/
def AmpCtx.offsets (x : AmpCtx) (cmd : AmpCmd) (m : QMap) : List Nat × Bool :=
  match cmd.op, cmd.stage with
  | .gate _ _ t c _ _ _, .exchanging _ sent _ => (match nextExch m t c with
    | some (some (p, h, _)) => (cutOf (exchPer m x p) sent (leaving m x p h), false)
    | _ => ([], false))
  | .gate mode _ t _ _ _ _, .applying k =>
    (if mode = 1 then cutOf m.perPiece k (List.range (2 ^ m.l))
      else (cutOf (m.groupsPer t) k (m.groups t)).flatMap (fun o => (List.range (2 ^ t.length)).map (groupOffset (t.map m.pos) o)), true)
  | .gate .., .summing k _ => (cutOf m.perPiece k (List.range (2 ^ m.l)), false)
  | _, _ => ([], false)

/-- The next piece finds no permit for what it accesses at its home at once (R343). -/
def State.ampWaits (s : State) (x : AmpCtx) (cmd : AmpCmd) (m : QMap) : Bool :=
  let (os, w) := x.offsets cmd m
  s.ampFull x cmd.die cmd.op m false os || (w && s.ampFull x cmd.die cmd.op m true os)

/-- The next piece of a command that has started (R281): of its exchange, while the partner package has granted it, or of its own
work; none when it has no piece to perform now. -/
def State.ampPiece (s : State) (x : AmpCtx) (cmd : AmpCmd) (m : QMap) : Option (Except CFault State) :=
  match cmd.op, cmd.stage with
  | .gate _ _ t c _ _ _, .exchanging k sent got =>
    match nextExch m t c with
    | some (some (p, h, _)) =>
      let far := (partner m x p).isRight
      if exchPieces m x p h ≤ sent || (far && cmd.grants = 0) then none
      else some ((s.ampSend x cmd m p h sent).map (fun s =>
        s.setAmp cmd.id (fun c => { c with stage := .exchanging k (sent + 1) got, grants := c.grants - 1 })))
    | _ => none
  | .gate mode _ t c cval _ _, .applying k =>
    let next := if m.gatePieces mode t ≤ k + 1 then AmpStage.done else .applying (k + 1)
    some ((if mode = 1 then s.ampDiag x cmd m t k else s.ampApply x cmd m t c cval k).map (fun s =>
      s.setAmp cmd.id (fun c => { c with stage := next })))
  | .gate mode _ t _ _ val _, .summing k acc =>
    some ((s.ampSum x cmd m t val k (acc.map (·.toNat))).map (fun r =>
      if m.gatePieces mode t ≤ k + 1 then r.1.ampSummed x cmd m (r.2.getD 0)
      else r.1.setAmp cmd.id (fun c => { c with stage := .summing (k + 1) (r.2.map (BitVec.ofNat 64)) })))
  | _, _ => none

/-- A command starts: QMAP.set sets the map; a gate is checked against the map as it stands, reads its matrix, and begins its first
exchange or its own work (R271, R274, R275). -/
def State.ampBegin (s : State) (c : AmpCmd) : Option State :=
  let stop := fun (s : State) (seq : Nat) => s.setAmp c.id (fun c => { c with stage := .refused, seq := seq })
  match c.op, s.qmap? c.by'.ctx c.die with
  | .setMap m, _ => some ((s.setMap c.by'.ctx c.die m).setAmp c.id (fun c => { c with stage := .done }))
  | .gate .., none => some ((stop s 0).engHalt c.by' 4 { cause := 42 })
  | .gate mode addr t cs _ _ c128, some m =>
    if m.c128 != c128 || (t ++ cs).any (m.n ≤ ·) || ((mode = 0 || mode = 2) && (exchAll t cs 5 m).isNone) then
      some ((stop s m.seq).engHalt c.by' 4 { cause := 42 })
    else
      match s.ampCtx c m with
      | none => none
      | some x => if s.engFull x.who (1000 + c.die) false false plainRec [(addr, gateElems mode t.length * m.es)] then none
        else match s.ampRead x c.die addr (gateElems mode t.length * m.es) with
        | .error h => some ((stop s m.seq).engHalt c.by' 4 h)
        | .ok (s, mat) =>
          let m' := { m with seq := (m.seq + 1) % 2 ^ 64 }
          let put := fun (s : State) (st : AmpStage) => s.setAmp c.id (fun c => { c with stage := st })
          let s := (s.setMap c.by'.ctx c.die m').setAmp c.id (fun c => { c with seq := m.seq, map := some m, mat := mat })
          some (match mode with
            | 3 => put (s.setMap c.by'.ctx c.die { m' with perm := swapPos m.perm (t.getD 0 0) (t.getD 1 0) }) .done
            | 1 => put s (.applying 0)
            | 4 => put s (.summing 0 none)
            | _ => s.ampGoOn x { c with seq := m.seq, map := some m } m 0)

/-- AMP_COMMAND_START: the head of queue `b` of die `a` starts, or performs its next piece (R281). -/
def ampStart (a : EvArgs) (s : State) : Option State :=
  match s.ampHead a.a a.b with
  | none => none
  | some c =>
    if !s.engLive c.by' then none
    else if c.stage == .waiting then s.ampBegin c
    else
      match c.map.bind (fun m => (s.ampCtx c m).map (fun x => (x, m))) with
      | none => none
      | some (x, m) => if s.ampWaits x c m then none else (s.ampPiece x c m).map (s.orHalt c.by' 4)

/-- A piece of the partner's half arrives: one that does not match is the amplitude-mismatch cause; else it is written into its
offsets, once the own piece of these has left (R276, R277). -/
def State.ampTake (s : State) (x : AmpCtx) (c : AmpCmd) (m : QMap) (p h seq ty fp : Nat) (bs : List Byte) : Option State :=
  match c.stage with
  | .exchanging k sent got =>
    let os := cutOf (exchPer m x p) got (leaving m x p h)
    if seq != c.seq || ty != (if m.c128 then 17 else 16) || fp != fingerprint m c.op || bs.length != os.length * m.es then
      some (s.ampMismatch x c m p)
    else if sent ≤ got || s.ampFull x c.die c.op m true os then none
    else
      let (id, s) := s.fresh
      some (s.orHalt c.by' 4 ((s.ampPuts x id c m (os.zipIdx.map (fun q => (q.1, (bs.drop (q.2 * m.es)).take m.es)))).map (fun s =>
        let s := s.setAmp c.id (fun c => { c with stage := .exchanging k sent (got + 1) })
        match partner m x p with
        | .inr r => s.grantAmp x c k r (if got + ampAhead < exchPieces m x p h then 1 else 0)
        | .inl _ => s)))
  | _ => none

/-- The exchange with a partner package in which the head of a queue stands for a context: what it works under, its map, the bit, and the
exchange's index. -/
def State.ampFar (s : State) (c : AmpCmd) (ctx : Nat) : Option (AmpCtx × QMap × Nat × Nat) :=
  match c.op, c.stage, c.map with
  | .gate _ _ t cs _ _ _, .exchanging k _ _, some m =>
    if c.by'.ctx != ctx || !s.engLive c.by' then none
    else match s.ampCtx c m, nextExch m t cs with
      | some x, some (some (p, _, _)) => if (partner m x p).isRight then some (x, m, p, k) else none
      | _, _ => none
  | _, _, _ => none

/-- Grants of a partner package arrive at die a, queue b: d of them for exchange `xidx` of the command of number c of a context (R374).
Those for a later exchange are kept; those of an earlier one show that the partners do not match (R277).
Log entry 45 (DEDUCED). -/
def State.ampGranted (s : State) (a : EvArgs) (ctx xidx : Nat) : State :=
  let keep := { s with ampGrants := s.ampGrants ++ [⟨ctx, a.a, a.b, a.c, xidx, a.d⟩] }
  match s.ampHead a.a a.b with
  | none => keep
  | some c =>
    match s.ampFar c ctx with
    | none => keep
    | some (x, m, p, k) =>
      if a.c = c.seq && xidx = k then s.setAmp c.id (fun c => { c with grants := c.grants + a.d })
      else if exchOlder a.c xidx c.seq k then s.ampMismatch x c m p
      else keep

/-- AMP_EXCHANGE_ARRIVAL (R277): die a, queue b. From a die of this package it is the message of that queue that waits. From a peer it
comes through a port, which with the context makes the second of `pairs`: a piece, whose number c, type d, fingerprint e, data and index,
in `pairs`, are the world's; with f = 2, d grants for number c, and the exchange's index in `pairs`; with f = 3, that the partner does not
match. f = 1 says that the partner's context has ended or its package is fenced.
Log entry 45 (DEDUCED). -/
def ampArrival (a : EvArgs) (s : State) : Option State :=
  let (port, ctx) := a.pairs.getD 1 (0, 0)
  if a.f = 2 then (if (s.ctx? ctx).isNone then s.inlet port s else s.inlet port (s.ampGranted a ctx (a.pairs.headD (0, 0)).2))
  else match s.ampHead a.a a.b with
  | none => none
  | some c =>
    match c.op, c.stage, c.map with
    | .gate _ _ t cs _ _ _, .exchanging _ _ got, some m =>
      match s.ampCtx c m, nextExch m t cs with
      | some x, some (some (p, h, _)) =>
        if !s.engLive c.by' then none
        else
          match partner m x p with
          | .inl d =>
            let src := x.who.part.dies.getD d 0
            (match s.ampMsgs.findIdx? (fun g => g.dst == c.die && g.src == src && g.q == c.q && g.ctx == c.by'.ctx) with
            | some i =>
              let g := s.ampMsgs.getD i ⟨0, 0, 0, 0, 0, 0, 0, 0, []⟩
              { s with ampMsgs := s.ampMsgs.eraseIdx i }.ampTake x c m p h g.seq g.ty g.fp g.data
            | none => none)
          | .inr r =>
            if a.f = 1 then
              (if s.fencedRanks.contains r then some (s.engHalt c.by' 4 { cause := 43 })
               else s.inlet port (s.engHalt c.by' 4 { cause := 43 }))
            else if !s.carries port then s.inlet port s
            else if a.f = 3 then some (s.engHalt c.by' 4 { cause := 42 })
            else if (a.pairs.headD (0, 0)).1 != got then none
            else s.ampTake x c m p h a.c a.d a.e a.data
      | _, _ => none
    | _, _, _ => none

/-- AMP_EXCHANGE_COMPLETE (R276): both directions have completed, the map changes, and the gate goes on.
Log entry 43 (DEDUCED). -/
def ampExchanged (a : EvArgs) (s : State) : Option State :=
  match s.ampHead a.a a.b with
  | none => none
  | some c =>
    match c.op, c.stage, c.map with
    | .gate _ _ t cs _ _ _, .exchanging k sent got, some m =>
      match s.ampCtx c m, nextExch m t cs with
      | some x, some (some (p, h, perm)) =>
        let n := exchPieces m x p h
        if !s.engLive c.by' || sent != n || got != n then none
        else
          let m' := { m with perm := perm }
          some (((s.changeMap c.by'.ctx c.die m perm).setAmp c.id (fun c => { c with map := some m' })).ampGoOn x c m' (k + 1))
      | _, _ => none
    | _, _, _ => none

/-- AMP_PROB_FOLD (R123, R278), after whose write the counts may rise (R280): die a, queue b; `pairs` are the package sums of the peers by
rank; f = 1 says that a participating peer's context has ended or halted, or its package is fenced.
Log entries 43 (DEDUCED), 45 (DEDUCED). -/
def ampFold (a : EvArgs) (s : State) : Option State :=
  match s.ampHead a.a a.b with
  | none => none
  | some c =>
    match c.op, c.stage, c.map with
    | .gate .., .summed _, some m =>
      let p := (s.part? (c.by'.ctx / 8)).getD ⟨0, [0], 50, 0⟩
      let ranks := (List.range (2 ^ m.rb)).map (· + m.rbase)
      let others := ranks.filter (· != s.rank)
      if !s.engLive c.by' then none
      else if a.f = 1 && !others.isEmpty then some (s.engHalt c.by' 4 { cause := 43 })
      else
        match s.probSums c.by'.ctx (ampDies m p) c.seq with
        | none => none
        | some sums =>
          if !others.all (fun r => a.pairs.any (·.1 == r)) then none
          else
            let own := probSum (sums.map (·.2))
            let tot := probSum (ranks.map (fun r => if r = s.rank then own else (Tbl.find? a.pairs r).getD 0))
            let w := (sums.headD (c, 0)).1
            let addr := w.op.addr
            match s.ampCtx w m with
            | none => none
            | some x =>
              let so := s.ampSo x .write addr 8 || s.ampOrder x w.op m
              let (id, s) := (s.soDrain w.die so).fresh
              if s.engFull x.who (1000 + w.die) true so plainRec [(addr, 8)] then none
              else some (s.orHalt w.by' 4 ((s.ampWrite x id w.die so addr (leBytes 8 tot)).map (fun s =>
                sums.foldl (fun s q => s.setAmp q.1.id (fun c => { c with stage := .done })) (s.drainDie w.die))))
    | _, _, _ => none

/-- AMP_COMMAND_COMPLETE (R280). -/
def ampComplete (a : EvArgs) (s : State) : Option State :=
  match s.ampHead a.a a.b with
  | some c =>
    if c.stage == .done && s.engLive c.by' then
      let s := s.drainDie c.die
      some ({ s with ampQ := s.ampQ.filter (·.id != c.id) }.countOut c.by' (10 + c.q) c.id)
    else none
  | none => none

def execAmpCommandStart (s : State) : Out := event "AMP_COMMAND_START" ampStart s
def execAmpExchangeArrival (s : State) : Out := event "AMP_EXCHANGE_ARRIVAL" ampArrival s
def execAmpExchangeComplete (s : State) : Out := event "AMP_EXCHANGE_COMPLETE" ampExchanged s
def execAmpProbFold (s : State) : Out := event "AMP_PROB_FOLD" ampFold s
def execAmpCommandComplete (s : State) : Out := event "AMP_COMMAND_COMPLETE" ampComplete s

/-- A partner of the current exchange or sum is fenced. -/
def State.ampFenced (s : State) (c : AmpCmd) (m : QMap) : Bool :=
  match c.op, c.stage, s.ampCtx c m with
  | .gate _ _ t cs _ _ _, .exchanging .., some x => (match nextExch m t cs with
    | some (some (p, _, _)) => (match partner m x p with
      | .inr r => s.fencedRanks.contains r
      | .inl _ => false)
    | _ => false)
  | .gate .., .summed _, _ => s.fencedRanks.any (fun r => m.rbase ≤ r && r < m.rbase + 2 ^ m.rb)
  | _, _, _ => false

/-- The next event of the amplitude engines that needs nothing from outside. -/
def ampNext (s : State) : Option (Instr × EvArgs) :=
  s.ampQ.findSome? (fun c =>
    if (s.ampHead c.die c.q).map (·.id) != some c.id || !s.engLive c.by' then none
    else
      let fenced := c.map.any (s.ampFenced c)
      let ev : EvArgs := { a := c.die, b := c.q, f := if fenced then 1 else 0 }
      let try' := fun (i : Instr) (f : EvArgs → State → Option State) => if (f ev s).isSome then some (i, ev) else none
      match c.stage with
      | .waiting => try' .ampCommandStart ampStart
      | .done => some (.ampCommandComplete, ev)
      | .refused => none
      | .summed _ => try' .ampProbFold ampFold
      | .applying _ | .summing .. => try' .ampCommandStart ampStart
      | .exchanging .. =>
        let far : Bool := match c.op, c.map with
          | .gate _ _ t cs _ _ _, some m => (match s.ampCtx c m, nextExch m t cs with
            | some x, some (some (p, _, _)) => (partner m x p).isRight
            | _, _ => false)
          | _, _ => false
        (try' .ampExchangeComplete ampExchanged).or (try' .ampCommandStart ampStart) |>.or
          (if !far || fenced then try' .ampExchangeArrival ampArrival else none))

/-! ## The meanings -/

def execQmapSet (o : OpQ) (s : State) : Out := performOp (opQmapSet o) s
def execQmapRd (o : OpQrd) (s : State) : Out := performOp (opQmapRd o) s
def execQgate (o : OpQ) (s : State) : Out := performOp (opQgate o) s

end Sys2Proof.Machine
end

