-- ==== Sys2Proof/Machine/Cru.lean ====
section
/-!
DEFINITION. Machine/Cru.lean: the cluster reduction unit and CRED (R265 to R267), with the merge of R122.
-/

namespace Sys2Proof.Machine

/-! ## The merge (R122) -/

/-- A softmax triple, as f32 encodings. -/
structure Triple where
  m : Nat
  l : Nat
  o : List Nat
  deriving DecidableEq, Repr

/-- An exact value rounded to f32 under RNE and the flush mode. -/
def toF32 (flush : Bool) (x : XVal) : Nat := specF32.output flush (specF32.round .rne x).1

/-- e^x rounded to f32, for x at or below zero, or a NaN. -/
def expCode (flush : Bool) (x : XVal) : Nat :=
  match x with
  | .nan => specF32.qnan
  | .inf n => if n then 0 else specF32.infCode
  | .fin n a e =>
    if cmpX x (.fin true 128 0) == .lt then 0
    else
      let (m, k) := expRat false n a e
      toF32 flush (.fin false m k)

/-- α for one m and the merged m. -/
def alphaCode (flush : Bool) (m m' : XVal) : Nat :=
  match m with
  | .inf true => 0
  | _ => expCode flush (addX .rne m m'.flip).1

/-- A term of the merge: +0 where α is 0. -/
def mergeTerm (flush : Bool) (x a : Nat) : XVal :=
  let v := specF32.input flush a
  if v.isZero then .zero false else (mulX (specF32.input flush x) v).1

/-- Merge two triples.
Log entry 39 (DEDUCED). -/
def Triple.merge (flush : Bool) (s t : Triple) : Triple :=
  let m1 := specF32.input flush s.m
  let m2 := specF32.input flush t.m
  if m1.isNan || m2.isNan then ⟨specF32.qnan, specF32.qnan, s.o.map (fun _ => specF32.qnan)⟩
  else
    let m' := minMaxX true m1 m2
    let a1 := alphaCode flush m1 m'
    let a2 := alphaCode flush m2 m'
    let comb := fun (x y : Nat) => toF32 flush (addX .rne (mergeTerm flush x a1) (mergeTerm flush y a2)).1
    ⟨toF32 flush m', comb s.l t.l, List.zipWith comb s.o t.o⟩

/-! ## The output row (R266) -/

/-- ln of a value. -/
def lnX (x : XVal) : XVal :=
  match x with
  | .nan => .nan
  | .inf n => if n then .nan else .inf false
  | .fin n a e => if n then .nan else
    let y := lnFx a e
    .fin (y < 0) y.natAbs (-(fxp : Int))

/-- x / y rounded to f32, for y not zero. -/
def divCode (flush : Bool) (x y : XVal) : Nat :=
  match x, y with
  | .nan, _ | _, .nan | .inf _, .inf _ => specF32.qnan
  | .inf a, .fin b _ _ => specF32.sgn (a != b) + specF32.infCode
  | .fin a _ _, .inf b => specF32.sgn (a != b)
  | .fin a m e, .fin b n f => specF32.output flush (specF32.roundRat .rne (a != b) m n (e - f)).1

/-- The words of an output row: m, l, status, zero, O. -/
def Triple.row (flush fin : Bool) (t : Triple) : List Nat :=
  let v := specF32.input flush
  let again := fun (c : Nat) => toF32 flush (v c)
  let m := v t.m
  let l := v t.l
  if fin then
    if m.isNan || l.isNan then [specF32.qnan, again t.l, 2, 0] ++ t.o.map (fun _ => specF32.qnan)
    else if m == .inf true || l.isZero then [specF32.sgn true + specF32.infCode, 0, 1, 0] ++ t.o.map (fun _ => 0)
    else [toF32 flush (addX .rne m (lnX l)).1, again t.l, 0, 0] ++ t.o.map (fun c => divCode flush (v c) l)
  else
    let st := if m.isNan || l.isNan || t.o.any (fun c => (v c).isNan) then 2 else if m == .inf true then 1 else 0
    [again t.m, again t.l, st, 0] ++ t.o.map again

/-- The triple in the bytes of a row. -/
def Triple.ofBytes (bs : List Byte) (d : Nat) : Triple :=
  let w := fun k => leNat ((bs.drop (4 * k)).take 4)
  ⟨w 0, w 1, (List.range d).map (fun c => w (4 + c))⟩

/-! ## CRED -/

/-- The commands of a cluster's unit. -/
def State.cruDepth (s : State) (cl : Nat) : Nat := (s.cruQ.filter (·.cluster == cl)).length

/-- The allocations of a cluster-group that a list names, a freed workgroup's among them (R265): rank, core, scrBase.
Log entry 39 (DEDUCED). -/
def State.listed (s : State) (g : Wg) (list : Nat) : Tbl (Nat × Nat) :=
  match s.cgOf g with
  | none => []
  | some c => c.homes.filter (fun (e : Nat × Nat × Nat) => bit list e.1)

/-- The ranks of a list that share their core with another listed rank.
Log entry 39 (DEDUCED). -/
def sharedRanks (gs : Tbl (Nat × Nat)) : Nat :=
  (gs.filter (fun (g : Nat × Nat × Nat) => gs.any (fun (h : Nat × Nat × Nat) => h.1 != g.1 && h.2.1 == g.2.1))).foldl
    (fun a (g : Nat × Nat × Nat) => a + 2 ^ g.1) 0

/-- CRED (R265, R266).
Log entries 25 (DESIGN CHOICE), 39 (DEDUCED). -/
def opCred (o : OpS) : Op := collectively o.g fun e s =>
  match e.uses [useS o.a 4 35] with
  | some st => st.res
  | none =>
    let d := wordsAt e.w.s o.a.toNat 4
    let src := fld d 0 20
    let dst := fld d 32 20
    let rows := fld d 64 16
    let dcol := fld d 80 16
    let list := fld d 96 8
    let len := rows * (16 + 4 * dcol)
    let gs := s.listed e.wg list
    if fld d 20 12 != 0 || fld d 52 12 != 0 || fld d 105 23 != 0 || src % 16 != 0 || dst % 16 != 0 || rows = 0 || 256 < rows
        || dcol % 4 != 0 || dcol < 4 || 1024 < dcol then (e.ill 35).res
    else
      match e.maskTrap list with
      | some st => st.res
      | none =>
        if sharedRanks gs != 0 then (e.ill (sharedRanks gs)).res
        else if e.l.pk.scr < src + len then (e.engTrap 5 (2 ^ 31) (max src e.l.pk.scr)).res
        else if e.l.pk.scr < dst + len then (e.engTrap 5 (2 ^ 31) (max dst e.l.pk.scr)).res
        else if 8 ≤ s.cruDepth (clusterOf e.c.core) then .hold s
        else
          let (id, s) := s.fresh
          let order := (List.range 8).filterMap (fun k => (gs.map (·.2)).find? (fun (g : Nat × Nat) => g.1 == 8 * clusterOf e.c.core + k))
          let c : CruCmd := { id := id, cluster := clusterOf e.c.core, by' := e.issuer 0xCB, src := src, dst := dst, rows := rows,
                              dcol := dcol, srcs := order, fin := bit d 104, row := 0 }
          .ok { s with cruQ := s.cruQ ++ [c] }

/-! ## A row at work (R266, R267) -/

def State.cruHead (s : State) (cl : Nat) : Option CruCmd := s.cruQ.find? (·.cluster == cl)

/-- CRU_ROW_MERGE: read every listed row, fold, write the output row and set its granules. -/
def cruRow (a : EvArgs) (s : State) : Option State :=
  match s.cruHead a.a with
  | none => none
  | some c =>
    match s.engCtx c.by' with
    | none => none
    | some x =>
      if !s.engLive c.by' then none
      else
        let n := 16 + 4 * c.dcol
        let at' := fun (base : Nat) => base + c.row * n
        let ins := c.srcs.map (fun g => (g, Triple.ofBytes (s.scrBytes g.1 (g.2 + at' c.src) n) c.dcol))
        let s := ins.foldl (fun s p => s.touch p.1.1 (p.1.2 + at' c.src) n) s
        let s := match ins.map (·.2) with
          | [] => s
          | t :: ts =>
            let out := (ts.foldl (Triple.merge x.flush) t).row x.flush c.fin
            let p := x.g.scrBase + at' c.dst
            (s.scrWrite x.g.core p (out.flatMap (leBytes 4))).feSet x.g.core (granules p n) true
        some { s with cruQ := if c.rows ≤ c.row + 1 then s.cruQ.filter (·.id != c.id)
                              else updateWhere (·.id == c.id) (fun (c : CruCmd) => { c with row := c.row + 1 }) s.cruQ }

def execCruRowMerge (s : State) : Out := event "CRU_ROW_MERGE" cruRow s

/-- The next row of the reduction units. -/
def cruNext (s : State) : Option (Instr × EvArgs) :=
  s.cruQ.findSome? (fun c =>
    if (s.cruHead c.cluster).map (·.id) == some c.id && s.engLive c.by' then some (.cruRowMerge, { a := c.cluster }) else none)

/-! ## The meanings -/

def execCred (o : OpS) (s : State) : Out := performOp (opCred o) s

end Sys2Proof.Machine
end

