-- ==== Sys2Proof/Machine/Collective.lean ====
section
/-!
DEFINITION. Machine/Collective.lean: COLL and CWAIT (R250, R358 to R360), step programs and their steps (R361 to R371), and what
ends a collective early (R372, R373).
-/

namespace Sys2Proof.Machine

/-! ## COLL and CWAIT -/

/-- The formats of a collective buffer (R358). -/
def collFmt (t : Fmt) : Bool := redFmt t

/-- The first refusal of COLL's group word and record, as INFO (R358).
Log entry 84 (DESIGN CHOICE). -/
def collOffence (s : State) (gw r : Nat) : Option Nat :=
  let gbase := fld gw 0 13
  let g := fld gw 13 13 + 1
  if !s.ranked then some 768
  else
    match firstSet gw ((List.range 6).map (· + 26)) with
    | some b => some b
    | none =>
      if 8192 < gbase + g then some 13
      else if s.rank < gbase || gbase + g ≤ s.rank then some 0
      else if fld r 202 2 != 0 then some (256 + 202)
      else if fld r 64 32 = 0 then some (256 + 64)
      else if 65536 < fld r 96 32 then some (256 + 96)
      else if 18 ≤ fld r 192 5 || !collFmt (Fmt.ofCode (fld r 192 5)) then some (256 + 192)
      else none

/-- The continuation record of COLL: RES and FLAG (R359). -/
def Env.collPair (e : Env) (k r : Nat) : Except Stop (Nat × Nat) :=
  match recOffence r k with
  | some b => .error (e.ill (k + b * 256))
  | none =>
    if !bit r 204 then .ok (0, 0)
    else
      let c := wordsAt e.w.s (8 * k + 8) 8
      match firstSet c ((List.range 128).map (· + 128)) with
      | some b => .error (e.ill (k + 1 + b * 256))
      | none =>
        match e.uses [.s (8 * k + 8) 8 1 27] with
        | some st => .error st
        | none => .ok (fld c 0 64, fld c 64 64)

/-- What names a collective (R360). -/
def Coll.name (c : Coll) : CollName := ⟨c.ctx, c.gbase, c.g, c.ord⟩

/-- The key of a group word's count. -/
def groupKey (gbase g : Nat) : Nat := gbase + 2 ^ 13 * (g - 1)

/-- The COLLs that a context has issued here with a group word. -/
def State.collCount (s : State) (ctx gbase g : Nat) : Nat := ((s.ctx? ctx).map (fun x => Tbl.get 0 x.colled (groupKey gbase g))).getD 0

/-- What has arrived for a collective before its COLL. -/
def State.earlyOf (s : State) (n : CollName) : CollEarly := (s.collEarly.find? (·.name == n)).getD ⟨n, [], 0, []⟩

/-- A collective joins the queue of its context: the next ticket is its own alone, and what arrived before it is its own. -/
def State.enterColl (s : State) (c : Coll) : State :=
  let n := s.collCount c.ctx c.gbase c.g + 1
  let early := s.earlyOf { c.name with ord := n }
  { s with
    colls := s.colls ++ [{ c with ord := n, grants := early.grants, tokens := early.tokens, lost := early.lost }]
    collEarly := s.collEarly.filter (·.name != early.name)
    doneTickets := s.doneTickets.filter (· != (c.ctx, c.ticket)) }.modCtx c.ctx (fun x =>
      { x with ticket := c.ticket, colled := Tbl.set 0 x.colled (groupKey c.gbase c.g) n })

/-- COLL (R250, R358, R360), a .sys release. Its values are examined once the registers that hold them are declared (R34, R53).
Log entry 84 (DESIGN CHOICE). -/
def opColl (o : OpColl) : Op := fun e s =>
  let k := o.rk.toNat
  let us : List Use := [useS o.d 1 43, useS o.a 2 35, .s (8 * k) 8 1 27, useS o.c 1 19]
  match (do
      e.aligned us
      e.need us
      if e.g o.g = 0 then pure none
      else
        let prog := (e.w.s64 o.a.toNat).toNat
        let gw := (e.w.s o.c.toNat).toNat
        let r := wordsAt e.w.s (8 * k) 8
        e.refuseIf (s.ranked && prog % 8 != 0) 35
        (match collOffence s gw r with
          | some i => .error (e.ill i)
          | none => .ok ())
        let (res, flag) ← e.collPair k r
        pure (some (prog, gw, r, res, flag)) : Except Stop (Option (Nat × Nat × Nat × Nat × Nat))) with
  | .error st => st.res
  | .ok none => .ok s
  | .ok (some (prog, gw, r, res, flag)) =>
    if 16 ≤ (s.colls.filter (fun c => c.ctx == e.x.key && !c.running)).length then .hold s
    else
      let u := s
      let s := e.release s true .sys
      let t := e.x.ticket + 1
      let (id, s) := s.fresh
      let c : Coll := {
        id := id, part := e.x.key / 8, ctx := e.x.key, ticket := t, prog := prog, base := fld r 0 64, ext0 := fld r 64 32,
        nch := max 1 (fld r 96 32), fmt := Fmt.ofCode (fld r 192 5), res := res, flagA := flag, gbase := fld gw 0 13,
        g := fld gw 13 13 + 1, ord := 0
        ranges := e.l.leases ++ e.x.standing.map (fun (l : Nat × Lease) => { l.2 with soft := false })
        pc := e.c.pc, seq := e.l.seq, wg := e.wg.wg, running := false, step := 0, loops := [], k := [0, 0, 0, 0], sent := 0, phase := 0
        began := 0, parked := false, ending := none, grants := [], ahead := [], sends := [], recvs := [], staged := [], tokens := 0
        emptyWait := false, lost := [], winches := [] }
      e.releasing u true (e.g o.g) (.ok (e.upd (s.enterColl c) (fun w => w.setS o.d.toNat t)))

/-- CWAIT (R250). -/
def opCwait (o : OpS) : Op := checked [useS o.a 1 35] (oncePerWarp o.g fun e s =>
  .wait (e.upd s (fun w => w.waitIn (lanesOf (e.g o.g)) (fun _ => .cwait (e.w.s o.a.toNat)))) (e.g o.g))

/-! ## The accesses of the winches (R356, R357) -/

/-- The winch of a port serves a collective: it has not failed, or its spare took its number before the collective began (R373). -/
def State.winchFor (s : State) (c : Coll) (port : Nat) : Bool :=
  (s.winches.find? (·.port == port)).any (fun w => !w.failed || (w.spare.isSome && w.since ≤ c.began))

/-- What a collective works under: its context and partition, the port whose winch performs an access, and who that is. -/
structure CollCtx where
  x : Ctx
  p : Part
  port : Nat
  who : Who

/-- The die of the winch at work. -/
def CollCtx.die (x : CollCtx) : Nat := x.port / 6

/-- The same for the winch of another port. -/
def CollCtx.on (x : CollCtx) (port : Nat) : CollCtx := { x with port := port, who := { x.who with die := port / 6 } }

/-- What a collective works under in its coordinator: the lowest-numbered active winch of die index 0. Accesses are checked against
the ranges that the launch held at COLL. -/
def State.collCtx (s : State) (c : Coll) : Option CollCtx :=
  match s.ctx? c.ctx, s.part? c.part with
  | some x, some p =>
    let die := p.dies.headD 0
    let port := (((List.range 6).map (· + 6 * die)).find? (s.winchFor c)).getD (6 * die)
    some ⟨x, p, port, s.engineWho { x with standing := [] } c.ranges die none⟩
  | _, _ => none

/-- Why an access cannot be made now: its page is on its way (with the state in which that was requested), a context fault, which the
winch of a die detects, or a step word past the end of the program's lease. -/
inductive WinchErr
  | wait (s : Option State)
  | halt (die : Nat) (h : CFault)
  | past

/-- A context fault of a winch's access. -/
def CollCtx.stop (x : CollCtx) (cause va : Nat) : WinchErr := .halt x.die { cause := cause, src := 5, va := va }

/-- Translate a winch's access; an absent page under a soft range is migrated, once no shoot-down of it runs (R331). `base` is the BASE
that the address is taken from (R56). -/
def State.winchChunks (s : State) (x : CollCtx) (need : Need) (base va n : Nat) : Except WinchErr (List Chunk) :=
  if n = 0 then .ok []
  else if !canonicalVa base then .error (x.stop 36 va)
  else
    match s.chunks x.who need false none va n with
    | .ok cs => .ok cs
    | .error (d, a) =>
      match d with
      | .failed => .error (x.stop 35 a)
      | .outside | .pinned => .error (x.stop 36 a)
      | .absent =>
        if s.shooting x.x.key a then .error (.wait none)
        else match s.migOf x.x.key a, s.pageState x.x a with
        | some _, _ => .error (.wait none)
        | none, .absent l =>
          let (t, ok) := s.migrate x.x a l
          .error (if ok then .wait (some t) else x.stop 36 a)
        | none, _ => .error (x.stop 36 a)

/-- A winch's read, which is queued as a merge read; one of an SO page waits for its permit (R343).
Log entry 77 (DEDUCED). -/
def State.winchRead (s : State) (x : CollCtx) (base va n : Nat) : Except WinchErr (State × List Byte) :=
  match s.winchChunks x .read base va n with
  | .error e => .error e
  | .ok cs =>
    if !s.permits (2000 + x.port) x.die false false cs then .error (.wait none)
    else match s.checkReads cs with
    | .error h => .error (.halt x.die h)
    | .ok s =>
      let (s, bs, ls) := cs.foldl (fun (acc : State × List Byte × List (Nat × Option Nat)) c =>
        let (t, b, l) := acc.1.engChunk x.who c
        (t.keep x.who c, acc.2.1 ++ b, acc.2.2 ++ l)) (s, [], [])
      .ok (s.askLines x.x.key (2000 + x.port) x.die ls, bs)

/-- A winch's write; one to an SO page follows its die's earlier writes (R95) and waits for its permit (R343). -/
def State.winchWrite (s : State) (x : CollCtx) (base va : Nat) (bs : List Byte) : Except WinchErr State :=
  match s.winchChunks x .write base va bs.length with
  | .error e => .error e
  | .ok cs =>
    let (id, s) := (s.soDrain x.die (anySo cs)).fresh
    if !s.permits (2000 + x.port) x.die true (anySo cs) cs then .error (.wait none)
    else .ok ((s.keepAll x.who cs).writeChunks id x.x.key (2000 + x.port) x.die none (anySo cs) cs bs)

/-- Every write that the winches have made for a context is performed (R369, R371). -/
def State.drainWinches (s : State) (key : Nat) : State := s.drain (fun w => w.ctx == key && 2000 ≤ w.agent && w.agent < 4000)

/-- The writes that the winches of a collective have made are performed. -/
def State.drainColl (s : State) (id : Nat) : State :=
  match s.colls.find? (·.id == id) with
  | some c => s.drain (fun w => w.ctx == c.ctx && c.winches.any (fun p => 2000 + p == w.agent))
  | none => s

/-! ## Chunks (R359, R363) -/

def Coll.es (c : Coll) : Nat := c.fmt.bits / 8
def Coll.rank (c : Coll) (s : State) : Nat := s.rank - c.gbase

/-- A chunk: its first element and its length. -/
def Coll.chunk (c : Coll) (n : Nat) : Nat × Nat :=
  let size := ceilDiv c.ext0 c.nch
  let lo := n * size
  let hi := min c.ext0 ((n + 1) * size)
  (lo, hi - lo)

/-- The address of an element of the buffer. -/
def Coll.elemVa (c : Coll) (i : Nat) : Nat := (c.base + i * c.es) % 2 ^ 64

/-- Elements of a piece, and the pieces of a chunk of `n` elements; an empty chunk is one empty piece. -/
def Coll.perPiece (c : Coll) : Nat := 4096 / c.es
def Coll.pieces (c : Coll) (n : Nat) : Nat := max 1 (ceilDiv n c.perPiece)
/-- Piece `i` of a chunk of `n` elements: its first element within the chunk and its length. -/
def Coll.piece (c : Coll) (n i : Nat) : Nat × Nat := (i * c.perPiece, min c.perPiece (n - i * c.perPiece))

/-- A step word's fields (Table 3). -/
structure StepW where
  op : Nat
  kk : Nat
  poff : Nat
  pstr : Nat
  coff : Nat
  cstr : Nat
  rop : Nat
  qf : Nat
  low : Nat                        -- bits [31:0]
  src : Bool                       -- bit [57]
  deriving DecidableEq, Repr

def StepW.of (w : Nat) : StepW :=
  ⟨fld w 60 4, fld w 58 2, fld w 45 13, fld w 32 13, fld w 19 13, fld w 6 13, fld w 3 3, fld w 1 2, fld w 0 32, bit w 57⟩

/-- The bits below OP that an operation uses (R362). -/
def stepUses (op : Nat) : List (Nat × Nat) :=
  let kf := [(58, 2)]
  let peer := [(45, 13), (32, 13)]
  let chunk := [(19, 13), (6, 13)]
  match op with
  | 1 | 4 => kf ++ peer ++ chunk
  | 2 | 3 => kf ++ peer ++ chunk ++ [(3, 3)]
  | 5 => [(57, 1), (0, 32)]
  | 6 => kf ++ peer
  | 7 => kf ++ peer ++ chunk ++ [(1, 2)]
  | 8 => kf ++ [(0, 32)]
  | 9 => kf
  | _ => []

/-- A reserved code or a nonzero unused field (R364).
Log entry 46 (DEDUCED). -/
def stepBad (w : Nat) : Bool :=
  let d := StepW.of w
  d.op = 0 || 11 ≤ d.op || ((d.op = 2 || d.op = 3) && 4 ≤ d.rop) || (d.op = 7 && d.qf = 3)
    || (List.range 60).any (fun i => bit w i && !(stepUses d.op).any (fun u => u.1 ≤ i && i < u.1 + u.2))

/-- The iteration index of the step's counter, its distance and its chunk (R363). -/
def Coll.iter (c : Coll) (d : StepW) : Nat := if c.loops.any (fun l => l.1 == d.kk) then c.k.getD d.kk 0 else 0
def Coll.dist (c : Coll) (d : StepW) : Nat := (d.poff + c.iter d * d.pstr) % c.g
def Coll.chunkOf (c : Coll) (s : State) (d : StepW) : Nat := (c.rank s + d.coff + c.iter d * d.cstr) % c.nch
def Coll.dest (c : Coll) (s : State) (d : StepW) : Nat := (c.rank s + c.dist d) % c.g
def Coll.source (c : Coll) (s : State) (d : StepW) : Nat := (c.rank s + c.g - c.dist d) % c.g

/-! ## Conversion into MX (R115, R368) -/

/-- ⌊log2 of a positive finite value⌋. -/
def floorLog2 (n : Nat) (e : Int) : Int := (Nat.log2 n : Int) + e

/-- The magnitude of a value, for comparing. -/
def XVal.abs : XVal → XVal
  | .nan => .nan
  | .inf _ => .inf false
  | .fin _ n e => .fin false n e

/-- The largest exponent of an element type. -/
def mxEmax (f : FSpec) : Int := if f == specF8e4 then 8 else if f == specF8e5 then 15 else 2

/-- The E8M0 scale of a block.
Log entry 46 (DEDUCED). -/
def mxScale (f : FSpec) (zs : List XVal) : Nat :=
  if zs.any XVal.isNan then 255
  else
    match zs.foldl (fun a z => if cmpX a z.abs == .lt then z.abs else a) (.zero false) with
    | .fin _ n e => if n = 0 then 0 else (max (-127) (min 127 (floorLog2 n e - mxEmax f)) + 127).toNat
    | _ => 254

/-- The code of an element under a scale. -/
def mxCode (f : FSpec) (scale : Nat) (z : XVal) : Nat :=
  let neg := z.neg?
  (f.round .rne (scaleX z (127 - (scale : Int))) neg).1

/-- The exact value of an imported element. -/
def mxValue (f : FSpec) (scale c : Nat) : XVal := if scale = 255 then .nan else scaleX (f.value c) ((scale : Int) - 127)

/-- The element type of QF. -/
def qfSpec (q : Nat) : FSpec := if q = 0 then specF8e4 else if q = 1 then specF8e5 else specF4

/-- Consecutive parts of a list. -/
def blocksOf {α : Type} (n : Nat) : Nat → List α → List (List α)
  | 0, _ => []
  | fuel + 1, l => if l.isEmpty then [] else l.take n :: blocksOf n fuel (l.drop n)

/-- A block of z quantised: a scale byte and one byte per element, and the new residuals.
Log entry 46 (DEDUCED). -/
def quantBlock (f : FSpec) (zs : List Nat) : List Byte × List Nat :=
  let vs := zs.map specF32.value
  let sc := mxScale f vs
  let cs := vs.map (mxCode f sc)
  let rs := List.zipWith (fun z c => (specF32.round .rne (addX .rne z (mxValue f sc c).flip).1).1) vs cs
  ((sc :: cs).map (BitVec.ofNat 8), rs)

/-- The elements of a quantised piece, each rounded to the buffer's format (R368). -/
def dequant (f dst : FSpec) (fuel : Nat) (bs : List Byte) : List Nat :=
  (blocksOf 33 fuel bs).flatMap (fun b => match b with
    | [] => []
    | sc :: cs => cs.map (fun c => (dst.round .rne (mxValue f sc.toNat c.toNat)).1))

/-! ## Steps -/

/-- How an event of a step ends: the next step, progress within the step, another step, nothing yet, or the end of the
collective. -/
inductive StepOut
  | next (s : State)
  | stay (s : State)
  | go (s : State) (i : Nat)
  | block
  | finish (s : State) (code : Nat)
  | halt (die : Nat) (h : CFault)

def State.setColl (s : State) (id : Nat) (f : Coll → Coll) : State := { s with colls := updateWhere (·.id == id) f s.colls }

/-- What an access that cannot be made now does to a step. -/
def WinchErr.out : WinchErr → StepOut
  | .wait none => .block
  | .wait (some s) => .stay s
  | .halt d h => .halt d h
  | .past => .block

/-- A member cannot be reached (R372, R384). -/
def Coll.gone (c : Coll) (s : State) (p : Part) (m : Nat) : Bool :=
  m != c.rank s && (c.lost.contains m || s.fencedRanks.contains (c.gbase + m) || !p.dies.any (fun d => s.hasRoute d (c.gbase + m)))

/-- A packet of a collective to a member, from the die of index 0. -/
def State.toMember (s : State) (x : CollCtx) (c : Coll) (m : Nat) (pkt : TilicPkt) : State :=
  s.tilic (x.p.dies.headD 0) (c.gbase + m) pkt

/-- The bytes of a piece as sent: plain, or quantised with the residuals written back. -/
def State.pieceData (s : State) (x : CollCtx) (c : Coll) (first n : Nat) (qf : Option Nat) : Except WinchErr (State × List Byte) :=
  let va := c.elemVa first
  match s.winchRead x c.base va (n * c.es) with
  | .error e => .error e
  | .ok (s, bs) =>
    match qf with
    | none => .ok (s, bs)
    | some q =>
      let rva := (c.res + 4 * first) % 2 ^ 64
      match s.winchRead x 0 rva (4 * n) with
      | .error e => .error e
      | .ok (s, rs) =>
        let f := if c.fmt == .bf16 then specBf16 else specF32
        let z := (List.range n).map (fun i =>
          (specF32.round .rne (addX .rne (f.value (codeIn c.fmt.bits bs i)) (specF32.value (codeIn 32 rs i))).1).1)
        let qs := (blocksOf 32 (n + 1) z).map (quantBlock (qfSpec q))
        match s.winchWrite x 0 rva ((qs.flatMap (·.2)).flatMap (leBytes 4)) with
        | .error e => .error e
        | .ok s => .ok (s, qs.flatMap (·.1))

/-- Send the next piece of the current step's chunk to a member, through the winch of its port. -/
def State.sendPiece (s : State) (x : CollCtx) (c : Coll) (m ch : Nat) (qf : Option Nat) : StepOut :=
  let (lo, n) := c.chunk ch
  let own := m == c.rank s
  let held := Tbl.get 0 c.grants m
  let i := c.sent
  let port := if own then x.port else (s.stripe x.p (c.gbase + m) i).getD x.port
  if c.gone s x.p m then .finish s 4
  else if !s.winchFor c port then .finish s 5
  else if s.haltedOn c.ctx (port / 6) || (!own && held = 0) then .block
  else
    let (first, k) := c.piece n i
    match s.pieceData (x.on port) c (lo + first) k qf with
    | .error e => e.out
    | .ok (s, bs) =>
      let p : Piece := { peer := c.rank s, nth := Tbl.get 0 c.sends m, step := c.step, len := n, fmt := c.fmt.code,
                         qf := (qf.map (· + 1)).getD 0, idx := i, port := port, data := bs }
      let last := c.pieces n ≤ i + 1
      let s := s.setColl c.id (fun c => { c with
        sent := i + 1
        grants := if own then c.grants else Tbl.set 0 c.grants m (held - 1)
        sends := if last then Tbl.set 0 c.sends m (Tbl.get 0 c.sends m + 1) else c.sends
        staged := if own then c.staged ++ [p] else c.staged
        winches := c.winches.filter (· != port) ++ [port] })
      let s := if own then s else s.tilicAt port (.piece (c.gbase + m) c.name p)
      if last then .next s else .stay s

/-- Take the next piece of the current step's chunk from a member, in ascending order (R365, R367, R375). Under ROP 0 the destination
is not read. A transfer that does not match ends the collective, and the sender is told.
Log entry 46 (DEDUCED). -/
def State.takePiece (s : State) (x : CollCtx) (c : Coll) (m ch rop : Nat) : StepOut :=
  let (lo, n) := c.chunk ch
  let mine := c.staged.filter (fun p => p.peer == m && p.nth == Tbl.get 0 c.recvs m)
  match mine.find? (fun p => p.len != n || p.fmt != c.fmt.code), mine.find? (fun p => p.idx == c.sent) with
  | some p, _ => .finish (if m == c.rank s then s else s.toMember x c m (.nack (c.gbase + m) c.name (some p.step))) 3
  | none, none => if c.gone s x.p m then .finish s 4 else .block
  | none, some p =>
    if !s.winchFor c p.port then .finish s 5
    else if s.haltedOn c.ctx (p.port / 6) then .block
    else
      let x' := x.on p.port
      let (first, k) := c.piece n p.idx
      let va := c.elemVa (lo + first)
      let dst := (c.fmt.fspec).getD specF32
      let got := if p.qf = 0 then p.data else (dequant (qfSpec (p.qf - 1)) dst (k + 1) p.data).flatMap (leBytes c.es)
      match (if rop = 0 then .ok (s, []) else s.winchRead x' c.base va (k * c.es)) with
      | .error e => e.out
      | .ok (s, old) =>
        let new := if rop = 0 then got
          else (List.range k).flatMap (fun i =>
            reduceBytes c.fmt rop ((got.drop (i * c.es)).take c.es) ((old.drop (i * c.es)).take c.es))
        match s.winchWrite x' c.base va new with
        | .error e => e.out
        | .ok s =>
          let last := c.pieces n ≤ c.sent + 1
          let s := s.setColl c.id (fun c => { c with
            sent := c.sent + 1
            ahead := if m == c.rank s then c.ahead else Tbl.set 0 c.ahead m (Tbl.get 0 c.ahead m - 1)
            recvs := if last then Tbl.set 0 c.recvs m (Tbl.get 0 c.recvs m + 1) else c.recvs
            staged := c.staged.erase p })
          if last then .next s else .stay s

/-- RRS: the receiving half, then the sending half (R363). -/
def State.rrsStep (s : State) (x : CollCtx) (c : Coll) (d : StepW) : StepOut :=
  let ch := c.chunkOf s d
  if c.phase = 0 then
    match s.takePiece x c (c.source s d) ch d.rop with
    | .next s => .stay ((s.drainColl c.id).setColl c.id (fun c => { c with phase := 1, sent := 0 }))
    | r => r
  else s.sendPiece x c (c.dest s d) ch none

/-- COPY. -/
def State.copyStep (s : State) (x : CollCtx) (c : Coll) (d : StepW) : StepOut :=
  let (a, n) := c.chunk (c.chunkOf s d)
  let (b, m) := c.chunk ((c.rank s + d.poff + c.iter d * d.pstr) % c.nch)
  if n != m then .finish s 2
  else
    match s.winchRead x c.base (c.elemVa a) (n * c.es) with
    | .error e => e.out
    | .ok (s, bs) =>
      match s.winchWrite x c.base (c.elemVa b) bs with
      | .error e => e.out
      | .ok s => .next s

/-- WAIT (R370, R371): reading FLAG, and counting tokens, is an acquire; no cache stands between a winch and memory. -/
def State.waitStep (s : State) (x : CollCtx) (c : Coll) (d : StepW) : StepOut :=
  if !d.src then (if d.low ≤ c.tokens then .next s else .block)
  else if c.flagA = 0 then .finish s 2
  else
    match s.winchRead x 0 c.flagA 8 with
    | .error e => e.out
    | .ok (s, bs) =>
      if d.low ≤ leNat bs then .next (s.setColl c.id (fun c => { c with emptyWait := false }))
      else if c.emptyWait then .block
      else .stay (s.setColl c.id (fun c => { c with emptyWait := true }))

/-- SIGNAL, a .sys release (R371). -/
def State.signalStep (s : State) (x : CollCtx) (c : Coll) (d : StepW) : StepOut :=
  let m := c.dest s d
  if c.gone s x.p m then .finish s 4
  else
    let s := s.drainWinches c.ctx
    .next (if m == c.rank s then s.setColl c.id (fun c => { c with tokens := c.tokens + 1 })
      else s.toMember x c m (.token (c.gbase + m) c.name))

/-- The address of a step word. -/
def Coll.stepVa (c : Coll) (i : Nat) : Nat := (c.prog + 32 + 8 * i) % 2 ^ 64

/-- The page number that ends the program's lease: the ranges that hold its first byte reach no further. -/
def CollCtx.progEnd (x : CollCtx) (c : Coll) : Nat := ((x.who.ranges c.prog).map (fun l => l.base + l.size)).foldl max 0

/-- Read a step word. Past the end of the program's lease there is none (R364); within it, a range without RW, or a page that cannot
be read, is a refusal (R357, R361). -/
def State.stepWord (s : State) (x : CollCtx) (c : Coll) (i : Nat) : Except WinchErr (State × Nat) :=
  let va := c.stepVa i
  if x.progEnd c ≤ fld va 17 40 then .error .past
  else if !(x.who.ranges va).any (·.rw) then .error (x.stop 36 va)
  else match s.winchRead x 0 va 8 with
    | .error e => .error e
    | .ok (s, bs) => .ok (s, leNat bs)

/-- The step after the ENDL that matches a LOOP of no iterations, or the first index past the program. -/
def State.skipLoop (s : State) (x : CollCtx) (c : Coll) : Nat → Nat → Nat → Except WinchErr (Nat × Bool)
  | 0, i, _ => .ok (i, false)
  | fuel + 1, i, depth =>
    match s.stepWord x c i with
    | .error .past => .ok (i, false)
    | .error e => .error e
    | .ok (_, w) =>
      let op := fld w 60 4
      if op = 9 && depth = 0 then .ok (i + 1, true)
      else s.skipLoop x c fuel (i + 1) (if op = 8 then depth + 1 else if op = 9 then depth - 1 else depth)

/-- A loop of one iteration or more is opened. -/
def Coll.openLoop (c : Coll) (d : StepW) : Coll :=
  { c with loops := (d.kk, c.step, d.low) :: c.loops, k := c.k.set d.kk 0, step := c.step + 1 }

/-- The innermost loop, if it is on the counter of ENDL: it ends, or returns to the step after its LOOP. -/
def Coll.closeLoop (c : Coll) (d : StepW) : Option Coll :=
  match c.loops with
  | (k, at', left) :: rest =>
    if k != d.kk then none
    else if left ≤ 1 then some { c with loops := rest, k := c.k.set k 0, step := c.step + 1 }
    else some { c with loops := (k, at', left - 1) :: rest, k := c.k.set k (c.k.getD k 0 + 1), step := at' + 1 }
  | [] => none

/-- A collective goes on at the step that a loop has given. -/
def State.loopTo (s : State) (c : Coll) : StepOut := .go (s.setColl c.id (fun o => { o with loops := c.loops, k := c.k })) c.step

/-- LOOP. -/
def State.loopStep (s : State) (x : CollCtx) (c : Coll) (d : StepW) : StepOut :=
  if c.loops.any (fun l => l.1 == d.kk) then .finish s 2
  else if d.low = 0 then
    match s.skipLoop x c 65536 (c.step + 1) 0 with
    | .error e => e.out
    | .ok (i, true) => .go s i
    | .ok (i, false) => .finish (s.setColl c.id (fun c => { c with step := i })) 2
  else s.loopTo (c.openLoop d)

/-- ENDL. -/
def State.endlStep (s : State) (c : Coll) (d : StepW) : StepOut :=
  match c.closeLoop d with
  | some c => s.loopTo c
  | none => .finish s 2

/-- The effect of a step word (Table 4, R364). -/
def State.stepDo (s : State) (x : CollCtx) (c : Coll) (w : Nat) : StepOut :=
  let d := StepW.of w
  if stepBad w then .finish s 2
  else
    match d.op with
    | 1 => s.sendPiece x c (c.dest s d) (c.chunkOf s d) none
    | 2 => s.takePiece x c (c.source s d) (c.chunkOf s d) d.rop
    | 3 => s.rrsStep x c d
    | 4 => s.copyStep x c d
    | 5 => s.waitStep x c d
    | 6 => s.signalStep x c d
    | 7 => if (c.fmt != .f32 && c.fmt != .bf16) || c.res = 0 then .finish s 2
           else s.sendPiece x c (c.dest s d) (c.chunkOf s d) (some d.qf)
    | 8 => s.loopStep x c d
    | 9 => s.endlStep c d
    | _ => .finish s 1

/-! ## Grants (R366) -/

/-- The transfers that a collective receives from here on, in program order, as far as its words can be read: the sending member and
the pieces left. -/
def State.recvAhead (s : State) (x : CollCtx) : Nat → Coll → List (Nat × Nat)
  | 0, _ => []
  | fuel + 1, c =>
    match s.stepWord x c c.step with
    | .error _ => []
    | .ok (_, w) =>
      let d := StepW.of w
      let on := s.recvAhead x fuel { c with step := c.step + 1, sent := 0, phase := 0 }
      if stepBad w then []
      else match d.op with
        | 2 | 3 =>
          let n := c.pieces (c.chunk (c.chunkOf s d)).2
          if c.phase = 0 then (c.source s d, n - c.sent) :: on else on
        | 8 =>
          if c.loops.any (fun l => l.1 == d.kk) then []
          else if d.low = 0 then (match s.skipLoop x c 65536 (c.step + 1) 0 with
            | .ok (i, true) => s.recvAhead x fuel { c with step := i, sent := 0, phase := 0 }
            | _ => [])
          else s.recvAhead x fuel { c.openLoop d with sent := 0, phase := 0 }
        | 9 => (match c.closeLoop d with
            | some c => s.recvAhead x fuel { c with sent := 0, phase := 0 }
            | none => [])
        | 10 => []
        | _ => on

/-- The pieces that a receiver grants ahead to a sender (R366). -/
def grantAhead : Nat := 16

/-- More words than a program has, each counted as often as its loops repeat it. -/
def progFuel : Nat := 2 ^ 192

/-- Grants for transfers in program order: to each at most what it has left and 16 pieces ahead of its sender. `have'` are the pieces
granted and not yet counted for a transfer, `tot` all that a member has been granted ahead.
Log entry 46 (DEDUCED). -/
def grantPlan : Tbl Nat → Tbl Nat → List (Nat × Nat) → List (Nat × Nat)
  | _, _, [] => []
  | have', tot, (m, n) :: rest =>
    let held := Tbl.get 0 have' m
    let give := min (min n grantAhead - held) (grantAhead - Tbl.get 0 tot m)
    (m, give) :: grantPlan (Tbl.set 0 have' m (held - n)) (Tbl.set 0 tot m (Tbl.get 0 tot m + give)) rest

/-- Grant what can be granted now: pieces of every transfer to come.
Log entry 46 (DEDUCED). -/
def State.giveGrants (s : State) (x : CollCtx) (id : Nat) : State :=
  match s.colls.find? (·.id == id) with
  | none => s
  | some c =>
    if !c.running || c.ending.isSome then s
    else
      let ts := (s.recvAhead x progFuel c).filter (fun t => t.1 != c.rank s)
      (grantPlan c.ahead c.ahead ts).foldl (fun s g =>
        if g.2 = 0 then s
        else (s.setColl id (fun c => { c with ahead := Tbl.set 0 c.ahead g.1 (Tbl.get 0 c.ahead g.1 + g.2) })).toMember x c g.1
          (.grant (c.gbase + g.1) c.name g.2)) s

/-! ## The end of a collective (R361, R369, R372) -/

/-- A context fault that a winch of a die detects. -/
def State.collHalt (s : State) (die : Nat) (c : Coll) (h : CFault) : State :=
  s.raiseHalt c.ctx die 0 0 (BitVec.ofNat 64 (c.stepVa c.step)) c.seq c.wg { h with src := if h.src = 1 then 5 else h.src }

/-- A negative acknowledgement answers every grant that a collective holds (R372). -/
def State.nackAll (s : State) (die : Nat) (n : CollName) (grants : Tbl Nat) : State :=
  grants.foldl (fun s g => if g.2 = 0 then s else s.tilic die (n.gbase + g.1) (.nack (n.gbase + g.1) n none)) s

/-- The winches of a context that halts or ends answer every grant that they hold (R372). -/
def State.refuseColls (s : State) (key : Nat) : State :=
  let die := s.headDie key
  let s := (s.colls.filter (·.ctx == key)).foldl (fun s c => s.nackAll die c.name c.grants) s
  (s.collEarly.filter (·.name.ctx == key)).foldl (fun s e => s.nackAll die e.name e.grants) s

/-- The end of a collective on this package: the status is written, then the ticket counts (R361, R369); one that has not ended well
refuses its partners (R372). None while the page of the status is awaited. -/
def State.collEnd (s : State) (x : CollCtx) (id code : Nat) : Option State :=
  match s.colls.find? (·.id == id) with
  | none => none
  | some c =>
    let st := leBytes 8 (code + c.step % 2 ^ 16 * 2 ^ 16 + c.ticket.toNat * 2 ^ 32)
    let wait := fun (s : State) => s.setColl id (fun c => { c with ending := some code })
    match s.winchWrite x 0 c.prog st with
    | .error (.halt d h) => some (s.collHalt d c h)
    | .error (.wait (some t)) => some (wait t)
    | .error _ => if c.ending.isSome then none else some (wait s)
    | .ok s =>
      let s := s.drainWinches c.ctx
      let s := { s with colls := s.colls.filter (·.id != id), doneTickets := s.doneTickets ++ [(c.ctx, c.ticket)] }
      some (if code = 1 then s
        else { s with collBad := s.collBad ++ [c.name] }.nackAll (x.p.dies.headD 0) c.name c.grants)

/-- The next step of a collective that has ended one, whose pieces are performed first (R363); during a save it stands there (R376). -/
def State.collTo (s : State) (id i : Nat) : State :=
  (s.drainColl id).setColl id (fun c => { c with step := i, sent := 0, phase := 0, emptyWait := false, parked := s.saving c.ctx })

/-- A collective stands between steps for a save of its context (R376). -/
def State.held (s : State) (c : Coll) : Bool :=
  (c.parked && s.saving c.ctx) || (s.ctx? c.ctx).any (·.saved)

/-- One event of a step; `ok` says which operations the event stands for. Grants go out with it (R366). -/
def stepEvent (ok : Nat → Bool) (a : EvArgs) (s : State) : Option State :=
  match s.colls.find? (·.id == a.a) with
  | none => none
  | some c =>
    match s.collCtx c with
    | none => none
    | some x =>
      if !c.running || s.haltedOn c.ctx x.die || s.held c then none
      else
        let on := fun (s : State) => some (s.giveGrants x c.id)
        let fin := fun (r : StepOut) => match r with
          | .next s => on (s.collTo c.id (c.step + 1))
          | .go s i => on (s.collTo c.id i)
          | .stay s => on s
          | .block => none
          | .finish s code => s.collEnd x c.id code
          | .halt d h => some (s.collHalt d c h)
        match c.ending, s.stepWord x c c.step with
        | some code, _ => if ok 0 then s.collEnd x c.id code else none
        | none, .error .past => if ok 0 then fin (.finish s 2) else none
        | none, .error e => if ok 0 then fin e.out else none
        | none, .ok (s, w) => if ok (fld w 60 4) then fin (s.stepDo x c w) else none

def execStepSend (s : State) : Out := event "STEP_SEND" (stepEvent (· == 1)) s
def execStepRecv (s : State) : Out := event "STEP_RECV" (stepEvent (· == 2)) s
def execStepRrs (s : State) : Out := event "STEP_RRS" (stepEvent (· == 3)) s
def execStepCopy (s : State) : Out := event "STEP_COPY" (stepEvent (· == 4)) s
def execStepWait (s : State) : Out := event "STEP_WAIT" (stepEvent (· == 5)) s
def execStepSignal (s : State) : Out := event "STEP_SIGNAL" (stepEvent (· == 6)) s
def execStepQsend (s : State) : Out := event "STEP_QSEND" (stepEvent (· == 7)) s
def execStepLoop (s : State) : Out := event "STEP_LOOP" (stepEvent (· == 8)) s
def execStepEndl (s : State) : Out := event "STEP_ENDL" (stepEvent (· == 9)) s
/-- STEP_END: END, and the words that are no step. -/
def execStepEnd (s : State) : Out := event "STEP_END" (stepEvent (fun o => o == 0 || 10 ≤ o)) s

/-! ## Starting, and what arrives (R360, R361, R366) -/

/-- COLLECTIVE_START: partition a starts its first queued collective while fewer than four run. The header is written as zero, the
coordinator serves it, and grants go out. None starts during a save (R316).
Log entry 46 (DEDUCED). -/
def collStart (a : EvArgs) (s : State) : Option State :=
  if 4 ≤ (s.colls.filter (fun c => c.part == a.a && c.running)).length then none
  else
    match s.colls.find? (fun c => c.part == a.a && !c.running && !s.saving c.ctx
        && !(s.ctx? c.ctx).any (fun x => x.saved || x.halt.isSome)) with
    | none => none
    | some c =>
      let (began, s) := s.fresh
      match s.collCtx { c with began := began } with
      | none => none
      | some x =>
        match s.winchWrite x 0 c.prog (List.replicate 32 0) with
        | .error (.wait (some t)) => some t
        | .error (.halt d h) => some (s.collHalt d c h)
        | .error _ => none
        | .ok s => some ((s.setColl c.id (fun c => { c with running := true, began := began, winches := [x.port] })).giveGrants x c.id)

/-- The collective that an arrival names: the first of `pairs` holds the group word and the number of the COLL with it (R360). -/
def arrivalName (a : EvArgs) : CollName :=
  let (gw, ord) := a.pairs.headD (0, 0)
  ⟨a.a, fld gw 0 13, fld gw 13 13 + 1, ord⟩

/-- Something arrives for a collective by name: it is taken by the collective; kept until its COLL is issued; or, after its end,
dropped. -/
def State.forColl (s : State) (n : CollName) (now : Coll → Coll) (early : CollEarly → CollEarly) : State :=
  match s.colls.find? (·.name == n) with
  | some c => s.setColl c.id now
  | none =>
    if n.ord ≤ s.collCount n.ctx n.gbase n.g then s
    else { s with collEarly := s.collEarly.filter (·.name != n) ++ [early (s.earlyOf n)] }

/-- The context of a collective has halted or ended, or the collective has ended here with a status other than DONE: grants and pieces
that arrive for it are refused (R372).
Log entry 46 (DEDUCED). -/
def State.collRefuses (s : State) (n : CollName) : Bool :=
  (s.ctx? n.ctx).isNone || s.haltedOn n.ctx (s.headDie n.ctx) || s.collBad.contains n

/-- Refuse what a member has sent for a collective.
Log entry 46 (DEDUCED). -/
def State.refuseFrom (s : State) (n : CollName) (m : Nat) : State :=
  s.tilic (s.headDie n.ctx) (n.gbase + m) (.nack (n.gbase + m) n none)

/-- COLL_GRANT_ARRIVAL: c grants from member b, through port d, for the collective of context a that `pairs` names.
Log entry 46 (DEDUCED). -/
def collGrant (a : EvArgs) (s : State) : Option State :=
  let n := arrivalName a
  if n.g ≤ a.b then none
  else s.inlet a.d (
    if s.collRefuses n then s.refuseFrom n a.b
    else
      let add := fun (t : Tbl Nat) => Tbl.set 0 t a.b (Tbl.get 0 t a.b + a.c)
      s.forColl n (fun c => { c with grants := add c.grants }) (fun e => { e with grants := add e.grants }))

/-- COLL_PIECE_ARRIVAL: for the collective of context a that `pairs` names, from member b, step c, chunk length d, format e, piece f;
the second of `pairs` holds the number of the transfer and 1 + QF, the third the port it comes through, whose winch stages it. After an
end with status DONE it is dropped.
Log entry 46 (DEDUCED). -/
def collPiece (a : EvArgs) (s : State) : Option State :=
  let n := arrivalName a
  let (nth, qf) := a.pairs.getD 1 (0, 0)
  let port := (a.pairs.getD 2 (0, 0)).1
  if n.g ≤ a.b then none
  else if !s.carries port || s.collRefuses n then s.inlet port (s.refuseFrom n a.b)
  else
    match s.colls.find? (·.name == n) with
    | some c =>
      let staged := (c.staged.filter (·.peer == a.b)).length
      if !c.running || a.b == c.rank s || Tbl.get 0 c.ahead a.b ≤ staged || !s.winchFor c port then none
      else
        some (s.setColl c.id (fun c => { c with
          staged := c.staged ++ [⟨a.b, nth, a.c, a.d, a.e, qf, a.f, port, a.data⟩]
          winches := c.winches.filter (· != port) ++ [port] }))
    | none => if n.ord ≤ s.collCount a.a n.gbase n.g then some s else none

/-- SIGNAL_TOKEN_ARRIVAL: a token, through port d, for the collective of context a that `pairs` names. -/
def collToken (a : EvArgs) (s : State) : Option State :=
  let n := arrivalName a
  s.inlet a.d (if (s.ctx? a.a).isNone then s
    else s.forColl n (fun c => { c with tokens := c.tokens + 1 }) (fun e => { e with tokens := e.tokens + 1 }))

/-- PEER_LOST: a negative acknowledgement through port e says that member b of the collective of context a that `pairs` names can no
longer be reached (R372); with c 1, that the transfer of step d to it has not matched there, and the collective ends at that step (R365). -/
def peerLost (a : EvArgs) (s : State) : Option State :=
  let n := arrivalName a
  if n.g ≤ a.b then none
  else if !s.carries a.e || (s.ctx? a.a).isNone then s.inlet a.e s
  else if a.c = 1 then
    match s.colls.find? (fun c => c.name == n && c.running) with
    | none => some s
    | some c => match s.collCtx c with
      | some x => if s.haltedOn c.ctx x.die then none else (s.setColl c.id (fun c => { c with step := a.d })).collEnd x c.id 3
      | none => none
  else
    let add := fun (l : List Nat) => l.filter (· != a.b) ++ [a.b]
    some (s.forColl n (fun c => { c with lost := add c.lost }) (fun e => { e with lost := add e.lost }))

/-- A winch serves, itself or through its spare. -/
def Winch.active (w : Winch) : Bool := !w.failed || w.spare.isSome

/-- WINCH_FAILURE: the winch of port a fails: every collective that it serves ends with status WINCH, and a free spare takes its
number for those that begin later (R356, R373). -/
def winchFail (a : EvArgs) (s : State) : Option State :=
  match s.winches.find? (·.port == a.a) with
  | none => none
  | some w =>
    if !w.active then none
    else
      let s := (s.colls.filter (fun c => c.running && c.winches.contains a.a)).foldl (fun s c =>
        match s.collCtx c with
        | some x => (s.collEnd x c.id 5).getD s
        | none => s) s
      let sp : Option Nat := if s.spares = 0 then none else some s.spares
      some ({ s with
        spares := s.spares - 1
        winches := updateWhere (·.port == a.a) (fun (w : Winch) => { w with failed := true, spare := sp, since := s.nextId }) s.winches
        }.bump (a.a / 6) 6 a.a)

/-! ## Feeding (R370) -/

/-- The port to which a collective's winch has a piece to send. -/
def State.sendsOn (s : State) (c : Coll) : Option Nat :=
  match s.collCtx c with
  | none => none
  | some x => match s.stepWord x c c.step with
    | .error _ => none
    | .ok (_, w) =>
      let d := StepW.of w
      if c.running && (d.op = 1 || d.op = 7 || (d.op = 3 && c.phase = 1)) then s.stripe x.p (c.gbase + c.dest s d) c.sent else none

/-- A winch of a die runs empty for a context: a collective that it serves stands in a WAIT on FLAG, and no collective has a piece
for it to send. -/
def State.feeding (s : State) (ctx die : Nat) : Bool :=
  s.colls.any (fun c => c.ctx == ctx && c.running && c.emptyWait && c.winches.any (fun p =>
    p / 6 == die && !s.colls.any (fun o => s.sendsOn o == some p)))

def execCollectiveStart (s : State) : Out := event "COLLECTIVE_START" collStart s
def execCollGrantArrival (s : State) : Out := event "COLL_GRANT_ARRIVAL" collGrant s
def execCollPieceArrival (s : State) : Out := event "COLL_PIECE_ARRIVAL" collPiece s
def execSignalTokenArrival (s : State) : Out := event "SIGNAL_TOKEN_ARRIVAL" collToken s
def execPeerLost (s : State) : Out := event "PEER_LOST" peerLost s
def execWinchFailure (s : State) : Out := event "WINCH_FAILURE" winchFail s

/-- The event that a step word's operation stands for. -/
def stepInstr (op : Nat) : Instr :=
  match op with
  | 1 => .stepSend
  | 2 => .stepRecv
  | 3 => .stepRrs
  | 4 => .stepCopy
  | 5 => .stepWait
  | 6 => .stepSignal
  | 7 => .stepQsend
  | 8 => .stepLoop
  | 9 => .stepEndl
  | _ => .stepEnd

/-- The next event of the winches that needs nothing from outside. -/
def collNext (s : State) : Option (Instr × EvArgs) :=
  ((s.parts.find? (fun p => (collStart { a := p.num } s).isSome)).map (fun p => (Instr.collectiveStart, ({ a := p.num } : EvArgs)))).or
  (s.colls.findSome? (fun c =>
    if (stepEvent (fun _ => true) { a := c.id } s).isNone then none
    else
      match c.ending, (s.collCtx c).map (fun x => s.stepWord x c c.step) with
      | none, some (.ok (_, w)) => some (stepInstr (fld w 60 4), ({ a := c.id } : EvArgs))
      | _, _ => some (.stepEnd, { a := c.id })))

/-! ## The meanings -/

def execColl (o : OpColl) (s : State) : Out := performOp (opColl o) s
def execCwait (o : OpS) (s : State) : Out := performOp (opCwait o) s

end Sys2Proof.Machine
end

