-- ==== Sys2Proof/Machine/Integer.lean ====
section
/-!
DEFINITION. Machine/Integer.lean: the integer class (R146 to R158).
-/

namespace Sys2Proof.Machine

/-! ## The shapes of the class -/

/-- `f w signed a b` in every lane of g, both sources at the element width (R146). -/
def intBin (f : Nat → Bool → Nat → Nat → Nat) (o : OpRRR) : AluOp := fun e w => do
  let wd ← e.intType o.ty
  let n := regsOf wd
  e.need [useD o.d n, o.a.use n 35, o.b.use n 27]
  .ok (overLanes (e.g o.g) (fun l w =>
    w.setElem o.d wd l (f wd o.ty.isSigned (e.w.elem o.a wd l) (e.w.elem o.b wd l))) w)

/-- The I32 layout: 32-bit elements, IMM32 the second source (R131). -/
def intImm (f : Nat → Bool → Nat → Nat → Nat) (o : OpRRI) : AluOp := fun e w => do
  e.need [useD o.d 1, o.a.use 1 35]
  .ok (overLanes (e.g o.g) (fun l w => w.setElem o.d 32 l (f 32 false (e.w.elem o.a 32 l) o.imm.toNat)) w)

/-- The S layout: IMM16 sign-extended to the element width (R131). -/
def intS (f : Nat → Bool → Nat → Nat → Nat) (o : OpRRS) : AluOp := fun e w => do
  let wd ← e.intType o.ty
  let n := regsOf wd
  e.need [useD o.d n, o.a.use n 35]
  .ok (overLanes (e.g o.g) (fun l w =>
    w.setElem o.d wd l (f wd o.ty.isSigned (e.w.elem o.a wd l) (simm o.imm wd))) w)

/-- A second source of one 32-bit register at every width: shifts and BFX (R155, R156). -/
def intBin32 (f : Nat → Bool → Nat → Nat → Nat) (o : OpRRR) : AluOp := fun e w => do
  let wd ← e.intType o.ty
  let n := regsOf wd
  e.need [useD o.d n, o.a.use n 35, o.b.use 1 27]
  .ok (overLanes (e.g o.g) (fun l w =>
    w.setElem o.d wd l (f wd o.ty.isSigned (e.w.elem o.a wd l) (e.w.elem o.b 32 l))) w)

/-- One source; `narrowD` for a 32-bit destination at every width (R157). -/
def intUn (narrowD : Bool) (f : Nat → Nat → Nat) (o : OpRR) : AluOp := fun e w => do
  let wd ← e.intType o.ty
  let n := regsOf wd
  let dw := if narrowD then 32 else wd
  e.need [useD o.d (regsOf dw), o.a.use n 35]
  .ok (overLanes (e.g o.g) (fun l w => w.setElem o.d dw l (f wd (e.w.elem o.a wd l))) w)

/-! ## The functions (R150 to R157) -/

def fnAdd (w : Nat) (_ : Bool) (a b : Nat) : Nat := (a + b) % 2 ^ w
def fnSub (w : Nat) (_ : Bool) (a b : Nat) : Nat := (a + 2 ^ w - b) % 2 ^ w
def fnMul (w : Nat) (_ : Bool) (a b : Nat) : Nat := a * b % 2 ^ w
def fnMulhI (w : Nat) (_ : Bool) (a b : Nat) : Nat := modW w (signedOf w a * signedOf w b / (2 ^ w : Nat))
def fnMulhN (w : Nat) (_ : Bool) (a b : Nat) : Nat := a * b / 2 ^ w % 2 ^ w
def fnMinI (w : Nat) (_ : Bool) (a b : Nat) : Nat := if signedOf w a ≤ signedOf w b then a else b
def fnMinN (_ : Nat) (_ : Bool) (a b : Nat) : Nat := min a b
def fnMaxI (w : Nat) (_ : Bool) (a b : Nat) : Nat := if signedOf w a ≤ signedOf w b then b else a
def fnMaxN (_ : Nat) (_ : Bool) (a b : Nat) : Nat := max a b
def fnAddS (w : Nat) (s : Bool) (a b : Nat) : Nat := modW w (satInt s w (readInt s w a + readInt s w b))
def fnSubS (w : Nat) (s : Bool) (a b : Nat) : Nat := modW w (satInt s w (readInt s w a - readInt s w b))
def fnAnd (_ : Nat) (_ : Bool) (a b : Nat) : Nat := Nat.land a b
def fnOr (_ : Nat) (_ : Bool) (a b : Nat) : Nat := Nat.lor a b
def fnXor (_ : Nat) (_ : Bool) (a b : Nat) : Nat := Nat.xor a b
def fnAndn (w : Nat) (_ : Bool) (a b : Nat) : Nat := Nat.land a (Nat.xor b (2 ^ w - 1))
def fnShl (w : Nat) (_ : Bool) (a k : Nat) : Nat := if k < w then a * 2 ^ k % 2 ^ w else 0
def fnShr (w : Nat) (_ : Bool) (a k : Nat) : Nat := if k < w then a / 2 ^ k else 0
/-- SAR: always an arithmetic shift; a shift of the width or more leaves the sign (R155). -/
def fnSar (w : Nat) (_ : Bool) (a k : Nat) : Nat := modW w (signedOf w a / (2 ^ min k w : Nat))

/-- BFX (R156): offset in bits [7:0] of the descriptor, width in [15:8] limited to the element. -/
def fnBfx (w : Nat) (s : Bool) (a k : Nat) : Nat :=
  let o := k % 256
  let f := min (k / 256 % 256) w
  if f = 0 then 0
  else
    let x := modW f (readInt s w a / (2 ^ o : Nat))
    modW w (readInt s f x)

/-- BFI (R156). -/
def fnBfi (w a b k : Nat) : Nat :=
  let o := k % 256
  let f := min (k / 256 % 256) w
  let n := min f (w - o)
  if w ≤ o then a else a - fld a o n * 2 ^ o + b % 2 ^ n * 2 ^ o

def fnAbs (w a : Nat) : Nat := (signedOf w a).natAbs % 2 ^ w
def fnPopc (w a : Nat) : Nat := ((List.range w).filter (bit a)).length
def fnClz (w a : Nat) : Nat := if a = 0 then w else w - 1 - Nat.log2 a

/-! ## The instructions -/

def opIadd (o : OpRRR) : Op := aluOp (intBin fnAdd o)
def opIsub (o : OpRRR) : Op := aluOp (intBin fnSub o)
def opImul (o : OpRRR) : Op := aluOp (intBin fnMul o)
def opImulhI (o : OpRRR) : Op := aluOp (intBin fnMulhI o)
def opImulhN (o : OpRRR) : Op := aluOp (intBin fnMulhN o)
def opIminI (o : OpRRR) : Op := aluOp (intBin fnMinI o)
def opIminN (o : OpRRR) : Op := aluOp (intBin fnMinN o)
def opImaxI (o : OpRRR) : Op := aluOp (intBin fnMaxI o)
def opImaxN (o : OpRRR) : Op := aluOp (intBin fnMaxN o)
def opIadds (o : OpRRR) : Op := aluOp (intBin fnAddS o)
def opIsubs (o : OpRRR) : Op := aluOp (intBin fnSubS o)
def opAnd (o : OpRRR) : Op := aluOp (intBin fnAnd o)
def opOr (o : OpRRR) : Op := aluOp (intBin fnOr o)
def opXor (o : OpRRR) : Op := aluOp (intBin fnXor o)
def opAndn (o : OpRRR) : Op := aluOp (intBin fnAndn o)
def opShl (o : OpRRR) : Op := aluOp (intBin32 fnShl o)
def opShr (o : OpRRR) : Op := aluOp (intBin32 fnShr o)
def opSar (o : OpRRR) : Op := aluOp (intBin32 fnSar o)
def opBfx (o : OpRRR) : Op := aluOp (intBin32 fnBfx o)
def opIaddImm (o : OpRRI) : Op := aluOp (intImm fnAdd o)
def opIsubImm (o : OpRRI) : Op := aluOp (intImm fnSub o)
def opImulImm (o : OpRRI) : Op := aluOp (intImm fnMul o)
def opAndImm (o : OpRRI) : Op := aluOp (intImm fnAnd o)
def opOrImm (o : OpRRI) : Op := aluOp (intImm fnOr o)
def opXorImm (o : OpRRI) : Op := aluOp (intImm fnXor o)
def opAndnImm (o : OpRRI) : Op := aluOp (intImm fnAndn o)
def opShlImm (o : OpRRI) : Op := aluOp (intImm fnShl o)
def opShrImm (o : OpRRI) : Op := aluOp (intImm fnShr o)
def opSarImm (o : OpRRI) : Op := aluOp (intImm fnSar o)
def opIminIImm (o : OpRRS) : Op := aluOp (intS fnMinI o)
def opIminNImm (o : OpRRS) : Op := aluOp (intS fnMinN o)
def opImaxIImm (o : OpRRS) : Op := aluOp (intS fnMaxI o)
def opImaxNImm (o : OpRRS) : Op := aluOp (intS fnMaxN o)
def opIaddsImm (o : OpRRS) : Op := aluOp (intS fnAddS o)
def opIsubsImm (o : OpRRS) : Op := aluOp (intS fnSubS o)
def opBfxImm (o : OpRRS) : Op := aluOp (intS fnBfx o)
def opIabs (o : OpRR) : Op := aluOp (intUn false fnAbs o)
def opPopc (o : OpRR) : Op := aluOp (intUn true fnPopc o)
def opClz (o : OpRR) : Op := aluOp (intUn true fnClz o)

/-- IADDC and ISUBB (R151): the carry comes from pC and goes back to it, in the same lane. -/
def intCarry (f : Nat → Nat → Nat → Nat → Nat × Bool) (o : OpRRP) : AluOp := fun e w => do
  let wd ← e.intType o.ty
  let n := regsOf wd
  e.need [useD o.d n, o.a.use n 35, o.b.use n 27]
  .ok (overLanes (e.g o.g) (fun l w =>
    let r := f wd (e.w.elem o.a wd l) (e.w.elem o.b wd l) (if e.w.p o.c.toNat l then 1 else 0)
    (w.setElem o.d wd l r.1).setP o.c.toNat l r.2) w)

def opIaddc (o : OpRRP) : Op := aluOp (intCarry addCarry o)
def opIsubb (o : OpRRP) : Op := aluOp (intCarry subBorrow o)

/-- IMAD (R150). -/
def opImad (o : OpRRRR) : Op := aluOp fun e w => do
  let wd ← e.intType o.ty
  let n := regsOf wd
  e.need [useD o.d n, o.a.use n 35, o.b.use n 27, o.c.use n 19]
  .ok (overLanes (e.g o.g) (fun l w =>
    w.setElem o.d wd l ((e.w.elem o.a wd l * e.w.elem o.b wd l + e.w.elem o.c wd l) % 2 ^ wd)) w)

/-- IMADW (R152): 32-bit factors, a 64-bit addend and result. -/
def opImadw (o : OpRRRR) : Op := aluOp fun e w => do
  e.only [.i32, .n32] o.ty
  e.need [useD o.d 2, o.a.use 1 35, o.b.use 1 27, o.c.use 2 19]
  let sg := o.ty == .i32
  .ok (overLanes (e.g o.g) (fun l w =>
    w.setElem o.d 64 l (modW 64 (readInt sg 32 (e.w.elem o.a 32 l) * readInt sg 32 (e.w.elem o.b 32 l)
      + (e.w.elem o.c 64 l : Nat)))) w)

/-- BFI (R156): the descriptor is one 32-bit operand. -/
def opBfi (o : OpRRRR) : Op := aluOp fun e w => do
  let wd ← e.intType o.ty
  let n := regsOf wd
  e.need [useD o.d n, o.a.use n 35, o.b.use n 27, o.c.use 1 19]
  .ok (overLanes (e.g o.g) (fun l w =>
    w.setElem o.d wd l (fnBfi wd (e.w.elem o.a wd l) (e.w.elem o.b wd l) (e.w.elem o.c 32 l))) w)

/-- ICMP (R158): codes 8 to 15 are reserved. -/
def opIcmp (o : OpCmp) : Op := aluOp fun e w => do
  e.refuseIf (8 ≤ o.cc.toNat) 3
  let wd ← e.intType o.ty
  let n := regsOf wd
  e.need [o.a.use n 35, o.b.use n 27]
  .ok (overLanes (e.g o.g) (fun l w =>
    w.setP o.d.toNat l (icmpHolds o.cc.toNat o.ty.isSigned wd (e.w.elem o.a wd l) (e.w.elem o.b wd l))) w)

def opIcmpImm (o : OpCmpS) : Op := aluOp fun e w => do
  e.refuseIf (8 ≤ o.cc.toNat) 3
  let wd ← e.intType o.ty
  let n := regsOf wd
  e.need [o.a.use n 35]
  .ok (overLanes (e.g o.g) (fun l w =>
    w.setP o.d.toNat l (icmpHolds o.cc.toNat o.ty.isSigned wd (e.w.elem o.a wd l) (simm o.imm wd))) w)

/-! ## The meanings -/

def execIadd (o : OpRRR) (s : State) : Out := performOp (opIadd o) s
def execIsub (o : OpRRR) (s : State) : Out := performOp (opIsub o) s
def execImul (o : OpRRR) (s : State) : Out := performOp (opImul o) s
def execImulhI (o : OpRRR) (s : State) : Out := performOp (opImulhI o) s
def execImulhN (o : OpRRR) (s : State) : Out := performOp (opImulhN o) s
def execIminI (o : OpRRR) (s : State) : Out := performOp (opIminI o) s
def execIminN (o : OpRRR) (s : State) : Out := performOp (opIminN o) s
def execImaxI (o : OpRRR) (s : State) : Out := performOp (opImaxI o) s
def execImaxN (o : OpRRR) (s : State) : Out := performOp (opImaxN o) s
def execIadds (o : OpRRR) (s : State) : Out := performOp (opIadds o) s
def execIsubs (o : OpRRR) (s : State) : Out := performOp (opIsubs o) s
def execAnd (o : OpRRR) (s : State) : Out := performOp (opAnd o) s
def execOr (o : OpRRR) (s : State) : Out := performOp (opOr o) s
def execXor (o : OpRRR) (s : State) : Out := performOp (opXor o) s
def execAndn (o : OpRRR) (s : State) : Out := performOp (opAndn o) s
def execShl (o : OpRRR) (s : State) : Out := performOp (opShl o) s
def execShr (o : OpRRR) (s : State) : Out := performOp (opShr o) s
def execSar (o : OpRRR) (s : State) : Out := performOp (opSar o) s
def execBfx (o : OpRRR) (s : State) : Out := performOp (opBfx o) s
def execIaddImm (o : OpRRI) (s : State) : Out := performOp (opIaddImm o) s
def execIsubImm (o : OpRRI) (s : State) : Out := performOp (opIsubImm o) s
def execImulImm (o : OpRRI) (s : State) : Out := performOp (opImulImm o) s
def execAndImm (o : OpRRI) (s : State) : Out := performOp (opAndImm o) s
def execOrImm (o : OpRRI) (s : State) : Out := performOp (opOrImm o) s
def execXorImm (o : OpRRI) (s : State) : Out := performOp (opXorImm o) s
def execAndnImm (o : OpRRI) (s : State) : Out := performOp (opAndnImm o) s
def execShlImm (o : OpRRI) (s : State) : Out := performOp (opShlImm o) s
def execShrImm (o : OpRRI) (s : State) : Out := performOp (opShrImm o) s
def execSarImm (o : OpRRI) (s : State) : Out := performOp (opSarImm o) s
def execIminIImm (o : OpRRS) (s : State) : Out := performOp (opIminIImm o) s
def execIminNImm (o : OpRRS) (s : State) : Out := performOp (opIminNImm o) s
def execImaxIImm (o : OpRRS) (s : State) : Out := performOp (opImaxIImm o) s
def execImaxNImm (o : OpRRS) (s : State) : Out := performOp (opImaxNImm o) s
def execIaddsImm (o : OpRRS) (s : State) : Out := performOp (opIaddsImm o) s
def execIsubsImm (o : OpRRS) (s : State) : Out := performOp (opIsubsImm o) s
def execBfxImm (o : OpRRS) (s : State) : Out := performOp (opBfxImm o) s
def execIabs (o : OpRR) (s : State) : Out := performOp (opIabs o) s
def execPopc (o : OpRR) (s : State) : Out := performOp (opPopc o) s
def execClz (o : OpRR) (s : State) : Out := performOp (opClz o) s
def execIaddc (o : OpRRP) (s : State) : Out := performOp (opIaddc o) s
def execIsubb (o : OpRRP) (s : State) : Out := performOp (opIsubb o) s
def execImad (o : OpRRRR) (s : State) : Out := performOp (opImad o) s
def execImadw (o : OpRRRR) (s : State) : Out := performOp (opImadw o) s
def execBfi (o : OpRRRR) (s : State) : Out := performOp (opBfi o) s
def execIcmp (o : OpCmp) (s : State) : Out := performOp (opIcmp o) s
def execIcmpImm (o : OpCmpS) (s : State) : Out := performOp (opIcmpImm o) s

end Sys2Proof.Machine
end

