-- ==== Sys2Proof/Machine/Pair.lean ====
section
/-!
DEFINITION. Machine/Pair.lean: the pair words (R137 to R140, R142): what each short opcode expands to, and how the two slots of a
word are executed as one entry.
-/

namespace Sys2Proof.Machine

/-! ## The expansion of a slot (R138, Table 11). The element type is .n32, or .f32 for the float class. -/

/-- The guard of a slot: never negated. -/
def slotGuard (s : Slot) : Guard := ⟨s.g, false⟩
/-- A vector register that a six-bit field names. -/
def slotV (i : BitVec 6) : VReg := i.setWidth 8
/-- The source that S names in kind rr: a scalar when IMM[9] is set. -/
def slotB (s : Slot) : Src := if s.imm.getLsbD 9 then .s s.s else .v (slotV s.s)

def slotRr (s : Slot) : OpRRR := ⟨slotGuard s, slotV s.d, .v (slotV s.d), slotB s, .n32⟩
def slotFr (s : Slot) : OpF3 := ⟨slotGuard s, slotV s.d, .v (slotV s.d), slotB s, .f32, .rne⟩
def slotRi (s : Slot) : OpRRI := ⟨slotGuard s, slotV s.d, .v (slotV s.s), s.imm.signExtend 32⟩
def slotRm (s : Slot) : OpRR := ⟨slotGuard s, slotV s.d, .v (slotV s.s), .n32⟩
/-- RM is IMM[9:7] (R192). -/
def slotFm (s : Slot) : OpF2 := ⟨slotGuard s, slotV s.d, .v (slotV s.s), .f32, Rm.ofCode (s.imm.toNat / 128)⟩
def slotPc (s : Slot) : OpCmpS :=
  ⟨slotGuard s, s.d.setWidth 3, .v (slotV s.s), (s.imm.setWidth 7).signExtend 16, BitVec.ofNat 4 (s.imm.toNat / 128), .n32⟩
/-- IMM32 is slot bits 15 to 0, sign-extended. -/
def slotMi (s : Slot) : OpMovI := ⟨slotGuard s, slotV s.d, (s.s ++ s.imm).signExtend 32⟩
def slotMr (s : Slot) : OpMem :=
  ⟨slotGuard s, slotV s.d, slotV s.s, BitVec.ofNat 3 (s.imm.toNat / 128), BitVec.ofNat 24 (4 * (s.imm.toNat % 128)), .relaxed,
    .none, 0⟩
def slotMs (s : Slot) : OpSpad :=
  ⟨slotGuard s, slotV s.d, slotV s.s, 0, BitVec.ofNat 24 (4 * s.imm.toNat), .relaxed, .none, 0⟩
def slotMf (s : Slot) : OpSpad :=
  ⟨slotGuard s, slotV s.d, slotV s.s, 0, BitVec.ofNat 24 (4 * (s.imm.toNat % 512)), if s.imm.getLsbD 9 then .na else .relaxed,
    .none, 0⟩
/-- OFFW is slot bits 21 to 0, sign-extended. -/
def slotBr (s : Slot) : OpBra := ⟨slotGuard s, (s.d ++ s.s ++ s.imm).signExtend 32⟩
def slotZ (s : Slot) : OpZ := ⟨slotGuard s⟩
def slotZw (s : Slot) : OpWsync := ⟨slotGuard s, none⟩
def slotZb (s : Slot) : OpBsync := ⟨slotGuard s, BitVec.ofNat 8 (s.imm.toNat % 128), none⟩

/-! ## The operation of a slot (Table 13) -/

def slotIaddRr (s : Slot) : Op := opIadd (slotRr s)
def slotIaddRi (s : Slot) : Op := opIaddImm (slotRi s)
def slotIsubRr (s : Slot) : Op := opIsub (slotRr s)
def slotImulRr (s : Slot) : Op := opImul (slotRr s)
def slotImulRi (s : Slot) : Op := opImulImm (slotRi s)
def slotIminIRr (s : Slot) : Op := opIminI (slotRr s)
def slotImaxIRr (s : Slot) : Op := opImaxI (slotRr s)
def slotIminNRr (s : Slot) : Op := opIminN (slotRr s)
def slotImaxNRr (s : Slot) : Op := opImaxN (slotRr s)
def slotAndRr (s : Slot) : Op := opAnd (slotRr s)
def slotAndRi (s : Slot) : Op := opAndImm (slotRi s)
def slotOrRr (s : Slot) : Op := opOr (slotRr s)
def slotOrRi (s : Slot) : Op := opOrImm (slotRi s)
def slotXorRr (s : Slot) : Op := opXor (slotRr s)
def slotXorRi (s : Slot) : Op := opXorImm (slotRi s)
def slotAndnRr (s : Slot) : Op := opAndn (slotRr s)
def slotShlRi (s : Slot) : Op := opShlImm (slotRi s)
def slotShrRi (s : Slot) : Op := opShrImm (slotRi s)
def slotSarRi (s : Slot) : Op := opSarImm (slotRi s)
def slotShlRr (s : Slot) : Op := opShl (slotRr s)
def slotIcmpPc (s : Slot) : Op := opIcmpImm (slotPc s)
def slotPopcRm (s : Slot) : Op := opPopc (slotRm s)
def slotClzRm (s : Slot) : Op := opClz (slotRm s)
def slotIabsRm (s : Slot) : Op := opIabs (slotRm s)
def slotFaddRr (s : Slot) : Op := opFadd (slotFr s)
def slotFsubRr (s : Slot) : Op := opFsub (slotFr s)
def slotFmulRr (s : Slot) : Op := opFmul (slotFr s)
def slotFminRr (s : Slot) : Op := opFmin (slotFr s)
def slotFmaxRr (s : Slot) : Op := opFmax (slotFr s)
def slotFrcpRm (s : Slot) : Op := opFrcp (slotFm s)
def slotFrsqRm (s : Slot) : Op := opFrsq (slotFm s)
def slotFexp2Rm (s : Slot) : Op := opFexp2 (slotFm s)
def slotFlog2Rm (s : Slot) : Op := opFlog2 (slotFm s)
def slotMovRm (s : Slot) : Op := opMov (slotRm s)
def slotMoviMi (s : Slot) : Op := opMovi (slotMi s)
def slotIsubRi (s : Slot) : Op := opIsubImm (slotRi s)
def slotIaddsRr (s : Slot) : Op := opIadds (slotRr s)
def slotLdMr (s : Slot) : Op := opLd (slotMr s)
def slotStMr (s : Slot) : Op := opSt (slotMr s)
def slotLdsMs (s : Slot) : Op := opLds (slotMs s)
def slotStsMs (s : Slot) : Op := opSts (slotMs s)
def slotLdfeMf (s : Slot) : Op := opLdfe (slotMf s)
def slotBraBr (s : Slot) : Op := opBra (slotBr s)
def slotExitZ (s : Slot) : Op := opExit (slotZ s)
def slotNopZ (s : Slot) : Op := opNop (slotZ s)
def slotPauseZ (s : Slot) : Op := opPause (slotZ s)
def slotWsyncZ (s : Slot) : Op := opWsync (slotZw s)
def slotBsyncZb (s : Slot) : Op := opBsync (slotZb s)

/-- The operation of the slot with short opcode `sop`. -/
def slotOp (sop : Nat) (s : Slot) : Op :=
  match sop with
  | 0 => slotIaddRr s
  | 1 => slotIaddRi s
  | 2 => slotIsubRr s
  | 3 => slotImulRr s
  | 4 => slotImulRi s
  | 5 => slotIminIRr s
  | 6 => slotImaxIRr s
  | 7 => slotIminNRr s
  | 8 => slotImaxNRr s
  | 9 => slotAndRr s
  | 10 => slotAndRi s
  | 11 => slotOrRr s
  | 12 => slotOrRi s
  | 13 => slotXorRr s
  | 14 => slotXorRi s
  | 15 => slotAndnRr s
  | 16 => slotShlRi s
  | 17 => slotShrRi s
  | 18 => slotSarRi s
  | 19 => slotShlRr s
  | 20 => slotIcmpPc s
  | 21 => slotPopcRm s
  | 22 => slotClzRm s
  | 23 => slotIabsRm s
  | 24 => slotFaddRr s
  | 25 => slotFsubRr s
  | 26 => slotFmulRr s
  | 27 => slotFminRr s
  | 28 => slotFmaxRr s
  | 29 => slotFrcpRm s
  | 30 => slotFrsqRm s
  | 31 => slotFexp2Rm s
  | 32 => slotFlog2Rm s
  | 33 => slotMovRm s
  | 34 => slotMoviMi s
  | 35 => slotIsubRi s
  | 36 => slotIaddsRr s
  | 37 => slotLdMr s
  | 38 => slotStMr s
  | 39 => slotLdsMs s
  | 40 => slotStsMs s
  | 41 => slotLdfeMf s
  | 42 => slotBraBr s
  | 43 => slotExitZ s
  | 44 => slotNopZ s
  | 45 => slotPauseZ s
  | 46 => slotWsyncZ s
  | 47 => slotBsyncZb s
  | _ => opIllegal 3 56

/-! ## The two slots as one entry (R140) -/

/-- The trap of a word whose slots both trap: the lowest cause; with equal causes the lanes of both, described by slot 0
wherever slot 0 faulted.
Log entry 26 (DEDUCED). -/
def mergeTraps (a b : Trap) : Trap :=
  if a.cause < b.cause then a
  else if b.cause < a.cause then b
  else { a with
    fmask := a.fmask ||| b.fmask
    addr := b.addr.foldl (fun t p => if t.any (fun q => q.1 == p.1) then t else Tbl.put t p.1 p.2) a.addr }

/-- The word under which slot 0 is executed: threads that waited in the word's WSYNC or BSYNC when a trap was taken have
performed slot 0 already (R43).
Log entry 26 (DEDUCED). -/
def Env.unmarked (e : Env) : Env := { e with c := { e.c with mask := e.c.mask &&& ~~~e.w.arrived } }

/-- A trap of slot 0: the word bit of RM, the field that a slot's expansion can find illegal, is that of the slot (R137, R147). -/
def Trap.slot0 (t : Trap) : Trap := if t.cause = 1 && t.info = 7 then { t with info := 38 } else t

/-- How an operation ends in slot 0. -/
def inSlot0 (r : Res) : Res :=
  match r with
  | .trap t => .trap t.slot0
  | r => r

/-- Execute slot 0 and slot 1 as one entry. Both read their sources before either writes; a refusal of either refuses the word;
an entry of which a slot must stay at the head has no effect yet. `waits` is the guard of a slot 1 that waits.
Log entry 26 (DEDUCED). -/
def pairOp (op0 op1 : Op) (waits : Option Guard) : Op := fun e s =>
  match inSlot0 (op0 e.unmarked s), op1 e s with
  | .halt h, _ => .halt h
  | _, .halt h => .halt h
  | .trap a, .trap b => .trap (mergeTraps a b)
  | .trap a, _ => .trap a
  | _, .trap b => .trap b
  | .hold t, _ => .hold t
  | _, .hold t => .hold t
  | .ok t, _ =>
    match waits with
    | none => op1 e t
    | some g => op1 e (e.upd t (fun w => { w with arrived := w.arrived ||| e.g g }))
  | r, _ => r

/-- A pair word headed by its slot 0.
Log entry 26 (DEDUCED). -/
def headOp (own : Op) (other : OtherSlot) : Op := pairOp own (slotOp other.sop.toNat other.slot) none

/-- A pair word headed by its slot 1.
Log entry 26 (DEDUCED). -/
def tailOp (own : Op) (other : OtherSlot) (waits : Option Guard) : Op :=
  pairOp (slotOp other.sop.toNat other.slot) own waits

/-! ## Pair words by the short opcode that heads them -/

def opPairIaddRr (own : Slot) (other : OtherSlot) : Op := headOp (slotIaddRr own) other
def opPairIaddRi (own : Slot) (other : OtherSlot) : Op := headOp (slotIaddRi own) other
def opPairIsubRr (own : Slot) (other : OtherSlot) : Op := headOp (slotIsubRr own) other
def opPairImulRr (own : Slot) (other : OtherSlot) : Op := headOp (slotImulRr own) other
def opPairImulRi (own : Slot) (other : OtherSlot) : Op := headOp (slotImulRi own) other
def opPairIminIRr (own : Slot) (other : OtherSlot) : Op := headOp (slotIminIRr own) other
def opPairImaxIRr (own : Slot) (other : OtherSlot) : Op := headOp (slotImaxIRr own) other
def opPairIminNRr (own : Slot) (other : OtherSlot) : Op := headOp (slotIminNRr own) other
def opPairImaxNRr (own : Slot) (other : OtherSlot) : Op := headOp (slotImaxNRr own) other
def opPairAndRr (own : Slot) (other : OtherSlot) : Op := headOp (slotAndRr own) other
def opPairAndRi (own : Slot) (other : OtherSlot) : Op := headOp (slotAndRi own) other
def opPairOrRr (own : Slot) (other : OtherSlot) : Op := headOp (slotOrRr own) other
def opPairOrRi (own : Slot) (other : OtherSlot) : Op := headOp (slotOrRi own) other
def opPairXorRr (own : Slot) (other : OtherSlot) : Op := headOp (slotXorRr own) other
def opPairXorRi (own : Slot) (other : OtherSlot) : Op := headOp (slotXorRi own) other
def opPairAndnRr (own : Slot) (other : OtherSlot) : Op := headOp (slotAndnRr own) other
def opPairShlRi (own : Slot) (other : OtherSlot) : Op := headOp (slotShlRi own) other
def opPairShrRi (own : Slot) (other : OtherSlot) : Op := headOp (slotShrRi own) other
def opPairSarRi (own : Slot) (other : OtherSlot) : Op := headOp (slotSarRi own) other
def opPairShlRr (own : Slot) (other : OtherSlot) : Op := headOp (slotShlRr own) other
def opPairIcmpPc (own : Slot) (other : OtherSlot) : Op := headOp (slotIcmpPc own) other
def opPairPopcRm (own : Slot) (other : OtherSlot) : Op := headOp (slotPopcRm own) other
def opPairClzRm (own : Slot) (other : OtherSlot) : Op := headOp (slotClzRm own) other
def opPairIabsRm (own : Slot) (other : OtherSlot) : Op := headOp (slotIabsRm own) other
def opPairFaddRr (own : Slot) (other : OtherSlot) : Op := headOp (slotFaddRr own) other
def opPairFsubRr (own : Slot) (other : OtherSlot) : Op := headOp (slotFsubRr own) other
def opPairFmulRr (own : Slot) (other : OtherSlot) : Op := headOp (slotFmulRr own) other
def opPairFminRr (own : Slot) (other : OtherSlot) : Op := headOp (slotFminRr own) other
def opPairFmaxRr (own : Slot) (other : OtherSlot) : Op := headOp (slotFmaxRr own) other
def opPairFrcpRm (own : Slot) (other : OtherSlot) : Op := headOp (slotFrcpRm own) other
def opPairFrsqRm (own : Slot) (other : OtherSlot) : Op := headOp (slotFrsqRm own) other
def opPairFexp2Rm (own : Slot) (other : OtherSlot) : Op := headOp (slotFexp2Rm own) other
def opPairFlog2Rm (own : Slot) (other : OtherSlot) : Op := headOp (slotFlog2Rm own) other
def opPairMovRm (own : Slot) (other : OtherSlot) : Op := headOp (slotMovRm own) other
def opPairMoviMi (own : Slot) (other : OtherSlot) : Op := headOp (slotMoviMi own) other
def opPairIsubRi (own : Slot) (other : OtherSlot) : Op := headOp (slotIsubRi own) other
def opPairIaddsRr (own : Slot) (other : OtherSlot) : Op := headOp (slotIaddsRr own) other
def opPairLdMr (own : Slot) (other : OtherSlot) : Op := headOp (slotLdMr own) other
def opPairStMr (own : Slot) (other : OtherSlot) : Op := headOp (slotStMr own) other
def opPairLdsMs (own : Slot) (other : OtherSlot) : Op := headOp (slotLdsMs own) other
def opPairStsMs (own : Slot) (other : OtherSlot) : Op := headOp (slotStsMs own) other
def opPairLdfeMf (own : Slot) (other : OtherSlot) : Op := headOp (slotLdfeMf own) other
def opPairBraBr (own : Slot) (other : OtherSlot) : Op := tailOp (slotBraBr own) other none
def opPairExitZ (own : Slot) (other : OtherSlot) : Op := tailOp (slotExitZ own) other none
def opPairNopZ (own : Slot) (other : OtherSlot) : Op := tailOp (slotNopZ own) other none
def opPairPauseZ (own : Slot) (other : OtherSlot) : Op := tailOp (slotPauseZ own) other none
def opPairWsyncZ (own : Slot) (other : OtherSlot) : Op := tailOp (slotWsyncZ own) other (some (slotGuard own))
def opPairBsyncZb (own : Slot) (other : OtherSlot) : Op := tailOp (slotBsyncZb own) other (some (slotGuard own))

/-! ## The meanings -/

def execPairIaddRr (own : Slot) (other : OtherSlot) (s : State) : Out := performOp (opPairIaddRr own other) s
def execPairIaddRi (own : Slot) (other : OtherSlot) (s : State) : Out := performOp (opPairIaddRi own other) s
def execPairIsubRr (own : Slot) (other : OtherSlot) (s : State) : Out := performOp (opPairIsubRr own other) s
def execPairImulRr (own : Slot) (other : OtherSlot) (s : State) : Out := performOp (opPairImulRr own other) s
def execPairImulRi (own : Slot) (other : OtherSlot) (s : State) : Out := performOp (opPairImulRi own other) s
def execPairIminIRr (own : Slot) (other : OtherSlot) (s : State) : Out := performOp (opPairIminIRr own other) s
def execPairImaxIRr (own : Slot) (other : OtherSlot) (s : State) : Out := performOp (opPairImaxIRr own other) s
def execPairIminNRr (own : Slot) (other : OtherSlot) (s : State) : Out := performOp (opPairIminNRr own other) s
def execPairImaxNRr (own : Slot) (other : OtherSlot) (s : State) : Out := performOp (opPairImaxNRr own other) s
def execPairAndRr (own : Slot) (other : OtherSlot) (s : State) : Out := performOp (opPairAndRr own other) s
def execPairAndRi (own : Slot) (other : OtherSlot) (s : State) : Out := performOp (opPairAndRi own other) s
def execPairOrRr (own : Slot) (other : OtherSlot) (s : State) : Out := performOp (opPairOrRr own other) s
def execPairOrRi (own : Slot) (other : OtherSlot) (s : State) : Out := performOp (opPairOrRi own other) s
def execPairXorRr (own : Slot) (other : OtherSlot) (s : State) : Out := performOp (opPairXorRr own other) s
def execPairXorRi (own : Slot) (other : OtherSlot) (s : State) : Out := performOp (opPairXorRi own other) s
def execPairAndnRr (own : Slot) (other : OtherSlot) (s : State) : Out := performOp (opPairAndnRr own other) s
def execPairShlRi (own : Slot) (other : OtherSlot) (s : State) : Out := performOp (opPairShlRi own other) s
def execPairShrRi (own : Slot) (other : OtherSlot) (s : State) : Out := performOp (opPairShrRi own other) s
def execPairSarRi (own : Slot) (other : OtherSlot) (s : State) : Out := performOp (opPairSarRi own other) s
def execPairShlRr (own : Slot) (other : OtherSlot) (s : State) : Out := performOp (opPairShlRr own other) s
def execPairIcmpPc (own : Slot) (other : OtherSlot) (s : State) : Out := performOp (opPairIcmpPc own other) s
def execPairPopcRm (own : Slot) (other : OtherSlot) (s : State) : Out := performOp (opPairPopcRm own other) s
def execPairClzRm (own : Slot) (other : OtherSlot) (s : State) : Out := performOp (opPairClzRm own other) s
def execPairIabsRm (own : Slot) (other : OtherSlot) (s : State) : Out := performOp (opPairIabsRm own other) s
def execPairFaddRr (own : Slot) (other : OtherSlot) (s : State) : Out := performOp (opPairFaddRr own other) s
def execPairFsubRr (own : Slot) (other : OtherSlot) (s : State) : Out := performOp (opPairFsubRr own other) s
def execPairFmulRr (own : Slot) (other : OtherSlot) (s : State) : Out := performOp (opPairFmulRr own other) s
def execPairFminRr (own : Slot) (other : OtherSlot) (s : State) : Out := performOp (opPairFminRr own other) s
def execPairFmaxRr (own : Slot) (other : OtherSlot) (s : State) : Out := performOp (opPairFmaxRr own other) s
def execPairFrcpRm (own : Slot) (other : OtherSlot) (s : State) : Out := performOp (opPairFrcpRm own other) s
def execPairFrsqRm (own : Slot) (other : OtherSlot) (s : State) : Out := performOp (opPairFrsqRm own other) s
def execPairFexp2Rm (own : Slot) (other : OtherSlot) (s : State) : Out := performOp (opPairFexp2Rm own other) s
def execPairFlog2Rm (own : Slot) (other : OtherSlot) (s : State) : Out := performOp (opPairFlog2Rm own other) s
def execPairMovRm (own : Slot) (other : OtherSlot) (s : State) : Out := performOp (opPairMovRm own other) s
def execPairMoviMi (own : Slot) (other : OtherSlot) (s : State) : Out := performOp (opPairMoviMi own other) s
def execPairIsubRi (own : Slot) (other : OtherSlot) (s : State) : Out := performOp (opPairIsubRi own other) s
def execPairIaddsRr (own : Slot) (other : OtherSlot) (s : State) : Out := performOp (opPairIaddsRr own other) s
def execPairLdMr (own : Slot) (other : OtherSlot) (s : State) : Out := performOp (opPairLdMr own other) s
def execPairStMr (own : Slot) (other : OtherSlot) (s : State) : Out := performOp (opPairStMr own other) s
def execPairLdsMs (own : Slot) (other : OtherSlot) (s : State) : Out := performOp (opPairLdsMs own other) s
def execPairStsMs (own : Slot) (other : OtherSlot) (s : State) : Out := performOp (opPairStsMs own other) s
def execPairLdfeMf (own : Slot) (other : OtherSlot) (s : State) : Out := performOp (opPairLdfeMf own other) s
def execPairBraBr (own : Slot) (other : OtherSlot) (s : State) : Out := performOp (opPairBraBr own other) s
def execPairExitZ (own : Slot) (other : OtherSlot) (s : State) : Out := performOp (opPairExitZ own other) s
def execPairNopZ (own : Slot) (other : OtherSlot) (s : State) : Out := performOp (opPairNopZ own other) s
def execPairPauseZ (own : Slot) (other : OtherSlot) (s : State) : Out := performOp (opPairPauseZ own other) s
def execPairWsyncZ (own : Slot) (other : OtherSlot) (s : State) : Out := performOp (opPairWsyncZ own other) s
def execPairBsyncZb (own : Slot) (other : OtherSlot) (s : State) : Out := performOp (opPairBsyncZb own other) s

end Sys2Proof.Machine
end

