-- ==== Sys2Proof/Machine/Message.lean ====
section
/-!
DEFINITION. Machine/Message.lean: tagged messages: MSEND, MRECV, MTEST and MCANCEL (R246 to R249), logical clusters and
generations (R346 to R348), delivery and matching (R349 to R355).
-/

namespace Sys2Proof.Machine

/-! ## Clusters, states and handles -/

/-- The time after which a tagged message is dropped: 20 µs (R348).
Log entry 42 (DEDUCED). -/
def msgLife : Nat := us 20

/-- The enabled clusters of a partition in ascending %cluster: the position is the logical index (R346). -/
def State.logical (s : State) (p : Part) : List Nat := p.dies.flatMap s.clustersOfDie

/-- The logical index of a cluster. -/
def State.logicalOf (s : State) (p : Part) (cl : Nat) : Nat := ((s.logical p).findIdx? (· == cl)).getD 0

def MsgState.fresh (ctx cl : Nat) : MsgState := ⟨ctx, cl, false, false, 0, [], [], 0, []⟩

def State.msg? (s : State) (ctx cl : Nat) : Option MsgState := s.msgs.find? (fun m => m.ctx == ctx && m.cluster == cl)

/-- Change a message state, made when it is first needed. -/
def State.modMsg (s : State) (ctx cl : Nat) (f : MsgState → MsgState) : State :=
  match s.msg? ctx cl with
  | some _ => { s with msgs := updateWhere (fun m => m.ctx == ctx && m.cluster == cl) f s.msgs }
  | none => { s with msgs := s.msgs ++ [f (MsgState.fresh ctx cl)] }

/-- The generation of a cluster for a context, as a die's table holds it (R347). -/
def genKey (die ctx cl : Nat) : Nat := (die * 32 + ctx) * 64 + cl
def State.genOf (s : State) (die ctx cl : Nat) : Nat := Tbl.get 0 s.genTab (genKey die ctx cl)

/-- A handle for a new entry of a list of `cap` places, of which the handles `held` name the ones in use: bit 31 says whether it is a
receive, bits [30:23] are zero, the serial number is a free value and the entry a free place, chosen freely. A serial number that the
owner `scope` of the list has given out with the entry before is passed over, so that a handle whose entry is gone reads INVALID.
Log entry 12 (DEDUCED). -/
def State.newHandle (s : State) (recv : Bool) (cap scope : Nat) (held : List Word) : Word × State :=
  let c := (Config.handle s.free).toNat
  let places := (List.range cap).filter (fun i => !held.any (fun h => h.toNat % 2 ^ 8 == i))
  let entry := places.getD (c % places.length) 0
  let at' := fun (n : Nat) => BitVec.ofNat 32 (entry + (c / 2 ^ 8 + n) % 2 ^ 15 * 2 ^ 8 + if recv then 2 ^ 31 else 0)
  let h := (((List.range (s.usedHandles.length + 1)).map at').find? (fun h => !s.usedHandles.contains (scope, h))).getD (at' 0)
  (h, { s with free := s.free + 1, usedHandles := s.usedHandles ++ [(scope, h)] })

/-! ## Opening a state (R347, R348) -/

/-- The state opens with its generation, which is sent to every die of the partition.
Log entry 67 (DEDUCED). -/
def State.openMsg (s : State) (p : Part) (ctx cl : Nat) : State :=
  let s := s.modMsg ctx cl (fun m => { m with opened := true, opening := false, recvs := [], ovf := [] })
  let g := ((s.msg? ctx cl).map (·.gen)).getD 0
  p.dies.foldl (fun s d =>
    let (id, s) := s.fresh
    { s with genUpds := s.genUpds ++ [⟨id, d, ctx, cl, g⟩] }) s

/-- The reuse delay of a waiting state has passed.
Log entries 42 (DEDUCED), 67 (DEDUCED). -/
def State.reuseOver (s : State) (m : MsgState) : Bool :=
  match Tbl.find? m.closed m.gen with
  | some t => t + msgLife ≤ s.now (s.dieOfCluster m.cluster)
  | none => true

/-- The context's first workgroup arrives on a cluster: the generation rises, and the state opens at once or waits for the
reuse delay. -/
def State.arriveMsg (s : State) (p : Part) (ctx cl : Nat) : State :=
  match s.msg? ctx cl with
  | some m => if m.opened || m.opening then s else go s
  | none => go s
where
  go (s : State) : State :=
    let s := s.modMsg ctx cl (fun m => { m with opening := true, gen := (m.gen + 1) % 16 })
    match s.msg? ctx cl with
    | some m => if s.reuseOver m then s.openMsg p ctx cl else s
    | none => s

/-- Threads of a context may start on a cluster: its state is open and every die has the generation.
Log entry 67 (DEDUCED). -/
def State.msgReady (s : State) (ctx cl : Nat) : Bool :=
  (s.msg? ctx cl).all (fun m => !m.opening) && !s.genUpds.any (fun u => u.ctx == ctx && u.cluster == cl)

/-! ## MSEND (R246, R346, R354) -/

/-- What a send names: its destinations by %cluster, or a refusal.
Log entry 41 (DEDUCED). -/
def Env.sendTo (e : Env) (s : State) (o : OpMsend) : Except Stop (List Nat) :=
  let p := e.part s
  let nc := s.partClusters p
  let b := e.w.s o.b.toNat
  let hi := fld b.toNat 16 16
  let trap := fun (v : Nat) => (.error (.trap ⟨7, e.c.mask, v, []⟩) : Except Stop (List Nat))
  if o.mc then
    let mask := (e.w.s64 (o.b.toNat + 1)).toNat
    if hi != 0 then .error (e.ill 27)
    else if mask = 0 then trap 256
    else if 2 ^ nc ≤ mask then trap (mask % 256)
    else .ok (((s.logical p).zipIdx).filterMap (fun q => if bit mask q.2 then some q.1 else none))
  else if 2 ^ 6 ≤ hi then .error (e.ill 27)
  else match (s.logical p)[hi]? with
    | some cl => .ok [cl]
    | none => trap (hi % 256)

/-- The bytes of a send: every lane's word, lanes in order, then the next register.
Log entry 41 (DEDUCED). -/
def Env.sendBytes (e : Env) (a : Src) (n : Nat) : List Byte :=
  (List.range (n / 4)).flatMap (fun i => leBytes 4 (e.w.srcAt a (i / 32) (i % 32)).toNat)

/-- The length of a send, or REASON 0.
Log entry 41 (DEDUCED). -/
def Env.sendLen (e : Env) (c : SReg) : Except Stop Nat :=
  let v := (e.w.s c.toNat).toNat
  if 2 ^ 9 ≤ v || v % 4 != 0 || 256 < v then .error (e.ill 19) else .ok v

/-- MSEND.
Log entries 25 (DESIGN CHOICE), 41 (DEDUCED). -/
def opMsend (o : OpMsend) : Op := fun e s =>
  let us : List Use := [useS o.d 1 43, useS o.b 1 27, useS o.c 1 19] ++ (if o.mc then [.s (o.b.toNat + 1) 2 2 27] else [])
  let data := fun (n : Nat) => match o.a with
    | .v i => Use.v i.toNat n 1 35
    | .s i => Use.s i.toNat n 1 35
  match (do
      e.aligned us
      if e.g o.g = 0 then
        e.need (us ++ [data 1])
        pure none
      else
        let n ← e.sendLen o.c
        e.refuseIf (if o.mc then fld (e.w.s o.b.toNat).toNat 16 16 != 0 else 2 ^ 6 ≤ fld (e.w.s o.b.toNat).toNat 16 16) 27
        e.need (us ++ [data (if 128 < n then 2 else 1)])
        let ds ← e.sendTo s o
        pure (some (n, ds)) : Except Stop (Option (Nat × List Nat))) with
  | .error st => st.res
  | .ok none => .ok s
  | .ok (some (n, ds)) =>
    if 64 ≤ (s.sends.filter (·.core == e.c.core)).length then .ok (e.upd s (fun w => w.setS o.d.toNat 0xFFFFFFFF))
    else
      let s0 := s
      let s := e.release s true .dev
      let die := s.dieOf e.c.core
      let (h, s) := s.newHandle false 64 (2 * e.c.core) ((s.sends.filter (·.core == e.c.core)).map (·.handle))
      let (id, s) := s.fresh
      let ent : SendEnt := { id := id, core := e.c.core, ctx := e.x.key, handle := h, wg := e.wg.id, left := ds.length,
                             stale := false, mc := o.mc }
      let bs := e.sendBytes o.a n
      let src := s.logicalOf (e.part s) (clusterOf e.c.core)
      let s := ds.foldl (fun (s : State) cl =>
        let (k, s) := s.fresh
        let p : TagPkt := { id := k, ctx := e.x.key, send := id, src := src, dst := cl, stamp := s.genOf die e.x.key cl,
                            tag := (e.w.s o.b.toNat).toNat % 2 ^ 16, data := bs, sentAt := s.time, mc := o.mc }
        { s with pkts := s.pkts ++ [p] }) { s with sends := s.sends ++ [ent] }
      e.releasing s0 true (e.g o.g) (.ok (e.upd s (fun w => w.setS o.d.toNat h)))

/-! ## MRECV, MTEST and MCANCEL (R247 to R250, R350) -/

/-- A receive accepts a tag and a source. -/
def Recv.accepts (r : Recv) (tag src : Nat) : Bool :=
  Nat.land (Nat.xor tag r.tag) r.tmask == 0 && Nat.land (Nat.xor src r.src) r.smask == 0

/-- Write a message's bytes at a receive's address in its workgroup, if that is resident.
Log entry 42 (DEDUCED). -/
def State.recvWrite (s : State) (r : Recv) (bs : List Byte) : State :=
  match s.wg? r.wg with
  | some g => s.scrWrite g.core (g.scrBase + r.addr) bs
  | none => s

/-- MRECV.
Log entries 25 (DESIGN CHOICE), 41 (DEDUCED). -/
def opMrecv (o : OpSSSS) : Op := fun e s =>
  let a := fld (e.w.s o.a.toNat).toNat 0 20
  let b := (e.w.s o.b.toNat).toNat
  let c := (e.w.s o.c.toNat).toNat
  let cl := clusterOf e.c.core
  let m := (s.msg? e.x.key cl).getD (MsgState.fresh e.x.key cl)
  match e.valued [useS o.d 1 43, useS o.a 1 35, useS o.b 1 27, useS o.c 1 19] [useS o.a 1 35]
      (e.refuseIf (e.g o.g != 0 && a % 4 != 0) 35) with
  | .error st => st.res
  | .ok _ =>
    if e.g o.g = 0 then .ok s
    else if e.l.pk.scr < a + 256 then .trap ⟨5, e.c.mask, 2 ^ 31, allAt e.c.mask a⟩
    else if 128 ≤ m.recvs.length then .ok (e.upd s (fun w => w.setS o.d.toNat 0xFFFFFFFF))
    else
      let (h, s) := s.newHandle true 128 (2 * (64 * e.x.key + cl) + 1) (m.recvs.map (·.handle))
      let r : Recv := { handle := h, wg := e.wg.id, addr := a, tag := b % 2 ^ 16, src := b / 2 ^ 16, tmask := c % 2 ^ 16,
                        smask := c / 2 ^ 16, done := none }
      let s := match m.ovf.findIdx? (fun v => r.accepts v.tag v.src) with
        | some i =>
          let v := m.ovf.getD i ⟨0, 0, []⟩
          (s.modMsg e.x.key cl (fun m => { m with
              ovf := m.ovf.eraseIdx i
              recvs := m.recvs ++ [{ r with done := some (v.data.length, v.tag, v.src) }] })).recvWrite r v.data
        | none => s.modMsg e.x.key cl (fun m => { m with recvs := m.recvs ++ [r] })
      .ok (e.upd s (fun w => w.setS o.d.toNat h))

/-- MTEST: what a handle of the core's sends, or of the cluster's receives of the context, reads.
Log entry 41 (DEDUCED). -/
def opMtest (o : OpSS) : Op := checked [useS o.d 2 43, useS o.a 1 35] (oncePerWarp o.g fun e s =>
  let h := e.w.s o.a.toNat
  let cl := clusterOf e.c.core
  let write := fun (s : State) (st : Nat) (len tag src : Nat) =>
    e.upd s (fun w => (w.setS o.d.toNat (BitVec.ofNat 32 (st + len * 2 ^ 16))).setS (o.d.toNat + 1) (BitVec.ofNat 32 (tag + src * 2 ^ 16)))
  match s.sends.find? (fun x => x.core == e.c.core && x.ctx == e.x.key && x.handle == h) with
  | some x =>
    let gone := { s with sends := s.sends.filter (·.id != x.id) }
    if x.stale then .ok (write gone 2 0 0 0) else if x.left = 0 then .ok (write gone 1 0 0 0) else .ok (write s 0 0 0 0)
  | none =>
    match ((s.msg? e.x.key cl).map (·.recvs)).getD [] |>.find? (fun r => r.handle == h) with
    | none => .ok (write s 4 0 0 0)
    | some r =>
      match r.done with
      | none => .ok (write s 0 0 0 0)
      | some (len, tag, src) =>
        .ok ((write (s.modMsg e.x.key cl (fun m => { m with recvs := m.recvs.filter (fun x => x.handle != h) })) 1 len tag src).l1Flush
          e.c.core))

/-- MCANCEL.
Log entry 41 (DEDUCED). -/
def opMcancel (o : OpPS) : Op := checked [useS o.a 1 35] (oncePerWarp o.g fun e s =>
  let h := e.w.s o.a.toNat
  let cl := clusterOf e.c.core
  let pending := ((s.msg? e.x.key cl).map (·.recvs)).getD [] |>.any (fun r => r.handle == h && r.done.isNone)
  let s := if pending then s.modMsg e.x.key cl (fun m => { m with recvs := m.recvs.filter (fun x => x.handle != h) }) else s
  .ok (e.upd s (overLanes (e.g o.g) (fun l w => w.setP o.d.toNat l pending))))

/-! ## Messages on their way (R348, R349) -/

def State.reply (s : State) (p : TagPkt) (stale : Bool) : State :=
  let (id, s) := s.fresh
  let core := ((s.sends.find? (·.id == p.send)).map (·.core)).getD 0
  { s with replies := s.replies ++ [⟨id, p.send, stale, p.dst, core⟩], pkts := s.pkts.filter (·.id != p.id) }

/-- A message has been in flight for 20 µs, as its destination's die counts the time (R348).
Log entry 42 (DEDUCED). -/
def State.expired (s : State) (p : TagPkt) : Bool := msgLife ≤ s.elapsed (s.dieOfCluster p.dst) p.sentAt

/-- TAGMSG_ARRIVAL: packet a, the oldest of its source cluster for its destination, whatever their contexts (R341, R351). A message state
is a unit of the cluster: a halt of the context does not close it, and a save leaves its receives in it (R316, R349), so the bytes for a
workgroup that is away are kept for its restore.
Log entry 42 (DEDUCED). -/
def tagArrival (a : EvArgs) (s : State) : Option State :=
  match s.pkts.find? (·.id == a.a) with
  | none => none
  | some p =>
    let die := s.dieOfCluster p.dst
    let first := (s.pkts.find? (fun q => q.src == p.src && q.dst == p.dst)).map (·.id)
    if first != some p.id || s.expired p || !s.over 4 p.id (s.dieOfCluster p.src) die then none
    else
      let m := (s.msg? p.ctx p.dst).getD (MsgState.fresh p.ctx p.dst)
      if !m.opened || m.gen != p.stamp then
        some ((s.modMsg p.ctx p.dst (fun m => { m with stale := m.stale + 1 })).reply p (!p.mc))
      else
        match m.recvs.find? (fun r => r.done.isNone && r.accepts p.tag p.src) with
        | some r =>
          let late := if (s.wg? r.wg).isSome then [] else p.data
          let hit := fun (x : Recv) =>
            if x.handle = r.handle then { x with done := some (p.data.length, p.tag, p.src), late := late } else x
          some (((s.modMsg p.ctx p.dst (fun m => { m with recvs := m.recvs.map hit })).recvWrite r p.data).reply p false)
        | none =>
          if m.ovf.length < 32 then
            some ((s.modMsg p.ctx p.dst (fun m => { m with ovf := m.ovf ++ [⟨p.src, p.tag, p.data⟩] })).reply p false)
          else
            let s := { s with pkts := s.pkts.filter (·.id != p.id) }
            some (s.raiseHalt p.ctx die 0 0 0 0 0 { cause := 34, src := 8, info := p.src })

/-- TAGMSG_LIFETIME_DROP: packet a has been in flight for 20 µs.
Log entry 42 (DEDUCED). -/
def tagDrop (a : EvArgs) (s : State) : Option State :=
  match s.pkts.find? (·.id == a.a) with
  | some p => if s.expired p then some (s.reply p (!p.mc)) else none
  | none => none

/-- SEND_REPLY_ARRIVAL: reply a, the oldest of its cluster for its core (R341), reaches its send entry, if the entry still stands. -/
def sendReply (a : EvArgs) (s : State) : Option State :=
  match s.replies.find? (·.id == a.a) with
  | some r =>
    if (s.replies.find? (fun q => q.src == r.src && q.core == r.core)).map (·.id) != some r.id
        || !s.over 5 r.id (s.dieOfCluster r.src) (s.dieOf r.core) then none
    else some { s with
      replies := s.replies.filter (·.id != r.id)
      sends := updateWhere (·.id == r.send) (fun (x : SendEnt) => { x with left := x.left - 1, stale := x.stale || r.stale }) s.sends }
  | none => none

/-- GENERATION_UPDATE: update a, the oldest of its cluster for its die (R341), is applied by its die.
Log entry 67 (DEDUCED). -/
def genUpdate (a : EvArgs) (s : State) : Option State :=
  match s.genUpds.find? (·.id == a.a) with
  | some u =>
    let first := (s.genUpds.find? (fun q => q.die == u.die && q.cluster == u.cluster)).map (·.id)
    if first != some u.id || !s.over 6 u.id (s.dieOfCluster u.cluster) u.die then none
    else some { s with genUpds := s.genUpds.filter (·.id != u.id), genTab := Tbl.set 0 s.genTab (genKey u.die u.ctx u.cluster) u.gen }
  | none => none

/-- GENERATION_REUSE_DELAY_EXPIRY: the waiting state of context a on cluster b opens (R348).
Log entries 42 (DEDUCED), 67 (DEDUCED). -/
def genReuse (a : EvArgs) (s : State) : Option State :=
  match s.msg? a.a a.b, s.part? (a.a / 8) with
  | some m, some p => if m.opening && s.reuseOver m then some (s.openMsg p a.a a.b) else none
  | _, _ => none

def execTagmsgArrival (s : State) : Out := event "TAGMSG_ARRIVAL" tagArrival s
def execTagmsgLifetimeDrop (s : State) : Out := event "TAGMSG_LIFETIME_DROP" tagDrop s
def execSendReplyArrival (s : State) : Out := event "SEND_REPLY_ARRIVAL" sendReply s
def execGenerationUpdate (s : State) : Out := event "GENERATION_UPDATE" genUpdate s
def execGenerationReuseDelayExpiry (s : State) : Out := event "GENERATION_REUSE_DELAY_EXPIRY" genReuse s

/-- The next event of the message network. -/
def msgNext (s : State) : Option (Instr × EvArgs) :=
  ((s.genUpds.find? (fun u => (genUpdate { a := u.id } s).isSome)).map (fun u => (Instr.generationUpdate, ({ a := u.id } : EvArgs)))).or
  ((s.msgs.find? (fun m => m.opening && s.reuseOver m && (s.part? (m.ctx / 8)).isSome)).map
    (fun m => (Instr.generationReuseDelayExpiry, ({ a := m.ctx, b := m.cluster } : EvArgs)))) |>.or
  ((s.replies.find? (fun r => (sendReply { a := r.id } s).isSome)).map
    (fun r => (Instr.sendReplyArrival, ({ a := r.id } : EvArgs)))) |>.or
  (s.pkts.findSome? (fun p =>
    let ev : EvArgs := { a := p.id }
    if s.expired p then some (Instr.tagmsgLifetimeDrop, ev)
    else if (tagArrival ev s).isSome then some (Instr.tagmsgArrival, ev)
    else none))

/-! ## The meanings -/

def execMsend (o : OpMsend) (s : State) : Out := performOp (opMsend o) s
def execMrecv (o : OpSSSS) (s : State) : Out := performOp (opMrecv o) s
def execMtest (o : OpSS) (s : State) : Out := performOp (opMtest o) s
def execMcancel (o : OpPS) (s : State) : Out := performOp (opMcancel o) s

end Sys2Proof.Machine
end

