-- ==== Sys2Proof/Machine/NewWarp.lean ====
section
/-!
DEFINITION. Machine/NewWarp.lean: a warp as it starts (R10, R32, R110).
-/

namespace Sys2Proof.Machine

/-- Warp `widx` of a workgroup at its entry: registers zero but for the scalars given, predicates false, handles
unbound, every lane's generator seeded from 0. -/
def Warp.start (g : Wg) (widx : Nat) (lmask : LaneMask) (entry : DWord) (sregs : Tbl Word) : Warp where
  wg := g.id
  widx := widx
  lmask := lmask
  exited := 0
  pcs := (lanesOf lmask).foldl (fun t l => Tbl.set 0 t l entry) []
  waits := []
  arrived := 0
  phases := []
  arrSaved := 0
  phSaved := []
  cbarRec := 0
  cbarPh := []
  opp := []
  selWait := 0
  demoted := none
  vregs := []
  sregs := sregs
  preds := []
  rngSeed := 0
  rng := (lanesOf lmask).foldl (fun t l => Tbl.set 0 t l (seedState 0 (g.base.toNat + 32 * widx + l))) []
  handles := []
  shape := none
  inHandler := false
  trcause := 0
  tramask := 0
  trfmask := 0
  trpc := 0
  trpcv := []
  traddr := []
  trinfo := 0
  assoc := none
  cvPass := false
  rob := []
  forks := []
  feeding := false
  evicting := none

end Sys2Proof.Machine
end

