-- ==== Sys2Proof/Machine/Launch.lean ====
section
/-!
DEFINITION. Machine/Launch.lean: launch packets, their checks, the launch window, the system channel and LAUNCH (R210,
R292 to R296), and the completion of a launch.
-/

namespace Sys2Proof.Machine

/-! ## The packet (R292) -/

/-- The fields of 1,024 packet bits. -/
def Packet.ofBits (b : Nat) : Packet where
  entry := fld b 0 64
  arg := fld b 64 64
  cctr := fld b 128 64
  limit := fld b 192 64
  work := fld b 256 64
  res := fld b 320 64
  pred := fld b 384 64
  ltab := fld b 448 64
  leases := (List.range 4).map (fun i => fld b (512 + 64 * i) 64)
  shapes := (List.range 4).map (fun i => fld b (768 + 32 * i) 32)
  btab := fld b 896 64
  ctab := fld b 960 64

/-- A lease entry (Table 4). -/
def Lease.ofEntry (e : Nat) : Lease := ⟨fld e 0 40, fld e 40 22, bit e 62, bit e 63⟩

/-! ## What one workgroup and one cluster need (R14, R29 to R31) -/

/-- The physical vector registers of a warp. -/
def Packet.vcost (p : Packet) : Nat := roundUp p.regs 8 + 32
/-- The tiles of a warp. -/
def Packet.tcost (p : Packet) : Nat := roundUp p.tiles 2
/-- The scratchpad blocks of 4 KiB of a workgroup. -/
def Packet.blocks (p : Packet) : Nat := ceilDiv p.scr 4096

/-- What a core has free: vector registers, tiles, barriers, the free slots, and the scratchpad blocks in use. -/
structure Room where
  v : Nat
  t : Nat
  b : Nat
  slots : List Nat
  blocks : List Nat
  deriving DecidableEq, Repr

/-- An empty core. -/
def Room.empty : Room := ⟨4096, 64, 96, List.range 32, []⟩

/-- The lowest run of `n` scratchpad blocks that is free. -/
def Room.run (r : Room) (n : Nat) : Option Nat :=
  if n = 0 then some 0
  else (List.range 256).find? (fun i => i + n ≤ 256 && (List.range n).all (fun k => !r.blocks.contains (i + k)))

/-- Place a workgroup of `n` warps: the room left, its scratchpad block and its slots.
Log entry 37 (DESIGN CHOICE). -/
def Room.take (r : Room) (p : Packet) (n : Nat) : Option (Room × Nat × List Nat) :=
  if r.v < n * p.vcost || r.t < n * p.tcost || r.b < p.bars || r.slots.length < n then none
  else
    (r.run p.blocks).map (fun i =>
      (⟨r.v - n * p.vcost, r.t - n * p.tcost, r.b - p.bars, r.slots.drop n,
        r.blocks ++ (List.range p.blocks).map (· + i)⟩, i, r.slots.take n))

/-- Place workgroups, given as numbers of warps, each on the lowest core on which it fits beside the others (R302): for each,
the core's place in the list, its block and its slots.
Log entry 37 (DESIGN CHOICE). -/
def assign (p : Packet) : List Room → List Nat → Option (List (Nat × Nat × List Nat))
  | _, [] => some []
  | rooms, n :: ns =>
    match (List.range rooms.length).findSome? (fun i =>
      ((rooms[i]?).bind (fun r => r.take p n)).map (fun x => (i, x))) with
    | none => none
    | some (i, r, blk, sl) => (assign p (rooms.set i r) ns).map ((i, blk, sl) :: ·)

/-! ## The checks of a packet (R293) -/

/-- Code 1: a work condition of R14.
Log entry 48 (DEDUCED). -/
def Packet.badWork (p : Packet) : Bool :=
  6 < p.wgLev || 6 < p.clLev || 64 < p.bnd 6 || p.clLev < p.wgLev || 10 < p.bnd p.wgLev ||
    3 < p.bnd p.clLev - p.bnd p.wgLev

/-- Code 2: a full cluster-group does not fit an empty cluster of eight cores.
Log entry 48 (DEDUCED). -/
def Packet.tooBig (p : Packet) : Bool :=
  let n := ceilDiv (2 ^ p.bnd p.wgLev) 32
  (assign p (List.replicate 8 Room.empty) (List.replicate (2 ^ (p.bnd p.clLev - p.bnd p.wgLev)) n)).isNone

/-- Code 3: a field out of its range.
Log entry 48 (DEDUCED). -/
def Packet.badField (p : Packet) : Bool :=
  bit p.work 63 || fld p.res 58 6 != 0 || p.regs = 0 || 256 < p.regs || p.scal < 8 || 64 < p.scal || 16 < p.tiles
    || 2 ^ 20 < p.scr || 96 < p.bars || 256 < p.maxBanks || p.pmode = 3 || 8 < p.nbkt || 8 < p.ncv
    || p.entry % 8 != 0 || p.cctr % 16 != 0 || p.ltab % 8 != 0 || p.btab % 16 != 0 || p.ctab % 16 != 0

/-- Read a table that the packet names, at its home, as a read of the launch through the given ranges, a bad line from its mirror (R325). The
error is a fault where no copy is good.
Log entries 34 (DEDUCED), 77 (DEDUCED). -/
def State.readTable (s : State) (w : Who) (va n : Nat) : Except (Option CFault) (State × List Byte) :=
  match s.chunks w .read false none va n with
  | .error _ => .error none
  | .ok cs =>
    match s.checkReads cs with
    | .error h => .error (some h)
    | .ok s => .ok (s, s.homeBytes cs)

/-- A bucket (Table 4). -/
structure Bucket where
  lo : List Nat
  hi : List Nat
  entry : Nat
  plim : Nat
  deriving DecidableEq, Repr

def Bucket.ofBits (b : Nat) : Bucket :=
  ⟨(List.range 4).map (fun k => fld b (64 * k) 32), (List.range 4).map (fun k => fld b (64 * k + 32) 32),
    fld b 256 64, fld b 320 64⟩

/-- Code 7. -/
def Bucket.bad (b : Bucket) (limit : Nat) : Bool :=
  (b.lo.zip b.hi).any (fun x => x.2 < x.1) || b.entry % 8 != 0 || (limit != 0 && b.plim < limit)
    || (limit = 0 && b.plim != 0)

/-- The bucket matches SHAPE0 to SHAPE3 (R303). -/
def Bucket.fits (b : Bucket) (shapes : List Nat) : Bool :=
  ((b.lo.zip b.hi).zip shapes).all (fun x => x.1.1 ≤ x.2 && x.2 ≤ x.1.2)

/-- What a packet's tables hold; `bad` says that one cannot be read, or that the lease table's count is above 255. -/
structure Tables where
  leases : List Lease
  buckets : List Bucket
  convoys : List Nat               -- the 128 bits of each entry
  bad : Bool
  deriving DecidableEq, Repr

/-- The `w`-byte entries of a table of `n` entries at `a`; none are read where the count or the address is one that R293 refuses. -/
def State.readEntries (s : State) (who : Who) (n w a : Nat) : Except (Option CFault) (State × List Nat) :=
  if n = 0 || 8 < n || a % 16 != 0 then .ok (s, [])
  else (s.readTable who a (n * w)).map (fun r => (r.1, (List.range n).map (fun i => recAt r.2 (w * i) w)))

/-- The entries of the lease table of a packet (R293). -/
def State.leaseTable (s : State) (who : Who) (pk : Packet) : Except (Option CFault) (State × List Lease) :=
  if pk.ltab = 0 || pk.ltab % 8 != 0 then .ok (s, [])
  else do
    let (s, c) ← s.readTable who pk.ltab 8
    if 255 < leNat c then .error none
    else
      let (s, bs) ← s.readTable who (pk.ltab + 8) (8 * leNat c)
      pure (s, ((List.range (leNat c)).map (fun i => Lease.ofEntry (recAt bs (8 * i) 8))).filter (·.size != 0))

/-- What a read of a table gives: the state, what it holds, whether it cannot be read, and the fault of a line that no copy holds without
error. -/
def tableRead {α : Type} (s : State) : Except (Option CFault) (State × List α) → State × List α × Bool × Option CFault
  | .ok (t, l) => (t, l, false, none)
  | .error f => (s, [], true, f)

/-- Read the tables of a packet (R293): the state after it, what they hold, and the first fault.
Log entry 48 (DEDUCED). -/
def State.tables (s : State) (x : Ctx) (p : Part) (pk : Packet) : State × Tables × Option CFault :=
  let who := fun ls => s.engineWho x ls (p.dies.getD 0 0) none
  let inl := (pk.leases.map Lease.ofEntry).filter (·.size != 0)
  let (s, tab, bad1, f1) := tableRead s (s.leaseTable (who inl) pk)
  let all := inl ++ tab
  let (s, bk, bad2, f2) := tableRead s (s.readEntries (who all) pk.nbkt 48 pk.btab)
  let (s, cv, bad3, f3) := tableRead s (s.readEntries (who all) pk.ncv 16 pk.ctab)
  (s, ⟨all, bk.map Bucket.ofBits, cv, bad1 || bad2 || bad3⟩, (f1.or f2).or f3)

/-- The residency of a hard range, page by page from page number `vpn` on: whether a page is failed or refused, and the absent pages. -/
def State.hardPages (s : State) (x : Ctx) (hi : Nat) : Nat → Nat → Bool × List (Nat × Leaf)
  | 0, _ => (false, [])
  | fuel + 1, vpn =>
    if hi ≤ vpn then (false, [])
    else
      match s.walk x ((s.part? (x.key / 8)).getD ⟨0, [0], 50, 0⟩) (vpn * 2 ^ 17) with
      | none => (true, [])
      | some l =>
        if leafF l.e then (true, [])
        else
          let n := l.size / 2 ^ 17
          let (bad, more) := s.hardPages x hi fuel (vpn - vpn % n + n)
          (bad, if leafP l.e then more else (vpn * 2 ^ 17, l) :: more)

/-- The hard ranges of a launch: whether one holds a page that cannot become resident, and the absent pages (R300). -/
def State.hardState (s : State) (x : Ctx) (ls : List Lease) : Bool × List (Nat × Leaf) :=
  (ls.filter (fun l => !l.soft)).foldl (fun acc l =>
    let (bad, ab) := s.hardPages x (l.base + l.size) l.size l.base
    (acc.1 || bad, acc.2 ++ ab)) (false, [])

/-- The completion record lies in a range with RW = 1.
Log entry 48 (DEDUCED). -/
def Packet.cctrOk (pk : Packet) (w : Who) : Bool :=
  [pk.cctr, pk.cctr + 15].all (fun a => canonicalVa a && (w.ranges a).any (·.rw))

/-- The rejection code of a packet, 0 for none: the lowest that applies (Table 5).
Log entries 34 (DEDUCED), 48 (DEDUCED). -/
def State.verdict (s : State) (x : Ctx) (p : Part) (pk : Packet) (t : Tables) (seq : Nat) : Nat :=
  let who := s.engineWho x t.leases (p.dies.getD 0 0) none
  if pk.badWork then 1
  else if pk.tooBig then 2
  else if pk.badField || t.convoys.any (fun c => fld c 103 25 != 0) then 3
  else if t.convoys.any (fun c => fld c 0 5 != 0 || (1 ≤ fld c 80 16 && fld c 80 16 < 64) || 64 < fld c 96 7) then 4
  else if t.bad || t.leases.any (fun l => 2 ^ 40 < l.base + l.size) || (pk.cctr != 0 && !pk.cctrOk who) then 5
  else if (s.hardState x t.leases).1 then 6
  else if t.buckets.any (fun b => b.bad pk.limit) then 7
  else if pk.pmode = 2 && seq ≤ pk.pred then 8
  else 0

/-! ## The system channel (R295) -/

/-- A context's halt has reached a die. -/
def State.haltAt (s : State) (key die : Nat) : Bool :=
  (s.ctx? key).any (fun x => x.halt.any (fun h => h.dies.contains die))

/-- The launches that hold a queue entry of the die of index `i` (R298); a halt frees the entries of its context (R313). -/
def State.queuedOn (s : State) (p : Part) (i : Nat) : List Launch :=
  s.launches.filter (fun l => l.part == p.num && l.st == .queued && !l.doneOn i p.dies.length
    && !s.haltAt l.ctx (p.dies.getD i 0))

/-- Every die of the partition has a free queue entry. -/
def State.channelRoom (s : State) (p : Part) : Bool :=
  (List.range p.dies.length).all (fun i => (s.queuedOn p i).length < 64)

/-- A convoy declaration (R79). -/
def CvDecl.ofBits (c : Nat) : CvDecl := ⟨fld c 0 64, fld c 64 16, fld c 80 16, fld c 96 7⟩

/-- A packet enters the channel: its sequence number, its checks and its launch. The die of index 0 reads the tables; a line of them that
no copy holds without error is fault 33 (R325). -/
def State.enterChannel (s : State) (p : Part) (x : Ctx) (src : Source) (pk : Packet) : Nat × State :=
  let seq := p.nextSeq
  let prev := (s.launches.filter (fun l => l.part == p.num && l.src == src)).getLast?.map (·.seq)
  let (s, t, fault) := s.tables x p pk
  let code := s.verdict x p pk t seq
  let hit := t.buckets.findIdx? (fun b => b.fits pk.shapes)
  let bk := hit.bind (fun i => t.buckets[i]?)
  let who := s.engineWho x t.leases (p.dies.getD 0 0) none
  let (id, s) := s.fresh
  let l : Launch :=
    { id := id, part := p.num, ctx := x.key, seq := seq, src := src, pk := pk
      entry := (bk.map (·.entry)).getD pk.entry
      limit := (bk.map (·.plim)).getD pk.limit
      bucket := hit
      leases := t.leases
      convoys := t.convoys.map CvDecl.ofBits
      pred := if pk.pmode = 1 then prev else if pk.pmode = 2 then some pk.pred else none
      arrived := s.time
      placed := [], released := [], checked := false, hints := 0, raised := []
      st := if code = 0 then .queued else .rejected code
      recorded := pk.cctr = 0 || (code = 5 && !pk.cctrOk who) }
  let s := { s.modPart p.num (fun p => { p with nextSeq := p.nextSeq + 1 }) with launches := s.launches ++ [l] }
  (seq, match fault with
    | some h => s.raiseHalt x.key (p.dies.getD 0 0) 0 0 0 seq 0 { h with src := 7 }
    | none => s)

/-- LAUNCH (R210), a .sys release: the packet of s(A) to s(A + 31), where A is a multiple of 8 (R35); its sequence number goes to
sD, sD + 1. -/
def opLaunch (o : OpLaunch) : Op := fun e s =>
  match (do
      let us := [useS o.d 2 43]
      e.aligned us
      e.refuseIf (o.a.toNat % 8 != 0 || 32 < o.a.toNat) 35
      e.need (us ++ [.s o.a.toNat 32 1 35]) : Except Stop Unit) with
  | .error st => st.res
  | .ok _ =>
    if e.g o.g = 0 then .ok s
    else
      match s.part? e.l.part with
      | none => .ok s
      | some p =>
        if !s.channelRoom p then .hold s
        else
          let pk := Packet.ofBits (wordsAt e.w.s o.a.toNat 32)
          let u := s
          let s := s.drainDie (s.dieOf e.c.core)
          let (seq, s) := s.enterChannel p e.x (.warp e.wg.id e.w.widx) pk
          e.releasing u true (e.g o.g) (.ok (e.upd s (fun w => w.setS64 o.d.toNat (BitVec.ofNat 64 seq))))

/-! ## Launch windows (R294) -/

/-- The slot `i` of a port's window. -/
def State.slot? (s : State) (port i : Nat) : Option LSlot := s.slots.find? (fun x => x.port == port && x.idx == i)

/-- A free slot that was never written. -/
def LSlot.new (port i : Nat) : LSlot := ⟨port, i, [], [], false, none, none⟩

def State.putSlot (s : State) (x : LSlot) : State :=
  { s with slots := s.slots.filter (fun y => !(y.port == x.port && y.idx == x.idx)) ++ [x] }

/-- Each doubleword at bytes 64 to 127 has been wholly written. -/
def LSlot.full (x : LSlot) : Bool := (List.range 64).all (fun i => x.written.contains (64 + i))

/-- The slot becomes free. -/
def LSlot.release (x : LSlot) : LSlot := { x with written := [], committed := false, bound := none }

/-- Bytes written at offset `off` of one slot. -/
def State.slotPart (s : State) (port i off : Nat) (bs : List Byte) : State :=
  let x := (s.slot? port i).getD (LSlot.new port i)
  if x.committed then { s with slotErr := s.slotErr + 1 }
  else
    let x := { x with
      bytes := writeBytes x.bytes off bs
      written := x.written ++ ((List.range bs.length).map (· + off)).filter (fun k => !x.written.contains k) }
    if !x.full then s.putSlot x
    else if s.stt != 1 then { s.putSlot x.release with slotErr := s.slotErr + 1 }
    else
      match ((s.ports[port]?).bind (·.bound)).bind s.ctx? with
      | none => { s.putSlot x.release with slotErr := s.slotErr + 1 }
      | some c =>
        if c.halt.any (fun h => !h.dies.isEmpty) then { s.putSlot x.release with slotErr := s.slotErr + 1 }
        else s.putSlot { x with committed := true, bound := some c.key }

/-- LAUNCH_SLOT_WRITE: port `a`, window offset `b`, the bytes `data`, slot by slot in ascending order.
Log entry 58 (DESIGN CHOICE). -/
def slotWrite (a : EvArgs) (s : State) : Option State :=
  if s.stt = 2 || s.ports.length ≤ a.a || 65536 < a.b + a.data.length || a.data.isEmpty then none
  else
    let first := a.b / 128
    let n := (a.b + a.data.length - 1) / 128 - first + 1
    some ((List.range n).foldl (fun s k =>
      let lo := max a.b (128 * (first + k))
      let hi := min (a.b + a.data.length) (128 * (first + k) + 128)
      s.slotPart a.a (first + k) (lo - 128 * (first + k)) ((a.data.drop (lo - a.b)).take (hi - lo))) s)

/-- SYSTEM_CHANNEL_ENTRY: the packet of slot `b` of port `a` enters the channel of its context's partition. -/
def channelEntry (a : EvArgs) (s : State) : Option State :=
  match s.slot? a.a a.b with
  | none => none
  | some x =>
    match x.bound.bind s.ctx? with
    | none => none
    | some c =>
      match s.part? (c.key / 8) with
      | none => none
      | some p =>
        if !x.committed || !s.channelRoom p then none
        else
          let pk := Packet.ofBits (leNat (readBytes x.bytes 0 128))
          let src : Source := .host a.a
          let (seq, s) := s.enterChannel p c src pk
          some (s.putSlot { x.release with seq := some seq })

/-! ## Completion (R296) -/

/-- Every die of the partition has released the launch's cluster-groups. -/
def Launch.doneAll (l : Launch) (p : Part) : Bool :=
  (List.range p.dies.length).all (fun i => l.doneOn i p.dies.length)

/-- The 8 bytes of STATUS. -/
def Launch.status (l : Launch) (code : Nat) : List Byte := leBytes 8 (code + l.seq % 2 ^ 48 * 2 ^ 16)

/-- The die of index 0 writes STATUS and adds 1 to COUNT; a refusal is context fault 36, and a COUNT that cannot be read is fault 33
(R325).
Log entries 48 (DEDUCED), 49 (DEDUCED). -/
def State.record (s : State) (p : Part) (x : Ctx) (l : Launch) (code : Nat) : State :=
  let die := p.dies.getD 0 0
  let halt := fun (h : CFault) => s.raiseHalt x.key die 0 0 0 l.seq 0 { h with src := 7 }
  match s.chunks (s.engineWho x l.leases die none) .write false none l.pk.cctr 16 with
  | .error _ => halt { cause := 36, va := l.pk.cctr }
  | .ok cs => match s.checkReads cs with
  | .error h => halt h
  | .ok s =>
    let old := cs.flatMap (fun c => match c.pl with
      | .dram pa _ _ => readBytes s.mem pa c.n
      | _ => [])
    let new := leBytes 8 ((leNat (old.take 8) + 1) % 2 ^ 64) ++ l.status code
    (cs.foldl (fun (acc : State × List Byte) c => (acc.1.homeWrite die none c (acc.2.take c.n), acc.2.drop c.n)) (s, new)).1

/-- LAUNCH_COMPLETION: the launch numbered `b` of partition `a` completes, or its rejection is recorded. Completion is a .sys release
whether a record is written or not (R102): every write of the partition's dies comes before it.
Log entry 49 (DEDUCED). -/
def launchDone (a : EvArgs) (s : State) : Option State :=
  match s.part? a.a, s.launches.find? (fun l => l.part == a.a && l.seq == a.b) with
  | some p, some l =>
    match s.ctx? l.ctx with
    | none => none
    | some x =>
      let write := fun (s : State) (code : Nat) =>
        let s := s.drain (fun w => p.dies.contains w.die)
        let s := s.modLaunch l.id (fun l => { l with st := if code = 0 then .completed else l.st, recorded := true })
        if l.recorded || x.halt.any (fun h => h.dies.contains (p.dies.getD 0 0)) then s else s.record p x l code
      match l.st with
      | .queued => if l.doneAll p && !x.halt.any (fun h => h.dies.contains (p.dies.getD 0 0)) then some (write s 0) else none
      | .rejected c => if l.recorded then none else some (write s c)
      | .completed | .discarded => none
  | _, _ => none

/-! ## The meanings -/

def execLaunch (o : OpLaunch) (s : State) : Out := performOp (opLaunch o) s

def execLaunchSlotWrite (s : State) : Out := event "LAUNCH_SLOT_WRITE" slotWrite s
def execSystemChannelEntry (s : State) : Out := event "SYSTEM_CHANNEL_ENTRY" channelEntry s
def execLaunchCompletion (s : State) : Out := event "LAUNCH_COMPLETION" launchDone s

end Sys2Proof.Machine
end

