-- ==== Sys2Proof/Machine/Record.lean ====
section
/-!
DEFINITION. Machine/Record.lean: the records of the save area (R315, R317, R318): a warp and a workgroup as bytes, and back.
-/

namespace Sys2Proof.Machine

/-! ## The save area -/

/-- Bytes cut or filled with zeros to a length. -/
def padTo (n : Nat) (bs : List Byte) : List Byte := (bs ++ List.replicate (n - bs.length) 0).take n

/-- Write bytes of a context through its standing ranges (R314, R326); the flag says whether they were written. -/
def State.areaWrite (s : State) (x : Ctx) (die va : Nat) (bs : List Byte) : State × Bool :=
  match s.chunks (s.engineWho x [] die none) .write false none va bs.length with
  | .error _ => (s, false)
  | .ok cs =>
    ((cs.foldl (fun (acc : State × List Byte) c => (acc.1.homeWrite die none c (acc.2.take c.n), acc.2.drop c.n)) (s, bs)).1, true)

/-- Read bytes of a context through its standing ranges, a bad line from its mirror (R325); an error where they cannot be read: with the
fault where no copy is good. -/
def State.areaRead (s : State) (x : Ctx) (die va n : Nat) : Except (Option CFault) (State × List Byte) :=
  match s.chunks (s.engineWho x [] die none) .read false none va n with
  | .error _ => .error none
  | .ok cs => match s.checkReads cs with
    | .error h => .error (some h)
    | .ok s => .ok (s, s.homeBytes cs)

/-! ## Warps (R318) -/

/-- The length of a warp's record. -/
def Warp.recLen (w : Warp) (p : Packet) : Nat :=
  4096 + 128 * p.regs + 12288 * p.tiles + (w.handles.map (fun (h : Nat × Handle) => 256 + 2048 * h.2.banks.length)).foldl (· + ·) 0

/-- The code of a wait word. -/
def Wait.code : Wait → Nat
  | .ready | .tinv _ => 0
  | .wsync _ => 1
  | .bsync .. => 2
  | .bwait .. => 3
  | .ldfe _ => 4
  | .cvld _ => 5
  | .cqwait .. => 6
  | .cbar _ => 7
  | .waitpred => 8
  | .rdv => 9
  | .qmapRd .. => 10
  | .cwait _ => 11

/-- The arrival mark of a lane: of its wait; where it does not wait, of the wait that the trap interrupted, or of CBAR in mode 1. -/
def Warp.mark (w : Warp) (l : Nat) : Bool :=
  if w.wait l != .ready then w.arrived.getLsbD l else if w.inHandler then w.arrSaved.getLsbD l else w.cbarRec.getLsbD l

/-- The phase recorded for a lane. -/
def Warp.phaseOf (w : Warp) (l : Nat) : Word :=
  if w.wait l != .ready then Tbl.get 0 w.phases l
  else if w.inHandler then Tbl.get 0 w.phSaved l
  else if w.cbarRec.getLsbD l then Tbl.get 0 w.cbarPh l
  else Tbl.get 0 w.phases l

def lanes32 (f : Nat → List Byte) : List Byte := (List.range 32).flatMap f

/-- A handle's 16 bytes. -/
def handleBytes (h : Option Handle) : List Byte :=
  match h with
  | none => List.replicate 16 0
  | some h =>
    let tag := h.tag.getD ⟨[], []⟩
    leBytes 1 h.banks.length ++ leBytes 1 (1 + if h.tag.isSome then 2 else 0) ++ leBytes 2 0 ++ leBytes 4 h.steps.toNat
      ++ leBytes 2 tag.sa.length ++ leBytes 2 tag.sb.length ++ leBytes 4 0

/-- The plane tags and banks of some handles, each bank's 2,048 bytes by its place in their order. -/
def handleData (bank : Nat → List Byte) : Nat → Tbl Handle → List Byte
  | _, [] => []
  | k, (_, h) :: t =>
    let tag := h.tag.getD ⟨[], []⟩
    padTo 256 ((tag.sa ++ tag.sb).flatMap (leBytes 1)) ++ (List.range h.banks.length).flatMap (fun j => bank (k + j))
      ++ handleData bank (k + h.banks.length) t

/-- A warp's record; `g` is its workgroup record's index, `tiles` its tiles' bytes.
Log entries 50 (DEDUCED), 56 (DEDUCED). -/
def Warp.record (w : Warp) (p : Packet) (g : Nat) (tiles : List Byte) (bank : Nat → List Byte) : List Byte :=
  let a := w.assoc.getD ⟨0, 0, false, 0, 0⟩
  leBytes 8 (w.recLen p) ++ leBytes 4 g ++ leBytes 4 w.widx ++ leBytes 4 w.lmask.toNat ++ leBytes 4 w.exited.toNat
    ++ leBytes 4 ((if w.inHandler then 1 else 0) + (if w.demoted.isSome then 2 else 0) + (if w.shape.isSome then 4 else 0))
    ++ leBytes 4 ((w.shape.map Shape.word).getD 0)
    ++ leBytes 4 (a.decl + (if w.assoc.isSome then 8 else 0) + a.cause * 16 + a.slot * 64) ++ leBytes 4 a.pos
    ++ leBytes 4 w.rngSeed.toNat ++ leBytes 4 w.trcause.toNat ++ leBytes 4 w.tramask.toNat ++ leBytes 4 w.trfmask.toNat
    ++ leBytes 4 w.trinfo.toNat ++ leBytes 4 0 ++ leBytes 8 w.trpc.toNat ++ List.replicate 56 0
    ++ lanes32 (fun l => leBytes 8 (w.pc l).toNat)
    ++ lanes32 (fun l => leBytes 8 (Tbl.get 0 w.trpcv l).toNat)
    ++ lanes32 (fun l => leBytes 8 (Tbl.get 0 w.traddr l).toNat)
    ++ lanes32 (fun l => leBytes 4 (Tbl.get 0 w.rng l).toNat)
    ++ lanes32 (fun l => leBytes 4 ((w.wait l).code + if w.mark l then 16 else 0))
    ++ lanes32 (fun l => leBytes 4 (w.phaseOf l).toNat)
    ++ lanes32 (fun l => leBytes 1 (packCodes 1 ((List.range 7).map (fun q => if w.p q l then 1 else 0))))
    ++ (List.range 64).flatMap (fun i => leBytes 4 (if i < p.scal then (w.s i).toNat else 0))
    ++ (List.range 64).flatMap (fun i => handleBytes (Tbl.find? w.handles i))
    ++ List.replicate 1504 0
    ++ (List.range p.regs).flatMap (fun r => lanes32 (fun l => leBytes 4 (w.v r l).toNat))
    ++ tiles ++ handleData bank 0 w.handles

/-- The bytes of a resident warp's tiles. -/
def State.warpTiles (s : State) (core slot : Nat) (p : Packet) : List Byte :=
  (List.range p.tiles).flatMap (fun k => s.tileBytes (s.tileKey core slot k) 0 12288)

/-- The banks of a warp, in the order of its handles. -/
def Warp.bankList (w : Warp) : List Nat := w.handles.flatMap (fun (h : Nat × Handle) => h.2.banks)

/-- The bytes of a resident warp's `j`-th bank. -/
def State.warpBank (s : State) (core : Nat) (w : Warp) (j : Nat) : List Byte :=
  readBytes s.banks ((256 * core + w.bankList.getD j 0) * 2048) 2048

/-- A table by lane from a record. -/
def laneTbl {α : Type} [DecidableEq α] (d : α) (f : Nat → α) : Tbl α :=
  (List.range 32).foldl (fun t l => Tbl.set d t l (f l)) []

/-- The lanes of which something holds. -/
def laneMask (f : Nat → Bool) : LaneMask := maskOf ((List.range 32).filter f)

/-- The handles of a record: banks of each bound handle are `names` in order. -/
def handlesOf (bs : List Byte) (dataAt : Nat) (names : List Nat) : Tbl Handle :=
  ((List.range 64).foldl (fun (acc : Tbl Handle × List Nat × Nat) i =>
    let o := 1568 + 16 * i
    let n := recAt bs o 1
    if !bit (recAt bs (o + 1) 1) 0 then acc
    else
      let m := recAt bs (o + 8) 2
      let k := recAt bs (o + 10) 2
      let code := fun j => recAt bs (acc.2.2 + j) 1
      let tag := if bit (recAt bs (o + 1) 1) 1 then
        some ⟨(List.range m).map code, (List.range k).map (fun j => code (m + j))⟩ else none
      let h : Handle := ⟨acc.2.1.take n, BitVec.ofNat 32 (recAt bs (o + 4) 4), tag, tag.isSome⟩
      (Tbl.put acc.1 i h, acc.2.1.drop n, acc.2.2 + 256 + 2048 * n)) ([], names, dataAt)).1

/-- The banks that a record's handles need. -/
def recBanks (bs : List Byte) : Nat :=
  ((List.range 64).map (fun i => if bit (recAt bs (1569 + 16 * i) 1) 0 then recAt bs (1568 + 16 * i) 1 else 0)).foldl (· + ·) 0

/-- The warp of a record (R319): its threads stand ready at the words in which they waited, a convoy member is shed with cause 3.
Log entry 56 (DEDUCED). -/
def Warp.ofRecord (bs : List Byte) (wg : Nat) (p : Packet) (names : List Nat) (now : Nat) : Warp :=
  let word := fun (off : Nat) => BitVec.ofNat 32 (recAt bs off 4)
  let flags := recAt bs 24 4
  let sw := recAt bs 28 4
  let cv := recAt bs 32 4
  let inH := bit flags 0
  let waits := fun l => fld (recAt bs (1024 + 4 * l) 4) 0 4 != 0
  let mark := fun l => bit (recAt bs (1024 + 4 * l) 4) 4
  let ph := fun l => BitVec.ofNat 32 (recAt bs (1152 + 4 * l) 4)
  let pick := fun (f : Nat → Bool) => laneTbl (0 : Word) (fun l => if f l then ph l else 0)
  { wg := wg, widx := recAt bs 12 4, lmask := word 16, exited := word 20
    pcs := laneTbl 0 (fun l => BitVec.ofNat 64 (recAt bs (128 + 8 * l) 8))
    waits := []
    arrived := laneMask (fun l => waits l && mark l)
    phases := pick waits
    arrSaved := laneMask (fun l => inH && !waits l && mark l)
    phSaved := pick (fun l => inH && !waits l)
    cbarRec := laneMask (fun l => !inH && !waits l && mark l)
    cbarPh := pick (fun l => !inH && !waits l && mark l)
    opp := [], selWait := 0
    demoted := if bit flags 1 then some (now + 64) else none
    vregs := (List.range p.regs).foldl (fun t r => (List.range 32).foldl (fun t l =>
      Tbl.set 0 t (32 * r + l) (word (4096 + 128 * r + 4 * l))) t) []
    sregs := (List.range 64).foldl (fun t i => Tbl.set 0 t i (word (1312 + 4 * i))) []
    preds := (List.range 7).foldl (fun t q => Tbl.set 0 t q (laneMask (fun l => bit (recAt bs (1280 + l) 1) q))) []
    rngSeed := word 40
    rng := laneTbl 0 (fun l => word (896 + 4 * l))
    handles := handlesOf bs (4096 + 128 * p.regs + 12288 * p.tiles) names
    shape := if bit flags 2 then some ⟨fld sw 0 8, fld sw 8 8, fld sw 16 9, Fmt.ofCode (fld sw 25 5), fld sw 30 2⟩ else none
    inHandler := inH, trcause := word 44, tramask := word 48, trfmask := word 52
    trpc := BitVec.ofNat 64 (recAt bs 64 8)
    trpcv := laneTbl 0 (fun l => BitVec.ofNat 64 (recAt bs (384 + 8 * l) 8))
    traddr := laneTbl 0 (fun l => BitVec.ofNat 64 (recAt bs (640 + 8 * l) 8))
    trinfo := word 56
    assoc := if bit cv 3 then some ⟨fld cv 0 3, recAt bs 36 4, false, fld cv 6 6, 3⟩ else none
    cvPass := false, rob := [], forks := [], feeding := false, evicting := none }

/-- Where the banks' data of a record lie, in the order of the handles' banks. -/
def recBankData (bs : List Byte) (dataAt : Nat) : List Nat :=
  ((List.range 64).foldl (fun (acc : List Nat × Nat) i =>
    let o := 1568 + 16 * i
    if !bit (recAt bs (o + 1) 1) 0 then acc
    else
      let n := recAt bs o 1
      (acc.1 ++ (List.range n).map (fun j => acc.2 + 256 + 2048 * j), acc.2 + 256 + 2048 * n)) ([], dataAt)).1

/-! ## Workgroups (Table 9) -/

/-- The 12 bytes or more that a barrier's fields take: PHASE, ARR, TGT. -/
def Barrier.head (b : Barrier) : List Byte := leBytes 4 b.phase.toNat ++ leBytes 2 b.arr ++ leBytes 2 (b.tgt.getD 0xFFFF)

def Barrier.bytes16 (b : Barrier) : List Byte :=
  b.head ++ leBytes 1 (if b.dflt then 1 else 0) ++ leBytes 3 0 ++ leBytes 4 b.bal.toNat

/-- A barrier from its bytes; the arrivals counted are of threads the record does not name. -/
def Barrier.ofBytes (bs : List Byte) (off : Nat) (dflt : Bool) (bal : Nat) : Barrier :=
  let t := recAt bs (off + 6) 2
  ⟨BitVec.ofNat 32 (recAt bs off 4), recAt bs (off + 4) 2, if t = 0xFFFF then none else some t, dflt, BitVec.ofNat 32 bal,
    false, [], []⟩

/-- The scratchpad bytes of a workgroup record, rounded to 4 KiB. -/
def scrRound (p : Packet) : Nat := roundUp p.scr 4096

def wgRecLen (p : Packet) : Nat := 1792 + scrRound p / 128 + scrRound p

/-- The record of a workgroup. -/
def State.wgRecord (s : State) (g : Wg) (l : Launch) (p : Part) : List Byte :=
  let die := s.dieOf g.core
  let n := scrRound l.pk
  let bar := ((s.cgOf g).map (·.bar)).getD Barrier.init
  leBytes 8 (wgRecLen l.pk) ++ leBytes 8 l.seq ++ leBytes 8 g.wg.toNat ++ leBytes 1 (p.pdie die) ++ leBytes 1 (s.coreInDie g.core)
    ++ leBytes 2 g.warps ++ leBytes 4 l.pk.scr ++ leBytes 4 l.pk.bars ++ leBytes 4 g.scrBase
    ++ (List.range 14).flatMap (fun q => leBytes 4 (Tbl.get 0 g.done q % 2 ^ 32))
    ++ leBytes 4 ((if g.hinted then 1 else 0) + 2 * g.rank) ++ List.replicate 28 0
    ++ bar.head ++ List.replicate 8 0 ++ List.replicate 112 0
    ++ (List.range 96).flatMap (fun k => (g.bar k).bytes16)
    ++ (List.range (n / 128)).flatMap (fun i => leBytes 1 (packCodes 1 ((List.range 8).map (fun j =>
      if s.feGet g.core (g.scrBase / 16 + 8 * i + j) then 1 else 0))))
    ++ s.scrBytes g.core g.scrBase n

/-! ## The eviction pool (R315) -/

/-- The lowest offset of the pool, a multiple of 128, at which `len` bytes fit beside the records in use. -/
def Ctx.poolFit (x : Ctx) (len : Nat) : Option Nat :=
  let size := fld x.pool.toNat 0 16 * 4096
  let ok := fun o => o + len ≤ size && x.evicted.all (fun e => !rangesMeet o len e.1 e.2)
  let starts := 0 :: x.evicted.map (fun e => roundUp (e.1 + e.2) 128)
  (starts.filter ok).foldl (fun a o => match a with
    | none => some o
    | some b => some (min b o)) none

/-- The address of a record of the pool. -/
def Ctx.poolAddr (x : Ctx) (off : Nat) : Nat := x.save.toNat + 8192 + off

end Sys2Proof.Machine
end

