-- ==== Sys2Proof/Machine/Retention.lean ====
section
/-!
DEFINITION. Machine/Retention.lean: the segments of a core's memories and the retention of their contents (R74, R396).
-/

namespace Sys2Proof.Machine

/-- The launch of a warp. -/
def State.warpLaunch (s : State) (w : Warp) : Option Launch := (s.wg? w.wg).bind (fun g => s.launch? g.launch)

/-! ## Vector register banks (R30, R74) -/

/-- The physical vector registers of one bank class that a slot's warp takes, a quarter of its cost (R30): the first, and one after the
last. The warps take them in the order of their slots. -/
def State.vecSpan (s : State) (core slot : Nat) : Nat × Nat :=
  let cost := fun (i : Nat) => (((s.warp? core i).bind s.warpLaunch).map (fun l => l.pk.vcost / 4)).getD 0
  let lo := ((List.range slot).map cost).foldl (· + ·) 0
  (lo, lo + cost slot)

/-- The slots whose warps have registers in a segment of a vector register bank: 16 registers of one class, 64 segments to a class. -/
def State.vecUsers (s : State) (core seg : Nat) : List Nat :=
  let k := (seg - 1152) % 64
  (List.range 32).filter (fun i =>
    let (lo, hi) := s.vecSpan core i
    lo < 16 * k + 16 && 16 * k < hi && lo < hi)

/-- Where the last access of a slot's vector registers is noted. -/
def vecKey (slot : Nat) : Nat := 1408 + slot

/-- A warp accesses its vector registers: their segments leave retention (R74).
Log entry 61 (DEDUCED). -/
def State.touchVec (s : State) (core slot : Nat) : State :=
  let mine := fun (e : Nat × RetSt) => e.1 / 2048 == core && 1152 ≤ e.1 % 2048 && (s.vecUsers core (e.1 % 2048)).contains slot
  (s.ret.filter mine).foldl (fun s e => s.touchSeg core (e.1 % 2048))
    { s with segAccess := Tbl.put s.segAccess (2048 * core + vecKey slot) s.clk }

/-- Every register, tile and bank of a slot's warp is accessed, by its start, its save or its restore.
Log entry 61 (DEDUCED). -/
def State.touchWarp (s : State) (core slot : Nat) : State :=
  let of := fun (n : Nat) (t : Tbl Nat) => (t.filter (fun e => e.1 / n == core && e.2 == slot + 1)).map (fun e => e.1 % n)
  (((of 64 s.tileOf).foldl (fun s t => s.touchTile core t) s).touchBanks core (of 256 s.bankOf)).touchVec core slot

/-! ## Retention (R74, R396) -/

/-- A segment lies in no allocation: a scratchpad segment, or one of a tile, of an accumulator bank or of a vector register bank.
Log entry 61 (DEDUCED). -/
def State.segFree (s : State) (core seg : Nat) : Bool :=
  if seg < 512 then
    !s.wgs.any (fun g => g.core == core && (s.launch? g.launch).any (fun l =>
      g.scrBase / 2048 ≤ seg && seg < g.scrBase / 2048 + 2 * l.pk.blocks))
  else if seg < 896 then Tbl.get 0 s.tileOf (64 * core + (seg - 512) / 6) == 0
  else if seg < 1152 then Tbl.get 0 s.bankOf (256 * core + (seg - 896)) == 0
  else (s.vecUsers core seg).isEmpty

/-- The cycle of a segment's last access; of vector registers, the last of the warps that have some in it. -/
def State.segLast (s : State) (core seg : Nat) : Nat :=
  let at' := fun (k : Nat) => Tbl.get 0 s.segAccess (2048 * core + k)
  if seg < 1152 then at' seg else ((s.vecUsers core seg).map (fun i => at' (vecKey i))).foldl max 0

/-- RETENTION_ENTRY: segment `b` of core `a` starts to enter retention, or has entered it after 48 cycles.
Log entry 61 (DEDUCED). -/
def retEntry (a : EvArgs) (s : State) : Option State :=
  let k := 2048 * a.a + a.b
  if 1408 ≤ a.b || 8 * s.clusters ≤ a.a then none
  else
    match Tbl.find? s.ret k with
    | some (.entering t) => if t + 48 ≤ s.clk then some { s with ret := Tbl.put s.ret k .held } else none
    | some _ => none
    | none =>
      let idle := s.retPol = 2 && s.segLast a.a a.b + 4096 ≤ s.clk
      if s.retPol != 0 && (s.segFree a.a a.b || idle) then some { s with ret := Tbl.put s.ret k (.entering s.clk) } else none

/-- RETENTION_EXIT: 64 cycles after it began, segment `b` of core `a` has left retention.
Log entry 61 (DEDUCED). -/
def retExit (a : EvArgs) (s : State) : Option State :=
  let k := 2048 * a.a + a.b
  match Tbl.find? s.ret k with
  | some (.leaving t) => if t + 64 ≤ s.clk then some { s with ret := Tbl.del s.ret k } else none
  | _ => none

/-- RETENTION_TIMEOUT_EXIT: with the policy off, segment `b` of core `a` begins to leave without an access.
Log entry 61 (DEDUCED). -/
def retTimeout (a : EvArgs) (s : State) : Option State :=
  let k := 2048 * a.a + a.b
  match Tbl.find? s.ret k with
  | some (.leaving _) | none => none
  | some (.entering t) => if s.retPol = 0 then some { s with ret := Tbl.put s.ret k (.leaving (max s.clk (t + 48))) } else none
  | some .held => if s.retPol = 0 then some { s with ret := Tbl.put s.ret k (.leaving s.clk) } else none

end Sys2Proof.Machine
end

