-- ==== Sys2Proof/Machine/Placement.lean ====
section
/-!
DEFINITION. Machine/Placement.lean: which launch a die serves next, placement of a cluster-group, reservation, partial eviction and
resumption, and the raise of feeding launches (R297 to R305, R315).
-/

namespace Sys2Proof.Machine

/-! ## What a die considers (R298 to R300) -/

/-- The effective priority of a launch on the die of index `i`. -/
def State.prioOn (s : State) (l : Launch) (i : Nat) : Nat :=
  if Tbl.get false l.raised i then 7
  else min 7 (l.pk.prio + s.elapsed ((((s.part? l.part).map (·.dies)).getD []).getD i 0) l.arrived / us 10)

/-- The launch has given its hint, or has completed (R211). -/
def Launch.hinted (l : Launch) : Bool := l.ended || l.wgCount ≤ l.hints

/-- The predecessor lets the launch start (R299).
Log entry 48 (DEDUCED). -/
def State.mayStart (s : State) (l : Launch) : Bool :=
  s.predDone l || (l.pk.he && match l.pred with
    | some q => s.launches.any (fun p => p.part == l.part && p.seq == q && p.hinted)
    | none => true)

/-- The launches of a partition that may place on a die, in the order in which it takes them; none of a context that is being saved
(R316). -/
def State.candidates (s : State) (p : Part) (die : Nat) : List Launch :=
  let i := p.pdie die
  let ls := s.launches.filter (fun l => l.part == p.num && l.st == .queued && !s.haltedOn l.ctx die && !s.saving l.ctx
    && !(s.ctx? l.ctx).any (·.saved) && Tbl.get 0 l.placed i < l.assigned i p.dies.length && s.mayStart l)
  sortBy (fun a b => s.prioOn b i < s.prioOn a i || (s.prioOn a i == s.prioOn b i && a.seq ≤ b.seq)) ls

/-! ## Room on a core (R31) -/

/-- The warps of a core, by slot. -/
def State.coreWarps (s : State) (core : Nat) : List (Nat × Warp) :=
  (List.range 32).filterMap (fun i => (s.warp? core i).map (fun w => (i, w)))

/-- What a core has free once the warps in some slots, and whole workgroups, have left. -/
def State.roomOf (s : State) (core : Nat) (gone : Nat → Bool) (left : Wg → Bool) : Room :=
  let ws := (s.coreWarps core).filter (fun e => !gone e.1 && !(s.wg? e.2.wg).any left)
  let gs := s.wgs.filter (fun g => g.core == core && !left g)
  let sum := fun (xs : List Nat) => xs.foldl (· + ·) 0
  let pk := fun (w : Warp) => (s.warpLaunch w).map (·.pk)
  let wpk := fun (g : Wg) => (s.launch? g.launch).map (·.pk)
  ⟨4096 - sum (ws.filterMap (fun e => (pk e.2).map Packet.vcost)), 64 - sum (ws.filterMap (fun e => (pk e.2).map Packet.tcost)),
    96 - sum (gs.filterMap (fun g => (wpk g).map Packet.bars)), (List.range 32).filter (fun i => !ws.any (fun e => e.1 == i)),
    gs.flatMap (fun g => (List.range (((wpk g).map Packet.blocks).getD 0)).map (· + g.scrBase / 4096))⟩

/-- The cores of a cluster. -/
def coresOf (cl : Nat) : List Nat := (List.range 8).map (· + 8 * cl)

/-! ## A cluster-group (R13 to R17) -/

/-- The threads of each created workgroup of cluster-group `c`. -/
def Launch.wgSizes (l : Launch) (c : Nat) : List Nat :=
  let bw := l.pk.bnd l.pk.wgLev
  let bc := l.pk.bnd l.pk.clLev
  let rem := l.threads - c * 2 ^ bc
  let n := min (2 ^ (bc - bw)) (ceilDiv rem (2 ^ bw))
  (List.range n).map (fun k => min (2 ^ bw) (rem - k * 2 ^ bw))

/-- The warps of each. -/
def Launch.wgWarps (l : Launch) (c : Nat) : List Nat := (l.wgSizes c).map (fun t => ceilDiv t 32)

/-- rec0 at the start of a thread, and every other scalar zero (R10); the fields of rec0 that R10 does not list are zero.
Log entry 72 (DESIGN CHOICE). -/
def startScalars (arg : Nat) : Tbl Word :=
  if arg = 0 then []
  else [(0, BitVec.ofNat 32 arg), (1, BitVec.ofNat 32 (arg / 2 ^ 32)), (2, BitVec.ofNat 32 4096), (6, (32 : Word))].foldl
    (fun t e => Tbl.set 0 t e.1 e.2) []

/-- The launched lanes of warp `k` of a workgroup of `t` threads (R16). -/
def launchedOf (t k : Nat) : LaneMask := maskOf ((List.range 32).filter (fun l => 32 * k + l < t))

/-- Storage for a workgroup's scratchpad and full-empty bits, whose start values are not defined (R49).
Log entries 10 (DEDUCED), 37 (DESIGN CHOICE). -/
def State.startScratch (s : State) (core ctx blk n : Nat) : State :=
  (List.range n).foldl (fun s i =>
    let k := 256 * core + blk + i
    let (t, own, free) := startBlock s.free ctx s.scr s.scrOwner k 4096
    let fe := (List.range 256).foldl (fun f g => Tbl.set false f (k * 256 + g) (Config.freeBit (2 * (free + g)))) s.fe
    { s with scr := t, scrOwner := own, fe := fe, free := free + 256 }) (s.touch core (4096 * blk) (4096 * n))

/-- Give a warp its tiles (R32): the lowest free ones.
Log entry 37 (DESIGN CHOICE). -/
def State.takeTiles (s : State) (core slot n : Nat) : List Nat × State :=
  let fr := ((List.range 64).filter (fun t => Tbl.get 0 s.tileOf (64 * core + t) == 0)).take n
  (fr, { s with tileOf := fr.foldl (fun m t => Tbl.put m (64 * core + t) (slot + 1)) s.tileOf })

/-- Clear or keep what the tiles of a new warp hold.
Log entry 10 (DEDUCED). -/
def State.startTiles (s : State) (core ctx : Nat) (ts : List Nat) : State :=
  ts.foldl (fun s t =>
    let (m, own, free) := startBlock s.free ctx s.tiles s.tileOwner (64 * core + t) 12288
    { s with tiles := m, tileOwner := own, free := free }) s

/-- The lowest free convoy entry of a die (R80).
Log entry 65 (DEDUCED). -/
def State.freeConvoy (s : State) (die : Nat) : Option Nat :=
  (List.range 64).find? (fun k => !s.convoys.any (fun c => c.die == die && c.entry == k))

/-- The convoy entry of one declaration (R80), if its stream record can be read and the die has a free one; a record that no copy
holds without error is fault 33 (R325).
Log entry 77 (DEDUCED). -/
def State.startConvoy (s : State) (l : Launch) (x : Ctx) (die k : Nat) (d : CvDecl) : State :=
  match s.chunks (s.engineWho x l.leases die none) .read false none d.srec 32, s.freeConvoy die with
  | .ok cs, some entry =>
    (match s.checkReads cs with
    | .error h => s.raiseHalt x.key die 0 0 0 l.seq 0 { h with src := 7 }
    | .ok s =>
      let bs := cs.flatMap (fun c => match c.pl with
        | .dram pa _ _ => s.dieBytes die pa c.n
        | .host p a _ => s.hostBytes p a c.n
        | .peer .. => [])
      { s with convoys := s.convoys ++ [{ die := die, entry := entry, launch := l.id, ctx := x.key, decl := k,
                                          base := recAt bs 0 8, slip := d.slip, hold := d.hold, quorum := d.quorum, joins := 0,
                                          qdrop := false, nshed := 0, counted := [] }] })
  | _, _ => s

/-- The convoy entries of a launch on a die (R80), one for each declaration.
Log entry 65 (DEDUCED). -/
def State.startConvoys (s : State) (l : Launch) (x : Ctx) (die : Nat) : State :=
  (l.convoys.zipIdx).foldl (fun s e => s.startConvoy l x die e.2 e.1) s

/-- Start one workgroup on a core. -/
def State.startWg (s : State) (l : Launch) (x : Ctx) (c rank threads core blk : Nat) (slots : List Nat) (feeding : Bool) :
    Nat × State :=
  let (id, s) := s.fresh
  let bw := l.pk.bnd l.pk.wgLev
  let num := c * 2 ^ (l.pk.bnd l.pk.clLev - bw) + rank
  let g : Wg :=
    { id := id, launch := l.id, cg := c, rank := rank, wg := BitVec.ofNat 64 num, base := BitVec.ofNat 64 (num * 2 ^ bw)
      core := core, scrBase := 4096 * blk, warps := slots.length, exitedWarps := 0, bars := [], hinted := false
      entered := [], done := [] }
  let s := { s with wgs := s.wgs ++ [g] }.startScratch core x.key blk l.pk.blocks
  (id, ((List.range slots.length).zip slots).foldl (fun s e =>
    let (ts, s) := s.takeTiles core e.2 l.pk.tcost
    let s := s.startTiles core x.key ts
    let w := Warp.start g e.1 (launchedOf threads e.1) (BitVec.ofNat 64 l.entry) (startScalars l.pk.arg)
    (s.setWarp core e.2 { w with feeding := feeding }).touchWarp core e.2) s)

/-- Place cluster-group `c` on a cluster: `at'` gives each workgroup's core, block and slots. The start is an acquire (R210, R299).
Log entry 15 (DEDUCED). -/
def State.placeCg (s : State) (l : Launch) (p : Part) (x : Ctx) (die cl c : Nat) (at' : List (Nat × Nat × List Nat)) : State :=
  let i := p.pdie die
  let s := if Tbl.get 0 l.placed i = 0 then s.startConvoys l x die else s
  let s := s.arriveMsg p x.key cl
  let sizes := l.wgSizes c
  let (ids, s) := ((List.range at'.length).zip at').foldl (fun (acc : List Nat × State) e =>
    let core := 8 * cl + e.2.1
    let (id, s) := (acc.2.l1Flush core).startWg l x c e.1 (sizes.getD e.1 0) core e.2.2.1 e.2.2.2 (Tbl.get false l.raised i)
    (acc.1 ++ [id], s)) ([], s)
  let s := s.modLaunch l.id (fun l => { l with placed := Tbl.set 0 l.placed i (Tbl.get 0 l.placed i + 1) })
  { s with
    cgs := s.cgs ++ [⟨l.id, c, cl, ids, at'.zipIdx.map (fun e => (e.2, 8 * cl + e.1.1, 4096 * e.1.2.1)), Barrier.init⟩]
    reserved := s.reserved.filter (fun e => !(e.2 / 2 == l.id && s.dieOf (8 * e.1) == die)) }

/-! ## Reservation and eviction (R302, R304) -/

/-- The launch that a cluster is reserved for, while it still awaits placement on the die.
Log entry 51 (DEDUCED). -/
def State.reserver (s : State) (p : Part) (die cl : Nat) : Option (Launch × Bool) :=
  let v := Tbl.get 0 s.reserved cl
  match s.launch? (v / 2) with
  | none => none
  | some l =>
    if l.st == .queued && !s.haltedOn l.ctx die && Tbl.get 0 l.placed (p.pdie die) < l.assigned (p.pdie die) p.dies.length then
      some (l, v % 2 == 1)
    else none

/-- A launch may place on a cluster: no reservation for a launch of higher effective priority stands.
Log entry 51 (DEDUCED). -/
def State.openTo (s : State) (p : Part) (die cl : Nat) (l : Launch) : Bool :=
  match s.reserver p die cl with
  | none => true
  | some (o, _) => o.id == l.id || s.prioOn o (p.pdie die) ≤ s.prioOn l (p.pdie die)

/-- The warps of a core that may be evicted for a priority, in the order of R304.
Log entry 50 (DEDUCED). -/
def State.evictOrder (s : State) (p : Part) (die core eff : Nat) : List (Nat × Warp × Launch) :=
  let i := p.pdie die
  let ws := (s.coreWarps core).filterMap (fun e => match s.warpLaunch e.2 with
    | some l => if l.pk.prio < eff && e.2.evicting.isNone && !s.haltedOn l.ctx die then some (e.1, e.2, l) else none
    | none => none)
  sortBy (fun a b =>
    let pa := s.prioOn a.2.2 i
    let pb := s.prioOn b.2.2 i
    pa < pb || (pa == pb && (b.2.2.seq < a.2.2.seq || (a.2.2.seq == b.2.2.seq && b.1 ≤ a.1)))) ws

/-- A warp begins to leave, if its record fits in its context's pool (R315).
Log entry 50 (DEDUCED). -/
def State.markEvict (s : State) (core slot : Nat) : Option State :=
  match s.warp? core slot with
  | none => none
  | some w =>
    match s.warpLaunch w with
    | none => none
    | some l =>
      let len := w.recLen l.pk
      ((s.ctx? l.ctx).bind (fun x => x.poolFit len)).map (fun off =>
        let (turn, s) := s.fresh
        let addr := ((s.ctx? l.ctx).map (fun x => x.poolAddr off)).getD 0
        (s.modWarp core slot (fun w => { w with evicting := some ⟨turn, off, len, addr⟩, demoted := none })).modCtx l.ctx
          (fun x => { x with evicted := x.evicted ++ [(off, len)] }))

/-- Mark warps, by core and slot, one after another; else the first whose record does not fit, which is then not eligible.
Log entry 50 (DEDUCED). -/
def State.markAll (s : State) : List (Nat × Nat) → State ⊕ (Nat × Nat)
  | [] => .inl s
  | (k, i) :: t => match s.markEvict k i with
    | some s => s.markAll t
    | none => .inr (k, i)

/-- Warps of the slot leave or have been marked to. -/
def State.leaving (s : State) (core slot : Nat) : Bool := (s.warp? core slot).any (fun w => w.evicting.isSome)

/-- The warps to evict on one cluster for a cluster-group, if that can make it fit: on each core, no more than its workgroups need.
`no` are those that are not eligible.
Log entry 50 (DEDUCED). -/
def State.evictPicks (s : State) (l : Launch) (p : Part) (die cl c eff : Nat) (no : List (Nat × Nat)) : Option (List (Nat × Nat)) :=
  let lists := (coresOf cl).map (fun k => (k, ((s.evictOrder p die k eff).map (·.1)).filter (fun i => !no.contains (k, i))))
  let room := fun (k : Nat) (gone : List Nat) => s.roomOf k (fun i => s.leaving k i || gone.contains i) (fun _ => false)
  (assign l.pk (lists.map (fun e => room e.1 e.2)) (l.wgWarps c)).map (fun at' =>
    lists.zipIdx.flatMap (fun e =>
      let mine := (((l.wgWarps c).zip at').filter (fun n => n.2.1 == e.2)).map (·.1)
      let fits := fun n => (assign l.pk [room e.1.1 (e.1.2.take n)] mine).isSome
      (e.1.2.take (((List.range (e.1.2.length + 1)).find? fits).getD e.1.2.length)).map (fun i => (e.1.1, i))))

/-- Evict for a cluster-group on one cluster. A warp whose record does not fit in the pool beside those chosen before it is not
eligible, and the choice is made again without it.
Log entry 50 (DEDUCED). -/
def State.evictOn (s : State) (l : Launch) (p : Part) (die cl c eff : Nat) : Nat → List (Nat × Nat) → Option State
  | 0, _ => none
  | fuel + 1, no =>
    match s.evictPicks l p die cl c eff no with
    | none => none
    | some picks => match s.markAll picks with
      | .inl t => some { t with reserved := Tbl.put t.reserved cl (2 * l.id + 1) }
      | .inr e => s.evictOn l p die cl c eff fuel (e :: no)

/-- The reservations of a launch on a die, by cluster (R302); an odd value says that warps leave for it.
Log entry 51 (DEDUCED). -/
def State.reservedOn (s : State) (die : Nat) (l : Launch) : Tbl Nat :=
  s.reserved.filter (fun (e : Nat × Nat) => e.2 / 2 == l.id && s.dieOf (8 * e.1) == die)

/-- The absent pages of a launch's hard ranges are requested; the flag says that migration has refused one (R300, R330). -/
def State.fetchHard (s : State) (key : Nat) (pages : List (Nat × Leaf)) : State × Bool :=
  pages.foldl (fun acc e => match acc.1.ctx? key with
    | some x => let (t, ok) := acc.1.migrate x e.1 e.2; (t, acc.2 || !ok)
    | none => acc) (s, false)

/-- Serve one launch on a die: none when nothing can be done for it now. A page that a shoot-down covers is asked for when that has
completed (R331).
Log entry 50 (DEDUCED). -/
def State.serve (s : State) (p : Part) (die : Nat) (l : Launch) : Option State :=
  match s.ctx? l.ctx with
  | none => none
  | some x =>
    let i := p.pdie die
    let (bad, absent) := if l.checked then (false, []) else s.hardState x l.leases
    let reject := fun (s : State) => some (s.modLaunch l.id (fun l => { l with st := .rejected 6, recorded := l.pk.cctr = 0 }))
    let (s', refused) := s.fetchHard l.ctx (absent.filter (fun e => !s.shooting l.ctx e.1))
    if bad then reject s
    else if refused then reject s'
    else if !absent.isEmpty then (if s'.migs.length = s.migs.length then none else some s')
    else
      let s := s.modLaunch l.id (fun l => { l with checked := true })
      let c := l.firstOf i p.dies.length + p.dies.length * Tbl.get 0 l.placed i
      let eff := s.prioOn l i
      let cls := (s.clustersOfDie die).filter (fun cl => s.openTo p die cl l)
      let stay := fun (_ : Nat) => false
      let fit := cls.findSome? (fun cl =>
        (assign l.pk ((coresOf cl).map (fun k => s.roomOf k stay (fun _ => false))) (l.wgWarps c)).map (fun a => (cl, a)))
      match fit with
      | some (cl, a) => some (s.placeCg l p x die cl c a)
      | none =>
        if (s.reservedOn die l).any (fun (e : Nat × Nat) => e.2 % 2 == 1 &&
            (coresOf e.1).any (fun k => (s.coreWarps k).any (fun w => w.2.evicting.isSome))) then none
        else
          match cls.findSome? (fun cl => s.evictOn l p die cl c eff 257 []) with
          | some s => some s
          | none =>
            if !(s.reservedOn die l).isEmpty then none
            else
              (cls.find? (fun cl => (assign l.pk ((coresOf cl).map (fun k => s.roomOf k stay
                (fun g => (s.launch? g.launch).any (fun o => s.prioOn o i < eff)))) (l.wgWarps c)).isSome)).map
                (fun cl => { s with reserved := Tbl.put s.reserved cl (2 * l.id) })

/-! ## Resuming evicted warps (R305, R315) -/

/-- A wait of an entry that has not retired; it executes again (R305). -/
def Wait.held : Wait → Bool
  | .ldfe _ | .cvld _ | .qmapRd .. => true
  | _ => false

/-- Deal bank numbers out to handles in order.
Log entry 37 (DESIGN CHOICE). -/
def dealBanks : Tbl Handle → List Nat → Tbl Handle
  | [], _ => []
  | (i, h) :: t, bs => (i, { h with banks := bs.take h.banks.length }) :: dealBanks t (bs.drop h.banks.length)

/-- A warp takes a slot with its tiles and banks, which receive the given bytes. -/
def State.seatWarp (s : State) (core slot ctx : Nat) (w : Warp) (p : Packet) (tiles banks : Tbl Byte) : State :=
  let (ts, s) := s.takeTiles core slot p.tcost
  let bs := (s.freeBanks core).take w.bankCount
  let s := { s with
    tileOwner := ts.foldl (fun m t => Tbl.put m (64 * core + t) (ctx + 1)) s.tileOwner
    tiles := ts.zipIdx.foldl (fun m (e : Nat × Nat) => writeBytes m ((64 * core + e.1) * 12288) (readBytes tiles (e.2 * 12288) 12288)) s.tiles
    bankOf := bs.foldl (fun m b => Tbl.put m (256 * core + b) (slot + 1)) s.bankOf
    bankOwner := bs.foldl (fun m b => Tbl.put m (256 * core + b) (ctx + 1)) s.bankOwner
    banks := bs.zipIdx.foldl (fun m (e : Nat × Nat) => writeBytes m ((256 * core + e.1) * 2048) (readBytes banks (e.2 * 2048) 2048)) s.banks }
  (s.setWarp core slot { w with handles := dealBanks w.handles bs }).touchWarp core slot

/-- The slot in which an evicted warp can resume: its resources fit, no cluster-group for which warps left its cluster still awaits
placement, and its context dispatches. -/
def State.resumeSlot (s : State) (e : Evicted) (l : Launch) : Option Nat :=
  let die := s.dieOf e.core
  let r := s.roomOf e.core (fun _ => false) (fun _ => false)
  let claimed := match s.parts.find? (fun p => p.dies.contains die) with
    | some p => (s.reserver p die (clusterOf e.core)).any (·.2)
    | none => false
  if claimed || s.haltedOn l.ctx die || s.saving l.ctx || r.v < l.pk.vcost || r.t < l.pk.tcost
      || (s.freeBanks e.core).length < e.w.bankCount then none
  else r.slots.head?

/-- The warp of a core that was evicted first, unless one evicted before it is still leaving (R305). -/
def State.nextBack (s : State) (core : Nat) : Option Evicted :=
  match sortBy (fun a b => a.turn ≤ b.turn) (s.evicted.filter (fun e => e.core == core)) with
  | [] => none
  | e :: _ =>
    if (s.coreWarps core).any (fun w => w.2.evicting.any (fun v => v.turn < e.turn)) then none else some e

/-- The engine programs of an evicted warp that takes a slot again hold its handles under their new banks (R261).
Log entry 50 (DEDUCED). -/
def Seqr.follow (old new : Tbl Handle) (slot : Nat) (q : Seqr) : Seqr :=
  let bank := fun (p : Nat × Handle) =>
    if (Tbl.find? old p.1).any (fun h => h.banks == p.2.banks) then ((Tbl.find? new p.1).map (·.banks)).getD p.2.banks else p.2.banks
  { q with by' := { q.by' with slot := slot }, handles := q.handles.map (fun p => (p.1, { p.2 with banks := bank p })) }

/-- WARP_RESUME: the warp of core `a` that was evicted first returns. -/
def warpResume (a : EvArgs) (s : State) : Option State :=
  match s.nextBack a.a with
  | none => none
  | some e =>
    match s.warpLaunch e.w with
    | none => none
    | some l =>
      (s.resumeSlot e l).map (fun slot =>
        let s := { s with evicted := s.evicted.filter (fun x => x.turn != e.turn) }
        let s := s.modCtx l.ctx (fun x => { x with evicted := x.evicted.filter (· != (e.off, e.len)) })
        let w : Warp := { e.w with
          opp := [], selWait := 0, waits := e.w.waits.filter (fun w => !w.2.held)
          feeding := Tbl.get false l.raised (((s.part? l.part).map (fun p => p.pdie (s.dieOf a.a))).getD 0) }
        let s := s.seatWarp a.a slot l.ctx w l.pk e.tiles e.banks
        let now := ((s.warp? a.a slot).map (·.handles)).getD []
        { s with seqrs := updateWhere (fun q => w.forks.contains q.id) (Seqr.follow w.handles now slot) s.seqrs }.settleBarriers e.w.wg)

/-- PLACEMENT: a placement opportunity of die `a`. A warp of the die that can resume does so first (R305). -/
def placement (a : EvArgs) (s : State) : Option State :=
  match s.parts.find? (fun p => p.dies.contains a.a) with
  | none => none
  | some p =>
    if s.evicted.any (fun e => s.dieOf e.core == a.a && (warpResume { a := e.core } s).isSome) then none
    else (s.candidates p a.a).findSome? (fun l => s.serve p a.a l)

/-! ## Feeding launches (R301) -/

/-- FEEDS_RAISE: on die `b`, for context `a`: `c` is 1 when a winch's egress queue there has run empty, 0 when it holds data again. -/
def feedsRaise (a : EvArgs) (s : State) : Option State :=
  match s.part? (a.a / 8) with
  | none => none
  | some p =>
    let i := p.pdie a.b
    let up := a.c == 1
    let hit := fun (l : Launch) => l.ctx == a.a && l.pk.feeds && l.st == .queued
    if !p.dies.contains a.b || s.feeding a.a a.b != up || !s.launches.any (fun l => hit l && Tbl.get false l.raised i != up) then none
    else
      let s' := { s with launches := updateWhere hit (fun l => { l with raised := Tbl.set false l.raised i up }) s.launches }
      some { s' with warps := s'.warps.map (fun (e : Nat × Warp) =>
        if s.dieOf (e.1 / 32) == a.b && (s.warpLaunch e.2).any hit then (e.1, { e.2 with feeding := up }) else e) }

/-! ## The meanings -/

def execPlacement (s : State) : Out := event "PLACEMENT" placement s
def execWarpResume (s : State) : Out := event "WARP_RESUME" warpResume s
def execFeedsRaise (s : State) : Out := event "FEEDS_RAISE" feedsRaise s

/-- The next event of launching and scheduling; a warp that leaves is saved first, and a resumption precedes a placement. -/
def launchNext (s : State) : Option (Instr × EvArgs) :=
  let dies := s.parts.flatMap (·.dies)
  let try' := fun (i : Instr) (f : EvArgs → State → Option State) (as : List EvArgs) =>
    (as.find? (fun a => (f a s).isSome)).map (fun a => (i, a))
  (try' .systemChannelEntry channelEntry ((s.slots.filter (·.committed)).map (fun x => { a := x.port, b := x.idx }))).or
    (try' .launchCompletion launchDone ((s.launches.filter (fun l => !(l.st == .completed))).map
      (fun l => { a := l.part, b := l.seq }))) |>.or
    (try' .feedsRaise feedsRaise ((s.launches.filter (fun l => l.pk.feeds && l.st == .queued)).flatMap (fun l =>
      dies.map (fun d => { a := l.ctx, b := d, c := if s.feeding l.ctx d then 1 else 0 })))) |>.or
    (try' .warpResume warpResume (s.evicted.map (fun e => { a := e.core }))) |>.or
    (try' .placement placement (dies.map (fun d => { a := d })))

end Sys2Proof.Machine
end

