-- ==== Sys2Proof/Machine/Drain.lean ====
section
/-!
DEFINITION. Machine/Drain.lean: how the reorder entries of a warp drain when it leaves its slot (R305, R316): the entries that cannot
retire without waiting on another agent, and the save of an evicted warp (R315).
-/

namespace Sys2Proof.Machine

/-- The context of a warp. -/
def State.warpCtx (s : State) (w : Warp) : Option Nat := (s.warpLaunch w).map (·.ctx)

/-- An entry as the entry in execution. -/
def RobEntry.cur (r : RobEntry) (core slot : Nat) : Cur := ⟨core, slot, r.pc, r.mask, r.word, r.mode, r.fault⟩

/-! ## Entries that wait on another agent -/

/-- The operation of an instruction that can be held at the head of its warp and is then squashed; TINV is held and never squashed
(R237, R305). -/
def heldOp : Instr → Option Op
  | .ld o => some (opLd o)
  | .st o => some (opSt o)
  | .ldw o => some (opLdw o)
  | .stw o => some (opStw o)
  | .sts o => some (opSts o)
  | .atoms o => some (opAtoms o)
  | .cass o => some (opCass o)
  | .brx o => some (opBrx o)
  | .ldfe o => some (opLdfe o)
  | .stf o => some (opStf o)
  | .cmcast o => some (opCmcast o)
  | .atom o => some (opAtom o)
  | .cas o => some (opCas o)
  | .atomo o => some (opAtomo o)
  | .fence o => some (opFence o)
  | .recld o => some (opRecld o)
  | .recst o => some (opRecst o)
  | .cvld o => some (opCvld o)
  | .exit o => some (opExit o)
  | .bsync o => some (opBsync o)
  | .barv o => some (opBarv o)
  | .cbar o => some (opCbar o)
  | .fork o => some (opFork o)
  | .launch o => some (opLaunch o)
  | .msend o => some (opMsend o)
  | .coll o => some (opColl o)
  | .cred o => some (opCred o)
  | .cpbox o => some (opCpbox o)
  | .cpboxImm o => some (opCpboxImm o)
  | .cpstb o => some (opCpstb o)
  | .cpstbImm o => some (opCpstbImm o)
  | .cpidx o => some (opCpidx o)
  | .cpidxImm o => some (opCpidxImm o)
  | .cpss o => some (opCpss o)
  | .cpssImm o => some (opCpssImm o)
  | .cpfill o => some (opCpfill o)
  | .cpfillImm o => some (opCpfillImm o)
  | .abfree o => some (opAbfree o)
  | .accrd o => some (opAccrd o)
  | .accwr o => some (opAccwr o)
  | .tld o => some (opTld o)
  | .tst o => some (opTst o)
  | .wbld o => some (opWbld o)
  | .mma o => some (opMma o)
  | .scacc o => some (opScacc o)
  | .accz o => some (opAccz o)
  | .qgate o => some (opQgate o)
  | .qmapSet o => some (opQmapSet o)
  | .qmapRd o => some (opQmapRd o)
  | _ => none

/-- The operation of a word that can be held; that of a pair word is read from its two slots. -/
def heldWord (w : DWord) : Option Op :=
  let slot := fun (base : Nat) => slotOp (sopAt w.toNat base) (slotAt w.toNat base)
  match decode w with
  | .error _ => none
  | .ok i => if w.getLsbD 63 then some (pairOp (slot 31) (slot 0) none) else heldOp i

/-- The oldest entry of a warp cannot retire now: the state in which it waits at the head.
Log entry 50 (DEDUCED). -/
def State.heldHead (s : State) (core slot : Nat) (w : Warp) : Option State :=
  match w.rob with
  | [] => none
  | r :: _ =>
    let t := { s with cur := some (r.cur core slot) }
    if !r.issued || r.fault.isSome then none
    else match heldWord r.word, t.env? with
      | some op, some e => (match op e t with
        | .hold u => some { e.finish u (.hold u) with cur := s.cur }
        | _ => none)
      | _, _ => none

/-- A warp's entries have drained but for one that cannot retire, which is squashed with every younger entry. -/
def State.drained (s : State) (core slot : Nat) (w : Warp) : Bool := w.rob.isEmpty || (s.heldHead core slot w).isSome

/-- The warp of a slot as a drain leaves it: what it waits for before retirement stands in its wait words, and no entry remains.
Log entry 50 (DEDUCED). -/
def State.drainWarp (s : State) (core slot : Nat) (w : Warp) : State :=
  ((s.heldHead core slot w).getD s).modWarp core slot (fun w => { w with rob := [], cvPass := false })

/-! ## The save of an evicted warp -/

/-- The warp's matrix commands have completed: its tiles and banks, which its record holds, change no more. They wait for no thread;
a program of the warp enters no further one while it leaves or is away.
Log entry 50 (DEDUCED). -/
def State.quiet (s : State) (core slot : Nat) (w : Warp) : Bool :=
  !s.matQ.any (fun c => c.core == core && c.by'.slot == slot && c.by'.wg == w.wg)

/-- EVICTED_WARP_SAVE: the warp of core `a` in slot `b`, its entries drained, leaves for the pool; a warp of a halted context keeps its
slot (R313).
Log entry 50 (DEDUCED). -/
def warpSave (a : EvArgs) (s : State) : Option State :=
  match s.warp? a.a a.b with
  | none => none
  | some w =>
    match w.evicting, s.warpLaunch w with
    | some v, some l =>
      if s.haltedOn l.ctx (s.dieOf a.a) || !s.drained a.a a.b w || !s.quiet a.a a.b w then none
      else
        let s := (s.drainWarp a.a a.b w).touchWarp a.a a.b
        match s.ctx? l.ctx, s.warp? a.a a.b with
        | some x, some w =>
          let w := { w.shed 3 with evicting := none, demoted := none }
          let tiles := s.warpTiles a.a a.b l.pk
          let banks := (List.range w.bankCount).flatMap (s.warpBank a.a w)
          let s := (s.areaWrite x (s.dieOf a.a) v.addr (w.record l.pk 0 tiles (s.warpBank a.a w))).1
          some { s.freeWarp a.a a.b with
            evicted := s.evicted ++ [⟨a.a, a.b, v.turn, v.off, v.len, writeBytes [] 0 tiles, writeBytes [] 0 banks, w⟩] }
        | _, _ => none
    | _, _ => none

def execEvictedWarpSave (s : State) : Out := event "EVICTED_WARP_SAVE" warpSave s

end Sys2Proof.Machine
end

