-- ==== Sys2Proof/Machine/Context.lean ====
section
/-!
DEFINITION. Machine/Context.lean: the halt of a context as it reaches each die, its agents' stop records (R312 to R314), and the
full save, the restore and the end of a context (R316 to R320).
-/

namespace Sys2Proof.Machine

/-! ## The halt (R312, R313) -/

/-- Every entry of a warp is squashed; a thread that waited before retirement is ready again (R25). -/
def Warp.squash (w : Warp) : Warp :=
  { w with
    rob := []
    cvPass := false
    waits := w.waits.filter (fun (e : Nat × Wait) => !e.2.held && (match e.2 with
      | .tinv _ => false
      | _ => true)) }

/-- The committed slots of a context become free, their packets discarded.
Log entry 52 (DEDUCED). -/
def State.dropCommits (s : State) (key : Nat) : State :=
  { s with slots := s.slots.map (fun x => if x.committed && x.bound == some key then x.release else x) }

/-- HALT_ARRIVAL: the halt of context `a` reaches die `b`.
Log entry 52 (DEDUCED). -/
def haltArrival (a : EvArgs) (s : State) : Option State :=
  match s.ctx? a.a, s.part? (a.a / 8) with
  | some x, some p =>
    match x.halt with
    | none => none
    | some h =>
      if !p.dies.contains a.b || h.dies.contains a.b then none
      else
        let mine := fun (i : Issuer) => i.ctx == a.a && s.dieOf i.core == a.b
        let s := s.modCtx a.a (fun x => { x with halt := some { h with dies := h.dies ++ [a.b] } })
        let s := s.dropCommits a.a
        let s := { s with
          warps := s.warps.map (fun (e : Nat × Warp) =>
            if s.dieOf (e.1 / 32) == a.b && s.warpCtx e.2 == some a.a then (e.1, e.2.squash) else e)
          convoys := s.convoys.filter (fun c => !(c.ctx == a.a && c.die == a.b))
          seqs := s.seqs.filter (fun q => !(q.ctx == a.a && q.die == a.b))
          contribs := s.contribs.filter (fun c => !(c.by'.ctx == a.a && c.waiting && c.home == a.b))
          cruQ := s.cruQ.filter (fun c => !mine c.by')
          seqrs := s.seqrs.filter (fun q => !mine q.by') }
        let s := if s.headDie a.a == a.b then s.refuseColls a.a else s
        some (if p.dies.all (fun d => d == a.b || h.dies.contains d) then
          { s with launches := updateWhere (fun l => l.ctx == a.a && l.st == .queued) (fun l => { l with st := .discarded }) s.launches }
        else s)
  | _, _ => none

/-! ## Stop records (R314, Tables 5 to 7) -/

/-- The common part.
Log entry 52 (DEDUCED). -/
def stopHead (kind state cause queue die core ctx pend clk : Nat) : List Byte :=
  leBytes 8 (kind + state * 2 ^ 4 + cause * 2 ^ 8 + queue * 2 ^ 16 + die % 4 * 2 ^ 24 + core % 256 * 2 ^ 32 + ctx % 8 * 2 ^ 40
    + pend % 2 ^ 16 * 2 ^ 48) ++ leBytes 8 clk

/-- The core of the agent that detected a fault, within its die; 0xFF where the agent is of no core. -/
def Halt.acore (s : State) (h : Halt) : Nat := if [1, 2, 3, 9].contains h.src then s.coreInDie h.core else 255

/-- The origin record of a die. -/
def originRecord (s : State) (p : Part) (x : Ctx) (h : Halt) (die : Nat) : List Byte :=
  if h.die != die then stopHead 0 3 h.cause 15 (p.pdie die) 255 x.key 0 s.clk ++ List.replicate 48 0
  else
    stopHead 0 3 h.cause 15 (p.pdie die) (h.acore s) x.key 0 s.clk
      ++ leBytes 4 (h.src + h.tcause * 2 ^ 8 + h.acore s * 2 ^ 16 + (if h.src = 1 then h.slot else 0) * 2 ^ 24)
      ++ leBytes 4 (if h.src = 1 then h.lmask.toNat else 0) ++ leBytes 8 h.pc.toNat ++ leBytes 8 h.va.toNat ++ leBytes 8 h.seq
      ++ leBytes 8 h.wg.toNat ++ leBytes 8 (if [33, 34, 37, 40].contains h.cause then h.info.toNat else 0)

/-- The handle that a matrix record names. -/
def MatOp.handleNo : MatOp → Nat
  | .mma h .. | .scacc h .. | .accz h _ => h
  | .tld .. | .tst .. | .wbld .. => 0

/-- The hardware core of core `c` of a die, if the die has that many. -/
def State.coreAt (s : State) (die c : Nat) : Option Nat :=
  if c < 8 * (s.coreMap.getD die []).length then some (8 * s.clustersBelow die + c) else none

/-- The record of queue code `q` of a core, in bits [511:128], from the commands of the context in it.
Log entry 35 (DEDUCED). -/
def queueRecord (s : State) (p : Part) (x : Ctx) (h : Halt) (die : Nat) (core : Option Nat) (c q : Nat) : List Byte :=
  let body := fun (i : Issuer) (handle piece n : Nat) =>
    leBytes 8 i.pc.toNat ++ leBytes 4 (i.opc + handle * 2 ^ 8) ++ leBytes 4 piece ++ leBytes 4 n ++ leBytes 8 i.seq
      ++ List.replicate 20 0
  let rec' := fun (kind n : Nat) (run : Option (List Byte)) =>
    let st := if run.isSome then 1 else if n = 0 then 0 else 2
    stopHead kind st h.cause q (p.pdie die) c x.key (if run.isSome then n - 1 else n) s.clk
      ++ run.getD (List.replicate 48 0)
  if q < 8 then
    let cs := s.reelQ.filter (fun r => some r.core == core && r.q == q && r.by'.ctx == x.key)
    rec' 1 cs.length ((cs.find? (·.started)).map (fun r => body r.by' 0 r.piece r.total))
  else
    let cs := s.matQ.filter (fun r => some r.core == core && r.q == q - 8 && r.by'.ctx == x.key)
    rec' 2 cs.length ((cs.find? (·.started)).map (fun r => body r.by' r.op.handleNo r.piece r.cuts.length))

/-- MODE as an amplitude record gives it. -/
def AmpOp.modeCode : AmpOp → Nat
  | .setMap _ => 7
  | .gate m .. => m

/-- The bytes of a whole piece of the exchange that a command performs (R281, R366). -/
def State.exchUnit (s : State) (c : AmpCmd) : Nat :=
  match c.op, c.map with
  | .gate _ _ t cs _ _ _, some m =>
    (match nextExch m t cs, s.ampCtx c m with
    | some (some (p, _, _)), some x => exchPer m x p * m.es
    | _, _ => 2 ^ 17)
  | _, _ => 2 ^ 17

/-- The pieces of a command's own work. -/
def AmpCmd.ownPieces (c : AmpCmd) : Nat :=
  match c.op, c.map with
  | .gate mode _ t _ _ _ _, some m => if mode = 3 then 0 else m.gatePieces mode t
  | _, _ => 0

/-- STAGE, XIDX and PIECE of the amplitude record: of an exchange, the pieces of 128 KiB that have been sent. -/
def State.ampAt (s : State) (c : AmpCmd) : Nat × Nat × Nat :=
  match c.stage with
  | .waiting | .refused => (0, 0, 0)
  | .exchanging i sent _ => (1, i, sent * s.exchUnit c / 2 ^ 17)
  | .applying k => (2, 0, k)
  | .summing k _ => (3, 0, k)
  | .summed _ => (3, 0, c.ownPieces)
  | .done => (if c.op.modeCode = 7 then 0 else if c.op.modeCode = 4 then 3 else 2, 0, c.ownPieces)

/-- The amplitude record of queue `k` (Table 7 of the amplitude chapter).
Log entry 43 (DEDUCED). -/
def ampRecord (s : State) (p : Part) (x : Ctx) (h : Halt) (die k : Nat) : List Byte :=
  let cs := s.ampQ.filter (fun c => c.die == die && c.q == k && c.by'.ctx == x.key)
  let run := cs.find? (fun c => c.stage != .waiting)
  let st := if run.isSome then 1 else if cs.isEmpty then 0 else 2
  stopHead 3 st h.cause (10 + k) (p.pdie die) 255 x.key (if run.isSome then cs.length - 1 else cs.length) s.clk
    ++ (match run with
      | none => List.replicate 48 0
      | some c =>
        let (stage, xi, piece) := s.ampAt c
        leBytes 8 c.seq ++ leBytes 4 (10 + k + c.op.modeCode * 2 ^ 4 + stage * 2 ^ 7 + xi % 8 * 2 ^ 9) ++ leBytes 4 piece
          ++ leBytes 8 c.by'.pc.toNat ++ List.replicate 24 0)

/-- The winch record (Table 5 of the collectives chapter): the running collective with the lowest ticket that it serves. A step that waits
for a partner or for a signal has begun: the winch stands inside it.
Log entry 53 (DEDUCED). -/
def winchRecord (s : State) (p : Part) (x : Ctx) (h : Halt) (die w : Nat) : List Byte :=
  let cs := sortBy (fun (a b : Coll) => a.ticket.toNat ≤ b.ticket.toNat)
    (s.colls.filter (fun c => c.ctx == x.key && c.running && w < 6 && (c.winches.contains (6 * die + w)
      || (s.collCtx c).any (fun y => y.port == 6 * die + w))))
  match cs with
  | [] => stopHead 4 0 h.cause 15 (p.pdie die) 255 x.key 0 s.clk ++ List.replicate 48 0
  | c :: rest =>
    let faulted : Bool := h.src == 5 && h.die == die && h.pc.toNat == c.stepVa c.step
    let word := match (s.collCtx c).map (fun y => s.stepWord y c c.step) with
      | some (.ok (_, w)) => w
      | _ => 0
    let d := StepW.of word
    let waits : Bool := !c.parked && (d.op = 1 || d.op = 2 || d.op = 3 || d.op = 5 || d.op = 7)
    let inside : Bool := c.sent != 0 || c.phase != 0 || c.emptyWait || faulted || waits
    let peer := if d.op = 2 || d.op = 3 then c.gbase + c.source s d
      else if d.op = 1 || d.op = 6 || d.op = 7 then c.gbase + c.dest s d else 0
    stopHead 4 (if inside then 1 else 2) h.cause 15 (p.pdie die) 255 x.key rest.length s.clk
      ++ leBytes 8 (c.stepVa c.step) ++ leBytes 4 c.ticket.toNat ++ leBytes 4 (d.op + peer * 2 ^ 16) ++ leBytes 4 c.sent
      ++ (List.range 4).flatMap (fun i => leBytes 4 (c.k.getD i 0)) ++ List.replicate 12 0

/-- The record of a stop slot.
Log entry 53 (DEDUCED). -/
def stopRecord (s : State) (p : Part) (x : Ctx) (h : Halt) (die slot : Nat) : List Byte :=
  if slot = 0 then originRecord s p x h die
  else if slot ≤ 800 then
    let c := (slot - 1) / 10
    queueRecord s p x h die (s.coreAt die c) c ((slot - 1) % 10)
  else if slot ≤ 804 then ampRecord s p x h die (slot - 801)
  else winchRecord s p x h die (slot - 805)

/-- A queue's commands of a context leave it; what waited for them goes on. -/
def State.dropCmds (s : State) (ids : List Nat) : State :=
  let s := { s with
    reelQ := s.reelQ.filter (fun c => !ids.contains c.id)
    matQ := s.matQ.filter (fun c => !ids.contains c.id)
    ampQ := s.ampQ.filter (fun c => !ids.contains c.id)
    cruQ := s.cruQ.filter (fun c => !ids.contains c.id) }
  ids.foldl (fun s i => s.countOut ⟨0, 0, 0, 0, 0, none, 0, 0, 0⟩ 0 i) s

/-- The commands that stop with an agent.
Log entry 52 (DEDUCED). -/
def State.stopCmds (s : State) (key die slot : Nat) : List Nat :=
  if slot = 0 || 805 ≤ slot then []
  else if slot ≤ 800 then
    let core := s.coreAt die ((slot - 1) / 10)
    let q := (slot - 1) % 10
    (s.reelQ.filter (fun c => some c.core == core && c.q == q && c.by'.ctx == key)).map (·.id)
      ++ (s.matQ.filter (fun c => some c.core == core && c.q + 8 == q && c.by'.ctx == key)).map (·.id)
  else (s.ampQ.filter (fun c => c.die == die && c.q + 801 == slot && c.by'.ctx == key)).map (·.id)

/-- Every agent of the halted context has stopped.
Log entry 54 (DEDUCED). -/
def Halt.over (h : Halt) (p : Part) : Bool := h.stops.length == 813 * p.dies.length

/-- The commands that an agent drops are kept as its stop record names them, for their re-issue (R319); of a matrix command with the %warp
of its warp.
Log entry 56 (DEDUCED). -/
def State.keepCmds (s : State) (ids : List Nat) : State :=
  { s with
    reelOff := s.reelOff ++ s.reelQ.filter (fun c => ids.contains c.id)
    matOff := s.matOff ++ (s.matQ.filter (fun c => ids.contains c.id)).map (fun c =>
      (c, ((s.warp? c.core c.by'.slot).map (·.widx)).getD 0))
    ampOff := s.ampOff ++ s.ampQ.filter (fun c => ids.contains c.id) }

/-- AGENT_STOP: the agent of slot `c` on die `b` stops for context `a` and writes its record; the origin is written last. With the
last record the context-halted event is posted (R385).
Log entries 52 (DEDUCED), 54 (DEDUCED). -/
def agentStop (a : EvArgs) (s : State) : Option State :=
  match s.ctx? a.a, s.part? (a.a / 8) with
  | some x, some p =>
    match x.halt with
    | none => none
    | some h =>
      let onDie := h.stops.filter (fun e => e.1 == a.b)
      if !h.dies.contains a.b || 813 ≤ a.c || h.stops.contains (a.b, a.c) || (a.c = 0 && onDie.length < 812) then none
      else
        let (s, ok) := s.areaWrite x a.b (x.stopa.toNat + 65536 * p.pdie a.b + 64 * a.c) (stopRecord s p x h a.b a.c)
        let h := { h with stops := h.stops ++ [(a.b, a.c)], unwritten := h.unwritten || !ok }
        let ids := s.stopCmds a.a a.b a.c
        let s := ((s.modCtx a.a (fun x => { x with halt := some h })).keepCmds ids).dropCmds ids
        let s := if 801 ≤ a.c && a.c ≤ 804 then
            { s with ampMsgs := s.ampMsgs.filter (fun m => !(m.ctx == a.a && (m.src == a.b || m.dst == a.b))) }
          else s
        some (if h.over p then
          { s with colls := s.colls.filter (·.ctx != a.a) }.postEvent 1 a.a h.die h.cause (if h.unwritten then 1 else 0)
        else s)
  | _, _ => none

def execHaltArrival (s : State) : Out := event "HALT_ARRIVAL" haltArrival s
def execAgentStop (s : State) : Out := event "AGENT_STOP" agentStop s

/-- The next event of a halt.
Log entry 52 (DEDUCED). -/
def haltNext (s : State) : Option (Instr × EvArgs) :=
  s.ctxs.findSome? (fun x => match x.halt, s.part? (x.key / 8) with
    | some h, some p =>
      ((p.dies.find? (fun d => !h.dies.contains d)).map (fun d => (Instr.haltArrival, ({ a := x.key, b := d } : EvArgs)))).or
        (if h.over p then none
         else p.dies.findSome? (fun d =>
          (((List.range 812).map (· + 1) ++ [0]).find? (fun k => !h.stops.contains (d, k))).map
            (fun k => (Instr.agentStop, ({ a := x.key, b := d, c := k } : EvArgs)))))
    | _, _ => none)

/-! ## The full save (R316, R317) -/

/-- Every engine of a context has ended, and each of its running collectives has completed the step it was in (R316, R376).
Log entry 55 (DEDUCED). -/
def State.enginesDone (s : State) (key : Nat) : Bool :=
  let of := fun (i : Issuer) => i.ctx == key
  !s.reelQ.any (fun c => of c.by') && !s.matQ.any (fun c => of c.by') && !s.ampQ.any (fun c => of c.by')
    && !s.cruQ.any (fun c => of c.by') && !s.seqrs.any (fun q => of q.by')
    && s.colls.all (fun c => c.ctx != key || !c.running || c.parked)

/-- The warps of a context, with their keys. -/
def State.ctxWarps (s : State) (key : Nat) : List (Nat × Warp) := s.warps.filter (fun e => s.warpCtx e.2 == some key)

def State.ctxWgs (s : State) (key : Nat) : List Wg :=
  s.wgs.filter (fun g => (s.launch? g.launch).any (fun l => l.ctx == key))

/-- The context can be saved now: its entries have drained and its engines have ended, or its halt is complete.
Log entry 55 (DEDUCED). -/
def State.saveReady (s : State) (x : Ctx) (p : Part) : Bool :=
  match x.halt with
  | some h => h.over p
  | none => (s.ctxWarps x.key).all (fun e => s.drained (e.1 / 32) (e.1 % 32) e.2 && e.2.evicting.isNone) && s.enginesDone x.key

/-- The 96 bytes of an amplitude state. -/
def qmapBytes (m : Option QMap) : List Byte :=
  match m with
  | none => List.replicate 96 0
  | some m =>
    leBytes 32 (m.base + m.l * 2 ^ 64 + m.db * 2 ^ 72 + m.rb * 2 ^ 80 + m.rbase * 2 ^ 96)
      ++ (List.range 48).flatMap (fun q => leBytes 1 (m.perm.getD q 0)) ++ leBytes 8 m.seq
      ++ leBytes 8 (if m.c128 then Fmt.c128.code else Fmt.c64.code)

/-- An amplitude state from its 96 bytes. -/
def qmapOf (bs : List Byte) : Option QMap :=
  let d := recAt bs 0 32
  let l := fld d 64 6
  if l = 0 then none
  else
    let n := l + fld d 72 2 + fld d 80 4
    some { base := fld d 0 64, l := l, db := fld d 72 2, rb := fld d 80 4, rbase := fld d 96 13,
           c128 := recAt bs 88 8 == Fmt.c128.code, perm := (List.range n).map (fun q => recAt bs (32 + q) 1), seq := recAt bs 80 8 }

/-- The 16 bytes of a convoy entry. -/
def Convoy.bytes (c : Convoy) (seq : Nat) : List Byte :=
  leBytes 8 c.base ++ leBytes 2 c.nshed ++ leBytes 1 (c.joins % 128 + if c.qdrop then 128 else 0) ++ leBytes 1 (c.decl + 128)
    ++ leBytes 4 (seq % 2 ^ 32)

/-- %ctxnum. -/
def Ctx.num (x : Ctx) : Nat := x.key % 8 + if x.priv then 8 else 0

/-- The header (Table 8). -/
def State.saveHeader (s : State) (x : Ctx) (p : Part) (wgAt wgN warpN warpAt : Nat) : List Byte :=
  leBytes 4 1 ++ leBytes 4 x.num ++ leBytes 4 ((p.dies.map (2 ^ ·)).foldl (· + ·) 0) ++ leBytes 4 (if x.halt.isSome then 2 else 1)
    ++ leBytes 8 wgAt ++ leBytes 4 wgN ++ leBytes 4 warpN ++ leBytes 8 warpAt ++ List.replicate 24 (0 : Byte)
    ++ leBytes 8 x.mode.toNat ++ leBytes 8 x.hand.toNat ++ leBytes 8 x.stopa.toNat ++ leBytes 8 x.pool.toNat ++ List.replicate 32 (0 : Byte)
    ++ (List.range 4).flatMap (fun i => qmapBytes (if i < p.dies.length then s.qmap? x.key (p.dies.getD i 0) else none))
    ++ (List.range 4).flatMap (fun i => (List.range 64).flatMap (fun k =>
      match s.convoys.find? (fun c => i < p.dies.length && c.die == p.dies.getD i 0 && c.ctx == x.key && c.entry == k) with
      | some c => c.bytes (((s.launch? c.launch).map (·.seq)).getD 0)
      | none => List.replicate 16 (0 : Byte)))
    ++ List.replicate 3584 (0 : Byte)

/-- Records one after another, each padded to a multiple of 128.
Log entry 55 (DEDUCED). -/
def layRecords (start : Nat) : List (List Byte) → List (Nat × List Byte)
  | [] => []
  | r :: rs => (start, r) :: layRecords (roundUp (start + r.length) 128) rs

/-- The context's resources on the cores are freed; its workgroups live on in the save area. -/
def State.leaveCores (s : State) (key : Nat) : State :=
  let ws := s.ctxWarps key
  let gs := s.ctxWgs key
  let s' := ws.foldl (fun s e => s.freeWarp (e.1 / 32) (e.1 % 32)) s
  { s' with
    wgs := s'.wgs.filter (fun g => !gs.any (fun x => x.id == g.id))
    savedWgs := s'.savedWgs ++ gs
    evicted := s'.evicted.filter (fun e => s.warpCtx e.w != some key)
    convoys := s'.convoys.filter (·.ctx != key) }

/-- Bytes 8 to 31 of a collective's header (R376). -/
def Coll.resumeState (c : Coll) : List Byte :=
  leBytes 4 c.step ++ leBytes 4 ((c.loops.map (fun l => 2 ^ l.1)).foldl (· + ·) 0) ++ (List.range 4).flatMap (fun i => leBytes 4 (c.k.getD i 0))

/-- The coordinator writes the resume state of each running collective of a context: the state after it, and the flag that no page of a
header is awaited. A refused write halts the context.
Log entry 55 (DEDUCED). -/
def State.writeResume (s : State) (key : Nat) : State × Bool :=
  (s.colls.filter (fun c => c.ctx == key && c.running)).foldl (fun acc c =>
    match acc.1.collCtx c with
    | none => acc
    | some x => match acc.1.winchWrite x 0 ((c.prog + 8) % 2 ^ 64) c.resumeState with
      | .ok t => (t, acc.2)
      | .error (.halt d h) => (acc.1.collHalt d c h, acc.2)
      | .error (.wait (some t)) => (t, false)
      | .error _ => (acc.1, false)) (s, true)

/-- The effect of CSAVE once the context is at rest; none when the save area cannot be written.
Log entry 55 (DEDUCED). -/
def State.saveCtx (s : State) (x : Ctx) (p : Part) : Option State :=
  let die := p.dies.getD 0 0
  let s := (s.ctxWarps x.key).foldl (fun s e => (s.drainWarp (e.1 / 32) (e.1 % 32) e.2).touchWarp (e.1 / 32) (e.1 % 32)) s
  let gs := s.ctxWgs x.key
  let s := gs.foldl (fun s (g : Wg) => s.touch g.core g.scrBase (((s.launch? g.launch).map (fun l => 4096 * l.pk.blocks)).getD 0)) s
  let idx := fun (wg : Nat) => (gs.findIdx? (fun g => g.id == wg)).getD 0
  let wgRecs := gs.filterMap (fun g => (s.launch? g.launch).map (fun l => s.wgRecord g l p))
  let live := (s.ctxWarps x.key).filterMap (fun e => (s.warpLaunch e.2).map (fun l =>
    e.2.record l.pk (idx e.2.wg) (s.warpTiles (e.1 / 32) (e.1 % 32) l.pk) (s.warpBank (e.1 / 32) e.2)))
  let away := (s.evicted.filter (fun e => s.warpCtx e.w == some x.key)).filterMap (fun e => (s.warpLaunch e.w).map (fun l =>
    e.w.record l.pk (idx e.w.wg) (readBytes e.tiles 0 (12288 * l.pk.tiles)) (fun j => readBytes e.banks (2048 * j) 2048)))
  let wgAt := roundUp (8192 + fld x.pool.toNat 0 16 * 4096) 128
  let wgLaid := layRecords wgAt wgRecs
  let warpAt := (wgLaid.getLast?.map (fun r => roundUp (r.1 + r.2.length) 128)).getD wgAt
  let all := (0, s.saveHeader x p wgAt wgRecs.length (live.length + away.length) warpAt) :: wgLaid ++ layRecords warpAt (live ++ away)
  let (s', ok) := all.foldl (fun (acc : State × Bool) r =>
    let (t, b) := acc.1.areaWrite x die (x.save.toNat + r.1) r.2
    (t, acc.2 && b)) (s, true)
  if !ok then none
  else some ((s'.leaveCores x.key).modCtx x.key (fun x =>
    { x with saved := true, savedHalted := x.halt.isSome, evicted := [] }))

/-! ## The restore (R319) -/

/-- The bytes of messages that came for a workgroup while it was away are written in it (R349). -/
def State.lateBytes (s : State) (wg : Nat) : State :=
  let mine := fun (r : Recv) => r.wg == wg
  let s' := ((s.msgs.flatMap (·.recvs)).filter mine).foldl (fun s r => if r.late.isEmpty then s else s.recvWrite r r.late) s
  { s' with msgs := s'.msgs.map (fun (m : MsgState) =>
      { m with recvs := m.recvs.map (fun r => if mine r then { r with late := [] } else r) }) }

/-- Restore one workgroup from its record; none where its launch is unknown or its core has no room.
Log entries 42 (DEDUCED), 56 (DEDUCED). -/
def State.restoreWg (s : State) (x : Ctx) (p : Part) (bs : List Byte) : Option State :=
  match s.launches.find? (fun l => l.part == p.num && l.seq == recAt bs 8 8 && l.ctx == x.key) with
  | none => none
  | some l =>
    let die := p.dies.getD (recAt bs 24 1) 0
    let core := 8 * s.clustersBelow die + recAt bs 25 1
    let blk := recAt bs 36 4 / 4096
    let r := s.roomOf core (fun _ => false) (fun _ => false)
    let n := l.pk.blocks
    if r.b < l.pk.bars || (List.range n).any (fun k => r.blocks.contains (blk + k)) then none
    else
      let num := BitVec.ofNat 64 (recAt bs 16 8)
      let old := s.savedWgs.find? (fun g => g.launch == l.id && g.wg == num)
      let (id, s) := match old with
        | some g => (g.id, s)
        | none => s.fresh
      let who := fun k => (old.map (fun g => (g.bar k).who)).getD []
      let eng := fun k => (old.map (fun g => (g.bar k).engine)).getD false
      let bw := l.pk.bnd l.pk.wgLev
      let bars := (List.range 96).foldl (fun t k =>
        let o := 256 + 16 * k
        let b := Barrier.ofBytes bs o (recAt bs (o + 8) 1 == 1) (recAt bs (o + 12) 4)
        Tbl.set Barrier.init t k { b with who := who k, engine := eng k }) []
      let counts := (List.range 14).foldl (fun t q => Tbl.set 0 t q (recAt bs (40 + 4 * q) 4)) []
      let c := num.toNat / 2 ^ (l.pk.bnd l.pk.clLev - bw)
      let g : Wg :=
        { id := id, launch := l.id, cg := c, rank := fld (recAt bs 96 4) 1 3, wg := num
          base := BitVec.ofNat 64 (num.toNat * 2 ^ bw), core := core, scrBase := 4096 * blk, warps := recAt bs 26 2
          exitedWarps := 0, bars := bars, hinted := bit (recAt bs 96 4) 0, entered := counts, done := counts }
      let sz := scrRound l.pk
      let fe := (List.range (sz / 16)).foldl (fun f i =>
        Tbl.set false f (core * 2 ^ 16 + g.scrBase / 16 + i) (bit (recAt bs (1792 + i / 8) 1) (i % 8))) s.fe
      let cg : Cg := (s.cg? l.id c).getD ⟨l.id, c, clusterOf core, [], [], Barrier.init⟩
      let cg := { cg with
        bar := { Barrier.ofBytes bs 128 true 0 with who := cg.bar.who }
        wgs := (cg.wgs.filter (· != id)) ++ [id]
        homes := Tbl.put cg.homes g.rank (core, g.scrBase) }
      let s : State := { s with
        wgs := s.wgs ++ [g]
        savedWgs := s.savedWgs.filter (·.id != id)
        cgs := s.cgs.filter (fun y => !(y.launch == l.id && y.c == c)) ++ [cg]
        fe := fe
        scrOwner := (List.range n).foldl (fun m i => Tbl.put m (256 * core + blk + i) (x.key + 1)) s.scrOwner }
      some ((s.scrWrite core g.scrBase ((bs.drop (1792 + sz / 128)).take sz)).lateBytes id)

/-- Restore one warp from its record: a free slot of its workgroup's core.
Log entry 56 (DEDUCED). -/
def State.restoreWarp (s : State) (x : Ctx) (wgs : List Nat) (bs : List Byte) : Option State :=
  match ((wgs[recAt bs 8 4]?).bind s.wg?).bind (fun g => (s.launch? g.launch).map (fun l => (g, l))) with
  | none => none
  | some (g, l) =>
    let r := s.roomOf g.core (fun _ => false) (fun _ => false)
    let n := recBanks bs
    if r.v < l.pk.vcost || r.t < l.pk.tcost || (s.freeBanks g.core).length < n then none
    else
      match r.slots with
      | [] => none
      | slot :: _ =>
        let names := (s.freeBanks g.core).take n
        let w := Warp.ofRecord bs g.id l.pk names s.clk
        let at' := 4096 + 128 * l.pk.regs
        let tiles := writeBytes [] 0 ((bs.drop at').take (12288 * l.pk.tiles))
        let banks := writeBytes [] 0 ((recBankData bs (at' + 12288 * l.pk.tiles)).flatMap (fun o => (bs.drop o).take 2048))
        some (s.seatWarp g.core slot x.key w l.pk tiles banks)

/-- The records of a list laid out from an address on, each at a multiple of 128, by the length in its first 8 bytes. -/
def State.readRecords (s : State) (x : Ctx) (die : Nat) : Nat → Nat → Except (Option CFault) (State × List (List Byte))
  | 0, _ => .ok (s, [])
  | n + 1, va => do
    let (s, h) ← s.areaRead x die va 8
    let (s, bs) ← s.areaRead x die va (leNat h)
    let (s, more) ← s.readRecords x die n (va + roundUp (leNat h) 128)
    pure (s, bs :: more)

/-- The first `n` entries of 16 bytes of a list of bytes. -/
def recEntries : Nat → List Byte → List (List Byte)
  | 0, _ => []
  | n + 1, bs => bs.take 16 :: recEntries n (bs.drop 16)

/-- Set up the convoy that an entry of the header describes; an entry without its valid bit, or of no launch, describes none (R317). -/
def State.restoreConvoy (s : State) (x : Ctx) (p : Part) (bs : List Byte) (k : Nat) : State :=
  let f := recAt bs 11 1
  if !bit f 7 then s
  else
    match s.launches.find? (fun l => l.part == p.num && l.ctx == x.key && l.seq % 2 ^ 32 == recAt bs 12 4) with
    | none => s
    | some l =>
      match l.convoys[f % 8]? with
      | none => s
      | some d =>
        let j := recAt bs 10 1
        let ins := (s.warps.map (·.2)).filter (fun w => s.launchOf w == some l.id && w.assoc.any (fun a => a.decl == f % 8))
        { s with convoys := s.convoys ++ [{
            die := p.dies.getD (k / 64) 0, entry := k % 64, launch := l.id, ctx := x.key, decl := f % 8, base := recAt bs 0 8
            slip := d.slip, hold := d.hold, quorum := d.quorum, joins := j % 128, qdrop := bit j 7
            nshed := recAt bs 8 2
            counted := ins.map (fun w => 32 * w.wg + w.widx) }] }

/-- The convoy entries of a header: 64 for each of four dies, from byte 512 on (R317).
Log entry 56 (DEDUCED). -/
def State.restoreConvoys (s : State) (x : Ctx) (p : Part) (hdr : List Byte) : State :=
  (recEntries 256 (hdr.drop 512)).zipIdx.foldl (fun s e => s.restoreConvoy x p e.1 e.2) s

/-! ### Re-issue (R319) -/

/-- The banks of a handle of a warp, if it holds as many as a command names. -/
def Warp.banksFor (w : Warp) (h : Nat) (banks : List Nat) : Option (List Nat) :=
  (w.handle? h).bind (fun x => if x.banks.length = banks.length then some x.banks else none)

/-- A matrix operation on the banks that its warp holds now; none where the warp has freed them. -/
def MatOp.rebind (op : MatOp) (w : Warp) : Option MatOp :=
  match op with
  | .tld .. | .tst .. | .wbld .. => some op
  | .mma h b ta tb blk wb => (w.banksFor h b).map (fun b => .mma h b ta tb blk wb)
  | .scacc h b a p band => (w.banksFor h b).bind (fun b => (w.banksFor a p).map (fun p => .scacc h b a p band))
  | .accz h b => (w.banksFor h b).map (fun b => .accz h b)

/-- A matrix command that is issued again: its warp's slot and banks are those it has now.
Log entry 56 (DEDUCED). -/
def State.rebindMat (s : State) (e : MatCmd × Nat) : Option MatCmd :=
  let ws : List (Nat × Warp) := s.warps
  (ws.find? (fun k => k.2.wg == e.1.by'.wg && k.2.widx == e.2)).bind (fun k =>
    (e.1.op.rebind k.2).map (fun op => { e.1 with op := op, started := false, by' := { e.1.by' with slot := k.1 % 32 } }))

/-- The unfinished commands of a context are issued again, each from the first piece that its stop record gives as not performed.
Log entry 56 (DEDUCED). -/
def State.reissue (s : State) (key : Nat) : State :=
  let of := fun (i : Issuer) => i.ctx == key
  let rs : List ReelCmd := s.reelOff.filter (fun c => of c.by')
  let ms : List MatCmd := (s.matOff.filter (fun e => of e.1.by')).filterMap s.rebindMat
  let qs : List AmpCmd := s.ampOff.filter (fun c => of c.by')
  let ids := rs.map (·.id) ++ ms.map (·.id)
  let s : State := { s with
    reelQ := s.reelQ ++ rs.map (fun (c : ReelCmd) => { c with started := false, after := c.after.filter ids.contains })
    matQ := s.matQ ++ ms.map (fun (c : MatCmd) => { c with after := c.after.filter ids.contains })
    ampQ := s.ampQ ++ qs.map (fun (c : AmpCmd) => { c with stage := if c.stage == .refused then .waiting else c.stage })
    reelOff := s.reelOff.filter (fun c => !of c.by')
    matOff := s.matOff.filter (fun e => !of e.1.by')
    ampOff := s.ampOff.filter (fun c => !of c.by') }
  let again := rs.map (fun c => (c.by'.wg, c.q)) ++ ms.map (fun c => (c.by'.wg, 8 + c.q)) ++ qs.map (fun c => (c.by'.wg, 10 + c.q))
  again.foldl (fun s e => s.countIn e.1 e.2) s

/-- What the restore takes from the header beside the convoys: the settings, the halt unless it is cleared, and the maps (R317). -/
def State.restoreHeader (s : State) (x : Ctx) (p : Part) (hdr : List Byte) (clear : Bool) : State :=
  let s := s.modCtx x.key (fun x => { x with
    mode := BitVec.ofNat 32 (recAt hdr 64 4)
    hand := BitVec.ofNat 64 (recAt hdr 72 8)
    stopa := BitVec.ofNat 64 (recAt hdr 80 8)
    pool := BitVec.ofNat 32 (recAt hdr 88 4)
    saved := false
    savedHalted := false
    halt := if clear then none else x.halt })
  (List.range p.dies.length).foldl (fun s i =>
    match qmapOf ((hdr.drop (128 + 96 * i)).take 96) with
    | some m => s.setMap x.key (p.dies.getD i 0) m
    | none => s) s

/-- The header of a save that this context can be restored from (R317, R382). -/
def Ctx.headerFits (x : Ctx) (p : Part) (hdr : List Byte) : Bool :=
  let st := recAt hdr 12 4
  x.saved && recAt hdr 0 4 == 1 && recAt hdr 4 4 == x.num && recAt hdr 8 4 == (p.dies.map (2 ^ ·)).foldl (· + ·) 0 && (st == 1 || st == 2)

/-- The header, the workgroup records and the warp records of a save area; an area that cannot be read, or a header that does not fit, is
ERR 2 (R382). An uncorrectable error is the context's fault 33 besides (R325). -/
def State.readArea (s : State) (x : Ctx) (p : Part) : Except (Nat × State) (State × List Byte × List (List Byte) × List (List Byte)) :=
  let die := p.dies.getD 0 0
  let read : Except (Option CFault) (State × List Byte × List (List Byte) × List (List Byte)) := do
    let (s, hdr) ← s.areaRead x die x.save.toNat 4608
    if !x.headerFits p hdr then .error none
    else
      let (s, gs) ← s.readRecords x die (recAt hdr 24 4) (x.save.toNat + recAt hdr 16 8)
      let (s, ws) ← s.readRecords x die (recAt hdr 28 4) (x.save.toNat + recAt hdr 32 8)
      pure (s, hdr, gs, ws)
  match read with
  | .ok r => .ok r
  | .error none => .error (2, s)
  | .error (some h) => .error (2, s.raiseHalt x.key die 0 0 0 0 0 { h with src := 10 })

/-- CREST's effect: an error code of R382, or the state. A context whose halt is cleared has its unfinished commands issued again (R319).
Log entry 56 (DEDUCED). -/
def State.restoreCtx (s : State) (x : Ctx) (p : Part) (clear : Bool) : Except (Nat × State) State :=
  match s.readArea x p with
  | .error e => .error e
  | .ok (s, hdr, gs, ws) =>
    let step := fun (f : State → List Byte → Option State) (acc : Option State) (r : List Byte) => acc.bind (fun s => f s r)
    match gs.foldl (step (fun s r => s.restoreWg x p r)) (some s) with
    | none => .error (3, s)
    | some t =>
      let ids := (t.wgs.drop s.wgs.length).map (·.id)
      match ws.foldl (step (fun s r => s.restoreWarp x ids r)) (some t) with
      | none => .error (3, s)
      | some t =>
        let t := { t with wgs := t.wgs.map (fun (g : Wg) =>
          if ids.contains g.id then { g with exitedWarps := g.warps - (t.warpsOf g.id).length } else g) }
        let t := (t.restoreHeader x p hdr clear).restoreConvoys x p hdr
        .ok (if clear then t.reissue x.key else t)

/-! ## The end (R320) -/

/-- Everything that is held under a context's number is freed.
Log entry 64 (DEDUCED). -/
def State.freeCtx (s : State) (key : Nat) : State :=
  let of := fun (i : Issuer) => i.ctx == key
  let s1 := s.leaveCores key
  let ids := (s1.reelQ.filter (fun c => of c.by')).map (·.id) ++ (s1.matQ.filter (fun c => of c.by')).map (·.id)
    ++ (s1.ampQ.filter (fun c => of c.by')).map (·.id) ++ (s1.cruQ.filter (fun c => of c.by')).map (·.id)
  let mine := (s1.launches.filter (·.ctx == key)).map (·.id)
  let s1 := (s1.dropCommits key).dropCmds ids
  { s1 with
    savedWgs := s1.savedWgs.filter (fun g => !mine.contains g.launch)
    cgs := s1.cgs.filter (fun g => !mine.contains g.launch)
    launches := updateWhere (fun l => l.ctx == key) (fun l =>
      { l with st := if l.st == .queued then .discarded else l.st, recorded := l.recorded || l.st matches .rejected _ }) s1.launches
    seqrs := s1.seqrs.filter (fun q => !of q.by')
    qmaps := Tbl.clear s1.qmaps (4 * key) 4
    ampMsgs := s1.ampMsgs.filter (·.ctx != key)
    ampGrants := s1.ampGrants.filter (·.ctx != key)
    reelOff := s1.reelOff.filter (fun c => !of c.by')
    matOff := s1.matOff.filter (fun e => !of e.1.by')
    ampOff := s1.ampOff.filter (fun c => !of c.by')
    contribs := s1.contribs.filter (fun c => !of c.by')
    seqs := s1.seqs.filter (·.ctx != key)
    tcache := s1.tcache.filter (·.ctx != key)
    migs := s1.migs.filter (·.ctx != key)
    migRetry := s1.migRetry.filter (·.1 != key)
    shoots := s1.shoots.filter (·.ctx != key)
    reads := s1.reads.filter (·.ctx != key)
    genUpds := s1.genUpds.filter (·.ctx != key)
    collEarly := s1.collEarly.filter (·.name.ctx != key)
    collBad := s1.collBad.filter (·.ctx != key)
    msgs := s1.msgs.map (fun (m : MsgState) =>
      if m.ctx == key then
        { (if m.opened || m.opening then m.close (s1.now (s1.dieOf (8 * m.cluster))) else m) with stale := 0 }
      else m)
    sends := s1.sends.filter (·.ctx != key)
    colls := s1.colls.filter (·.ctx != key)
    doneTickets := s1.doneTickets.filter (·.1 != key)
    ports := s1.ports.map (fun q => if q.bound == some key then { q with bound := none } else q)
    ctxs := s1.ctxs.filter (·.key != key) }

end Sys2Proof.Machine
end

