-- ==== Sys2Proof/Machine/Traffic.lean ====
section
/-!
DEFINITION. Machine/Traffic.lean: what reaches a memory slice and what leaves it: merge reads (R76 to R78), writes (R93, R96) and
ordered contributions (R231 to R233); the accesses of peer packages (R327, R342); the convoy hold (R85); errors that no code corrects
(R75, R325).
-/

namespace Sys2Proof.Machine

/-! ## Merge reads (R76 to R78) -/

/-- An earlier request of the agent is on its way to the same slice (R341). -/
def State.readBehind (s : State) (r : ReadReq) : Bool :=
  (s.reads.takeWhile (·.id != r.id)).any (fun q => !q.sent && q.agent == r.agent && sliceOf q.line == sliceOf r.line)

/-- Count a merge read at its home die: %mrgreq, and %mrgjoin or %mrgdram. -/
def State.countMerge (s : State) (ctx die : Nat) (joined : Bool) : State :=
  let up := fun (t : Tbl Nat) (k : Nat) => Tbl.set 0 t (4 * die + k) ((Tbl.get 0 t (4 * die + k) + 1) % 2 ^ 64)
  s.modCtx ctx (fun x => { x with mrg := up (up x.mrg 0) (if joined then 1 else 2) })

/-- A pending access that a read of a line may join. -/
def Pending.joinable (p : Pending) (line : Nat) : Bool := p.line == line && !p.dirty && p.reqs.length < 64

/-- The read request `a` reaches its home slice, or one that waits in its entry there is served. It joins a pending access or makes one;
while all 256 are in use it waits in its entry (R76, R345). -/
def sliceRead (a : EvArgs) (s : State) : Option State :=
  match s.reads.find? (·.id == a.a) with
  | none => none
  | some r =>
    if r.acc.isSome || !s.readHolds r || s.readBehind r || !s.requestOver r then none
    else
      let mark := fun (s : State) (acc : Nat) =>
        { s with reads := updateWhere (·.id == r.id) (fun q => { q with sent := true, acc := some acc }) s.reads }
      match s.pending.find? (fun p => p.joinable r.line) with
      | some p =>
        let s := { s with pending := updateWhere (·.id == p.id) (fun q => { q with reqs := q.reqs ++ [r.id] }) s.pending }
        some ((mark s p.id).countMerge r.ctx (homeDie r.line) true)
      | none =>
        if 256 ≤ (s.pending.filter (fun p => sliceOf p.line == sliceOf r.line)).length then
          (if r.sent then none
           else some { s with reads := updateWhere (·.id == r.id) (fun q => { q with sent := true }) s.reads })
        else
          let (id, s) := s.fresh
          some ((mark { s with pending := s.pending ++ [⟨id, r.line, [r.id], false⟩] } id).countMerge r.ctx (homeDie r.line) false)

/-! ### Accesses of peer packages (R327, R342) -/

/-- The die at which an access that comes through a port enters a context's partition: the port's own, or the die of index 0 where that
is none of the partition's, so that a shoot-down finds what the access leaves (R333).
Log entry 68 (DESIGN CHOICE). -/
def Part.ingressDie (p : Part) (port : Nat) : Nat := if p.dies.contains (port / 6) then port / 6 else p.dies.headD 0

/-- What the ingress agent of a Tilic port accesses for a context: any page of the context's tables here, since the ranges have been
checked by the package that makes the access (R327). -/
def State.ingressWho (s : State) (x : Ctx) (port : Nat) : Who :=
  s.engineWho { x with standing := [] } [⟨0, 2 ^ 40, true, true⟩] (((s.part? (x.key / 8)).getD ⟨0, [0], 50, 0⟩).ingressDie port) none

/-- The code of a reply to an access that cannot be made. -/
def Deny.replyCode : Deny → Nat
  | .outside | .pinned => 1
  | .absent => 2
  | .failed => 3

/-- An access of the package of rank `f` arrives at port `a` for context `b` at address `d`, `n` bytes long: it is translated through
this package's tables and answered, through the port that the routing table of the ingress's die names (R342). `act` performs it and gives
the data of the reply; `reads` says that it reads the old bytes. A quarantined port drops it (R334), and before RANK a port delivers none
(R384). What finds no permit waits (R343).
Log entry 68 (DESIGN CHOICE). -/
def State.ingress (s : State) (a : EvArgs) (need : Need) (reads : Bool) (n : Nat)
    (act : State → Ctx → Who → List Chunk → State × List Byte) : Option State :=
  let back := fun (s : State) (code : Nat) (bs : List Byte) => s.tilic (a.a / 6) a.f (.reply a.f code bs)
  if n = 0 then none
  else if !s.carries a.a then s.inlet a.a s
  else match s.ctx? a.b with
    | none => some (back s 1 [])
    | some x =>
      let w := s.ingressWho x a.a
      match s.chunks w need false none a.d n with
      | .error (d, _) => some (back s d.replyCode [])
      | .ok cs =>
        if !s.permits (4000 + a.a) w.die (need == .write) (need == .write) cs then none
        else match (if reads then s.checkReads cs else .ok s) with
        | .error h => some (s.raiseHalt x.key w.die 0 0 0 0 0 { h with src := 6 })
        | .ok s =>
          let (s, bs) := act (s.keepAll w cs) x w cs
          some (back s 0 bs)

/-- A read of a peer package, of `e` bytes; its lines are asked for by the ingress agent.
Log entry 77 (DEDUCED). -/
def peerLoad (a : EvArgs) (s : State) : Option State :=
  s.ingress a .read true a.e (fun s x w cs =>
    let (s, bs, ls) := cs.foldl (fun (acc : State × List Byte × List (Nat × Option Nat)) c =>
      let (t, b, l) := acc.1.engChunk w c
      (t, acc.2.1 ++ b, acc.2.2 ++ l)) (s, [], [])
    (s.askLines x.key (4000 + a.a) w.die ls, bs))

/-- A write of a peer package: performed at its home, then acknowledged. -/
def peerStore (a : EvArgs) (s : State) : Option State :=
  s.ingress a .write false a.data.length (fun s x w cs =>
    let (id, s) := s.fresh
    (s.writeChunks id x.key (4000 + a.a) w.die none true cs a.data, []))

/-- An atomic or CAS of a peer package (R229, R230): `e` holds the type's code and, times 32, the AOP or 7 for CAS; `data` the operand,
of CAS the compare value and the new one. The reply returns the old value.
Log entry 68 (DESIGN CHOICE). -/
def peerAtomic (a : EvArgs) (s : State) : Option State :=
  let ty := Fmt.ofCode (a.e % 32)
  match atomType ty with
  | none => none
  | some (n, _, _) =>
    let cas : Bool := a.e / 32 == 7
    if a.data.length != (if cas then 2 * n else n) || a.d % n != 0 then none
    else
      let opnd := leNat (a.data.drop (if cas then n else 0))
      s.ingress a .write true n (fun s _ w cs => match cs with
        | [] => (s, [])
        | c :: _ =>
          let (s, old) := s.homeRead w.die c
          let new := if cas then (if old = a.data.take n then opnd else leNat old) else atomNew ty (a.e / 32) (leNat old) opnd
          (s.homeWrite w.die none c (leBytes n new), old))

/-- MERGE_READ_ARRIVAL: `c` 0, of this package; 1, a peer package's. -/
def mergeArrival (a : EvArgs) (s : State) : Option State := if a.c = 1 then peerLoad a s else sliceRead a s

/-- The slice answers a request; the replies to one agent keep their order (R341). -/
def State.answer (s : State) (id : Nat) : State :=
  let (turn, s) := s.fresh
  { s with reads := updateWhere (·.id == id) (fun q => { q with replied := some turn }) s.reads }

/-- PENDING_ACCESS_RETURN: the DRAM read of pending access `a` returns; every request it serves is answered. -/
def accessReturn (a : EvArgs) (s : State) : Option State :=
  match s.pending.find? (·.id == a.a) with
  | none => none
  | some p => some (p.reqs.foldl State.answer { s with pending := s.pending.filter (·.id != p.id) })

/-- An earlier reply of the slice to the agent is on its way (R341). -/
def State.replyBehind (s : State) (r : ReadReq) (turn : Nat) : Bool :=
  s.reads.any (fun q => q.agent == r.agent && q.replied.any (· < turn) && sliceOf q.line == sliceOf r.line)

/-- The reply of a peer package to request `a` comes through port `d`: its permit is free for what waits at the egress (R343). -/
def peerReply (a : EvArgs) (s : State) : Option State :=
  match s.peerReqs.find? (·.id == a.a) with
  | none => none
  | some q =>
    if !q.sent then none
    else s.inlet a.d (({ s with peerReqs := s.peerReqs.filter (·.id != q.id) } : State).egress q.core q.write)

/-- REPLY_ARRIVAL: the requester accepts the data of request `a`, which frees its permit; with `c` 1, a core the reply of a peer. -/
def replyArrival (a : EvArgs) (s : State) : Option State :=
  if a.c = 1 then peerReply a s
  else match s.reads.find? (·.id == a.a) with
  | none => none
  | some r => match r.replied with
    | none => none
    | some turn => if s.replyBehind r turn || !s.replyOver r then none else some { s with reads := s.reads.filter (·.id != r.id) }

/-! ## Writes (R93, R96) -/

/-- Remove the first element that `p` selects. -/
def dropFirst {α : Type} (p : α → Bool) : List α → List α
  | [] => []
  | x :: xs => if p x then xs else x :: dropFirst p xs

/-- What goes before a write that is on its way after `ahead`: the writes of its die to the same bytes, and those of its agent to the same
slice (R96, R341). -/
def InFlight.follows (w : InFlight) (ahead : List InFlight) : Bool :=
  ahead.any (fun v => v.die == w.die && (v.clashes w || (v.agent == w.agent && sliceOf (lineOf v.pa) == sliceOf (lineOf w.pa))))

/-- The agent's permits admit a write that is on its way after `ahead` (R343).
Log entry 70 (DEDUCED). -/
def State.writeHolds (s : State) (w : InFlight) (ahead : List InFlight) : Bool :=
  writesAhead ahead w.agent w.die (lineOf w.pa) + s.contribsAhead w.agent w.die (lineOf w.pa) w.id
    < permitsOf w.agent (homeDie (lineOf w.pa) == w.die) true

/-- The write of instruction `a` at physical address `b` reaches its home slice, with the rest of its unit (R94), once what goes before it
has arrived, its agent's permits admit it and it has crossed to that die (R340). -/
def homeArrival (a : EvArgs) (s : State) : Option State :=
  let mine := fun (w : InFlight) => w.id == a.a && w.pa == a.b
  match s.writes.find? mine with
  | none => none
  | some w =>
    let whole := fun (v : InFlight) => v.unit && v.id == w.id
    let ws := if w.unit then s.writes.filter whole else [w]
    let ahead := s.writes.takeWhile (fun v => if w.unit then !whole v else !mine v)
    if ws.any (fun v => v.follows ahead || !s.writeHolds v ahead || !s.writeOver v) then none
    else some { ws.foldl State.commit s with
      writes := if w.unit then s.writes.filter (fun v => !whole v) else dropFirst mine s.writes }

/-- SLICE_WRITE_ARRIVAL: `c` 0, a write of this package; 1, of a peer package; 5, an atomic or CAS of one. With 2, 3 and 4 something
outside the package changes, as the world does: the memory of context `b` on the package of rank `a` at address `d`; host memory behind
port `a` at address `d`; what the walker of rank `a` finds for page `d` of context `b`, `e`.
Log entries 16 (DEDUCED), 68 (DESIGN CHOICE). -/
def writeArrival (a : EvArgs) (s : State) : Option State :=
  match a.c with
  | 0 => homeArrival a s
  | 1 => peerStore a s
  | 2 => if 32 ≤ a.b || a.a = s.rank then none else some (s.peerWrite (peerKey a.a a.b) a.d a.data)
  | 3 => if s.ports.length ≤ a.a then none else some (s.hostWrite a.a a.d a.data)
  | 4 => if 32 ≤ a.b || a.a = s.rank then none
         else some { s with peerPages := Tbl.set 0 s.peerPages (peerKey a.a a.b * 2 ^ 40 + a.d % 2 ^ 40) (a.e % 2 ^ 6) }
  | 5 => peerAtomic a s
  | _ => none

/-! ## Ordered contributions (R231 to R233) -/

/-- The bytes at the place of a contribution. -/
def State.placeBytes (s : State) (pa n : Nat) : List Byte :=
  if pa < 2 ^ 80 then readBytes s.mem pa n
  else if pa < 3 * 2 ^ 80 then s.hostBytes (pa / 2 ^ 80 - 1) (pa % 2 ^ 80) n
  else s.peerBytes (pa / 2 ^ 80 - 4) (pa % 2 ^ 80) n

/-- Write at the place of a contribution: it is performed then, so its core's L1 keeps no older copy of the line (R93, R98, R233). -/
def State.placeWrite (s : State) (c : Contrib) (bs : List Byte) : State :=
  if c.pa < 2 ^ 80 then (s.writeHome c.die c.pa c.mir bs).l1Drop c.by'.core (lineOf c.pa)
  else if c.pa < 3 * 2 ^ 80 then s.hostWrite (c.pa / 2 ^ 80 - 1) (c.pa % 2 ^ 80) bs
  else
    let rank := (c.pa / 2 ^ 80 - 4) / 32
    let ctx := (c.pa / 2 ^ 80 - 4) % 32
    s.toPeer c.by'.core c.die rank ctx (c.pa % 2 ^ 80) (.write rank ctx (c.pa % 2 ^ 80) bs) bs

/-- One application: a float add rounded to nearest even (R121), or an integer add that saturates (R120). -/
def orderedAdd (ty : Fmt) (old new : Nat) : Nat :=
  match atomType ty with
  | some (_, _, true) => atomNew ty 0 old new
  | some (n, sg, false) => modW (8 * n) (satInt sg (8 * n) (readInt sg (8 * n) old + readInt sg (8 * n) new))
  | none => old

/-- The bytes of an ordered location. -/
def orderedSize (ty : Fmt) : Nat := ty.bits / 8

/-- The open sequence of a location. -/
def State.seqAt (s : State) (pa : Nat) : Option OpenSeq := s.seqs.find? (·.pa == pa)

/-- A contribution leaves: its permit is free. -/
def State.dropContrib (s : State) (c : Contrib) : State :=
  ({ s with contribs := s.contribs.filter (·.id != c.id) } : State).egress c.by'.core true

/-- A context fault that the home slice finds in a contribution, which is dropped. -/
def State.contribHalt (s : State) (c : Contrib) (h : CFault) : State :=
  (s.dropContrib c).raiseHalt c.by'.ctx c.home c.by'.core c.by'.slot c.by'.pc c.by'.seq
    (match s.wg? c.by'.wg with
      | some g => g.wg
      | none => 0) h

/-- The errors of the line that a contribution is added into (R325). -/
def State.placeCheck (s : State) (c : Contrib) : Except CFault State :=
  if c.pa < 2 ^ 80 then s.checkLine c.home c.pa c.mir else .ok s

/-- Apply a contribution whose key is next; the sequence closes with its last.
Log entry 19 (DEDUCED). -/
def State.applyOrdered (s : State) (c : Contrib) (q : OpenSeq) : State :=
  let n := orderedSize c.fmt
  let s := s.drain (fun w => w.die == c.die && w.meets c.pa n)
  match s.placeCheck c with
  | .error h => s.contribHalt c { h with va := c.va }
  | .ok s =>
    let s := (s.dropContrib c).placeWrite c (leBytes n (orderedAdd c.fmt (leNat (s.placeBytes c.pa n)) c.val))
    { s with
      seqs := if q.next + 1 = q.n then s.seqs.filter (·.pa != c.pa)
              else updateWhere (·.pa == c.pa) (fun x => { x with next := q.next + 1 }) s.seqs }

/-- Apply the waiting contributions whose keys have become next. -/
def State.applyWaiting (s : State) (pa : Nat) : Nat → State
  | 0 => s
  | fuel + 1 =>
    match s.seqAt pa with
    | none => s
    | some q =>
      match s.contribs.find? (fun c => c.waiting && c.pa == pa && c.key == q.next) with
      | none => s
      | some c => (s.applyOrdered c q).applyWaiting pa fuel

/-- The context fault of an ordered key (R232), which the access of a warp's lane causes (R314). -/
def State.orderedHalt (s : State) (c : Contrib) : State := s.contribHalt c
  { cause := 40, lmask := BitVec.ofNat 32 (2 ^ c.lane), va := c.va, info := c.key }

/-- The slice of a contribution's location. -/
def Contrib.slice (c : Contrib) : Nat := sliceOf (lineOf c.pa)

/-- The slice of a contribution has a place for one that waits (R233). -/
def State.placeLeft (s : State) (c : Contrib) : Bool := (s.contribs.filter (fun x => x.waiting && x.slice == c.slice)).length < 512

/-- The write permits admit a contribution (R343, R344); the peer packages make one pool.
Log entry 70 (DEDUCED). -/
def State.contribHolds (s : State) (c : Contrib) : Bool :=
  if c.pa < 2 ^ 80 then
    writesAhead (s.writes.filter (·.id < c.id)) c.by'.core c.die (lineOf c.pa) + s.contribsAhead c.by'.core c.die (lineOf c.pa) c.id
      < permitsOf c.by'.core (c.home == c.die) true
  else if c.pa < 4 * 2 ^ 80 then true
  else s.peerContribs c.by'.core c.id + s.peerHeld c.by'.core true < peerPermits true

/-- The traffic to the peer of a contribution is dropped (R334). -/
def State.contribMute (s : State) (c : Contrib) : Bool := 4 * 2 ^ 80 ≤ c.pa && s.drops c.die ((c.pa / 2 ^ 80 - 4) / 32)

/-- The slice of a contribution refuses it: it finds no place for the sequence that it opens, or none to wait in (R233). -/
def State.contribRefused (s : State) (c : Contrib) : Bool :=
  match s.seqAt c.pa with
  | none => 32 ≤ (s.seqs.filter (fun q => sliceOf (lineOf q.pa) == c.slice)).length || (c.key != 0 && !s.placeLeft c)
  | some q =>
    !(c.n != q.n || c.key < q.next || s.contribs.any (fun x => x.waiting && x.pa == c.pa && x.key == c.key)) && c.key != q.next
      && !s.placeLeft c

/-- An earlier contribution of the core to the same slice is on its way, and not refused there (R341). -/
def State.contribBehind (s : State) (c : Contrib) : Bool :=
  c.pa < 2 ^ 80 && s.contribs.any (fun x => !x.waiting && x.id < c.id && x.by'.core == c.by'.core && x.pa < 2 ^ 80
    && x.slice == c.slice && !s.contribRefused x)

/-- ORDERED_CONTRIBUTION_ARRIVAL: contribution `a` reaches its home slice. One of a context whose halt has reached that die is
discarded (R313); one that finds no place is refused and sent again (R233). -/
def contribArrival (a : EvArgs) (s : State) : Option State :=
  match s.contribs.find? (fun c => c.id == a.a && !c.waiting) with
  | none => none
  | some c =>
    let wait := fun (s : State) =>
      { s with contribs := updateWhere (·.id == c.id) (fun x => { x with waiting := true }) s.contribs }
    if (s.ctx? c.by'.ctx).any (fun x => x.halt.any (fun h => h.dies.contains c.home)) then
      some (s.dropContrib c)
    else if !s.over 3 c.id c.die c.home || !s.contribHolds c || s.contribMute c || s.contribRefused c || s.contribBehind c then none
    else
      match s.seqAt c.pa with
      | none =>
        let q : OpenSeq := ⟨c.pa, c.home, c.by'.ctx, 0, c.n⟩
        let s' := { s with seqs := s.seqs ++ [q] }
        some (if c.key = 0 then s'.applyOrdered c q else wait s')
      | some q =>
        if c.n != q.n || c.key < q.next || s.contribs.any (fun x => x.waiting && x.pa == c.pa && x.key == c.key) then
          some (s.orderedHalt c)
        else if c.key = q.next then some ((s.applyOrdered c q).applyWaiting c.pa s.contribs.length)
        else some (wait s)

/-! ## The convoy hold (R85) -/

/-- The cycle since which a warp waits in CVLD. -/
def Warp.cvSince (w : Warp) : Option Nat :=
  w.waits.findSome? (fun (e : Nat × Wait) => match e.2 with
    | .cvld t => some t
    | _ => none)

/-- CONVOY_HOLD_EXPIRY: the timer of the CVLD that the warp of core `a`, slot `b` waits in reaches CVHOLD.
Log entry 65 (DEDUCED). -/
def holdExpiry (a : EvArgs) (s : State) : Option State :=
  match s.warp? a.a a.b with
  | none => none
  | some w =>
    match w.cvSince, w.assoc, s.launchOf w with
    | some t, some m, some l =>
      match s.convoy? (s.dieOf a.a) l m.decl with
      | none => none
      | some c => if w.cvPass || s.clk < t + c.holdCycles then none else some (s.cvExpire c a.a a.b m.pos)
    | _, _, _ => none

/-! ## Errors that no code corrects (R75, R325) -/

/-- What an agent of a core is at work on for a context, as the origin record names it: slot, lanes, address, launch, workgroup. SRC 1
is the warp of a slot, 2 the reel, 3 the matrix engine, 9 a sequencer.
Log entry 34 (DEDUCED). -/
def State.errOrigin (s : State) (core slot ctx src : Nat) : Option (Nat × LaneMask × DWord × Nat × DWord) :=
  let of := fun (i : Issuer) => some (0, (0 : LaneMask), i.pc, i.seq, ((s.wg? i.wg).map (·.wg)).getD 0)
  match src with
  | 1 => (s.warp? core slot).bind (fun w => (s.wg? w.wg).bind (fun g => (s.launch? g.launch).bind (fun l =>
      if l.ctx != ctx then none
      else
        let e := w.rob.head?.map (fun e => (e.mask, e.pc))
        some (slot, (e.map (·.1)).getD 0, (e.map (·.2)).getD 0, l.seq, g.wg))))
  | 2 => (s.reelQ.find? (fun c => c.core == core && c.by'.ctx == ctx && c.started)).bind (fun c => of c.by')
  | 3 => (s.matQ.find? (fun c => c.core == core && c.by'.ctx == ctx && c.started)).bind (fun c => of c.by')
  | 9 => (s.seqrs.find? (fun q => q.core == core && q.by'.ctx == ctx)).bind (fun q => of { q.by' with pc := q.pc })
  | _ => none

/-- UNCORRECTABLE_ERROR: `a` 0, in an array of core `b` used for context `c` by the agent of SRC `d`, the warp of slot `e` for a warp:
context fault 33. `a` 1: the line of physical address `b` holds an error, which its next read finds.
Log entry 34 (DEDUCED). -/
def hardError (a : EvArgs) (s : State) : Option State :=
  if a.a = 1 then
    if s.poison.contains (lineOf a.b) then none else some { s with poison := s.poison ++ [lineOf a.b] }
  else if a.a = 0 && a.b < 8 * s.clusters && (s.ctx? a.c).isSome then
    (s.errOrigin a.b a.e a.c a.d).map (fun o =>
      s.raiseHalt a.c (s.dieOf a.b) a.b o.1 o.2.2.1 o.2.2.2.1 o.2.2.2.2 { cause := 33, src := a.d, lmask := o.2.1 })
  else none

/-! ## The meanings -/

def execMergeReadArrival (s : State) : Out := event "MERGE_READ_ARRIVAL" mergeArrival s
def execPendingAccessReturn (s : State) : Out := event "PENDING_ACCESS_RETURN" accessReturn s
def execReplyArrival (s : State) : Out := event "REPLY_ARRIVAL" replyArrival s
def execSliceWriteArrival (s : State) : Out := event "SLICE_WRITE_ARRIVAL" writeArrival s
def execOrderedContributionArrival (s : State) : Out := event "ORDERED_CONTRIBUTION_ARRIVAL" contribArrival s
def execConvoyHoldExpiry (s : State) : Out := event "CONVOY_HOLD_EXPIRY" holdExpiry s
def execRetentionEntry (s : State) : Out := event "RETENTION_ENTRY" retEntry s
def execRetentionExit (s : State) : Out := event "RETENTION_EXIT" retExit s
def execRetentionTimeoutExit (s : State) : Out := event "RETENTION_TIMEOUT_EXIT" retTimeout s
def execUncorrectableError (s : State) : Out := event "UNCORRECTABLE_ERROR" hardError s

/-- The member slot of a warp. -/
def Warp.memberSlot (w : Warp) : Nat := w.assoc.elim 0 (·.slot)

/-- The next hold expiry that is due, in ascending member slot (R87).
Log entry 65 (DEDUCED). -/
def holdNext (s : State) : Option (Instr × EvArgs) :=
  let held := sortBy (fun a b => a.2.memberSlot ≤ b.2.memberSlot) (s.warps.filter (fun e => e.2.cvSince.isSome))
  (held.map (fun e => ({ a := e.1 / 32, b := e.1 % 32 } : EvArgs))).findSome? (fun a =>
    if (holdExpiry a s).isSome then some (.convoyHoldExpiry, a) else none)

/-- The next event of the memory slices and of the segments that leave retention. -/
def trafficNext (s : State) : Option (Instr × EvArgs) :=
  let first := fun (i : Instr) (f : EvArgs → State → Option State) (as : List EvArgs) =>
    (as.find? (fun a => (f a s).isSome)).map (fun a => (i, a))
  (first .replyArrival replyArrival (s.reads.map (fun r => { a := r.id }))).or
    (s.pending.head?.map (fun p => (Instr.pendingAccessReturn, ({ a := p.id } : EvArgs)))) |>.or
    (first .mergeReadArrival mergeArrival (s.reads.map (fun r => { a := r.id }))) |>.or
    (first .orderedContributionArrival contribArrival (s.contribs.map (fun c => { a := c.id }))) |>.or
    (first .sliceWriteArrival writeArrival (s.writes.map (fun w => { a := w.id, b := w.pa }))) |>.or
    (first .retentionExit retExit (s.ret.map (fun (e : Nat × RetSt) => { a := e.1 / 2048, b := e.1 % 2048 }))) |>.or
    (if s.retPol = 0 then
      first .retentionTimeoutExit retTimeout (s.ret.map (fun (e : Nat × RetSt) => { a := e.1 / 2048, b := e.1 % 2048 }))
     else none)

end Sys2Proof.Machine
end

