-- ==== Sys2Proof/Machine/Network.lean ====
section
/-!
DEFINITION. Machine/Network.lean: the events of migrations and shoot-downs (R330 to R335), of the routers and what crosses them between
dies (R336 to R340), of the Tilic ports and of the host links (R334, R373, R377, R384).
-/

namespace Sys2Proof.Machine

/-! ## Migrations (R330) -/

/-- MIGRATION_PIECE: the next piece of migration `a`; `b` is 1 when the copy arrived damaged. -/
def migrationPiece (a : EvArgs) (s : State) : Option State :=
  match s.migs.find? (·.id == a.a) with
  | some m => if m.piece * 4096 < m.size then some (s.migPiece m (a.b == 1)) else none
  | none => none

/-- MIGRATION_COMPLETE: every piece of migration `a` has matched. -/
def migrationComplete (a : EvArgs) (s : State) : Option State :=
  match s.migs.find? (·.id == a.a) with
  | some m => if m.size ≤ m.piece * 4096 then some (s.migDone m) else none
  | none => none

/-! ## Shoot-downs (R332 to R335) -/

def State.setShoot (s : State) (id : Nat) (f : Shootdown → Shootdown) : State :=
  { s with shoots := updateWhere (·.id == id) f s.shoots }

/-- The partition of a shoot-down. -/
def State.shootPart (s : State) (sd : Shootdown) : Option Part := s.part? (sd.ctx / 8)

/-- SHOOTDOWN_INVALIDATE_ARRIVAL: shoot-down `a` reaches die `b`; with `a` 0, one of context `c` started by the package of rank `d`,
over `f` bytes at `e`, reaches this package from the package of rank `b` through the port that `pairs` names. -/
def shootArrival (a : EvArgs) (s : State) : Option State :=
  if a.a = 0 then
    if (s.ctx? a.c).isNone || a.d == s.rank || a.f = 0 then none
    else s.inlet (a.pairs.headD (0, 0)).1 (s.startShoot a.c a.c a.d a.b a.e a.f false).2
  else
    match s.shoots.find? (·.id == a.a) with
    | none => none
    | some sd =>
      match s.shootPart sd with
      | none => none
      | some p => if !p.dies.contains a.b || sd.swept.contains a.b || sd.done then none else some (s.sweep sd a.b)

/-- What a die itself owes before it acknowledges: its sweep, and the accesses made through an old translation (R333). -/
def State.sweepOpen (s : State) (sd : Shootdown) (die : Nat) : Bool := !sd.swept.contains die || s.oldContrib sd die

/-- A die of index other than 0 has not acknowledged. -/
def Shootdown.awaits (sd : Shootdown) (p : Part) : Bool := (p.dies.drop 1).any (fun d => !sd.swept.contains (4 + d))

/-- SHOOTDOWN_ACK: for shoot-down `a`, the die `c` (`b` 0) or the child package of rank `c` (`b` 1) acknowledges, the latter through port
`e`, with `d` 1 when a package below it was fenced. The die of index 0 is the last of its package.
Log entry 64 (DEDUCED). -/
def shootAck (a : EvArgs) (s : State) : Option State :=
  match s.shoots.find? (·.id == a.a) with
  | none => none
  | some sd =>
    match s.shootPart sd with
    | none => none
    | some p =>
      if a.b = 1 then
        if sd.kids.contains a.c then
          s.inlet a.e (s.setShoot sd.id (fun d => { d with kids := d.kids.filter (· != a.c), fenced := d.fenced || a.d == 1 }))
        else none
      else if !p.dies.contains a.c || s.sweepOpen sd a.c || sd.swept.contains (4 + a.c) then none
      else if p.dies.head? == some a.c && (!sd.kids.isEmpty || sd.awaits p) then none
      else some (s.setShoot sd.id (fun d => { d with swept := d.swept ++ [4 + a.c] }))

/-- Fence a package: it is sent nothing more, every port that faces it is quarantined, and the requests to it, whose replies cannot come,
end (R334, R343). -/
def State.fenceRank (s : State) (rank : Nat) : State :=
  { s with
    fencedRanks := s.fencedRanks ++ [rank]
    peerReqs := s.peerReqs.filter (·.rank != rank)
    tports := s.tports.map (fun (t : TPort) => if t.far == some rank then { t with quarantined := true } else t) }

/-- The ports that have linked. -/
def State.upPorts (s : State) : List Nat := (List.range s.tports.length).filter (fun i => (s.tports[i]?).any (·.up))

/-- Fence a package, tell the neighbours, and report it (R334). -/
def State.fence (s : State) (ctx rank : Nat) : State :=
  let s := s.fenceRank rank
  (s.upPorts.foldl (fun s i => s.tilicAt i (.fence rank)) s).postEvent 2 ctx 0 rank 0

/-- SHOOTDOWN_TIMEOUT: the wait of shoot-down `a` expires. Children that have not answered are fenced, and the packages of their
subtrees that are not fenced with them are reached directly under a fresh wait; where a die of the initiating package has failed to
acknowledge, the initiating context takes cause 37.
Log entry 64 (DEDUCED). -/
def shootTimeout (a : EvArgs) (s : State) : Option State :=
  match s.shoots.find? (·.id == a.a) with
  | none => none
  | some sd =>
    match s.shootPart sd with
    | none => none
    | some p =>
      let head := s.headDie sd.ctx
      if sd.done || s.shootReady sd || s.now head < sd.started + us p.timeout then none
      else
        let late := s.sweepOpen sd head || sd.awaits p || sd.kids.isEmpty
        let order := spanOrder (((s.ctx? sd.ctx).map (·.span)).getD []) sd.root
        let below := (sd.kids.flatMap (spanBelow order)).eraseDups.filter (fun r => !sd.kids.contains r)
        let t := sd.kids.foldl (fun s r => s.fence sd.ctx r) s
        if late && sd.root == s.rank then
          some ((t.setShoot sd.id (fun d => { d with halted := true, done := true, fenced := d.fenced || !sd.kids.isEmpty })).raiseHalt
            sd.by' head 0 0 0 0 0 { cause := 37, src := 7, info := s.rank })
        else if sd.kids.isEmpty then none
        else
          some ((t.setShoot sd.id (fun d => { d with kids := below, fenced := true, started := s.now head })).sendShoot sd below)

/-- SHOOTDOWN_COMPLETE: every die and child has acknowledged shoot-down `a`. One that this package started completes; for another,
this package acknowledges to the package that the invalidation came from.
Log entry 64 (DEDUCED). -/
def shootComplete (a : EvArgs) (s : State) : Option State :=
  match s.shoots.find? (·.id == a.a) with
  | none => none
  | some sd =>
    if sd.done || !s.shootReady sd then none
    else if sd.root == s.rank then some (s.setShoot sd.id (fun d => { d with done := true }))
    else
      some ({ s with shoots := s.shoots.filter (·.id != sd.id) }.tilic (s.headDie sd.ctx) sd.parent
        (.ack sd.parent sd.root sd.ctx sd.lo sd.hi sd.fenced))

/-! ## The bridges (R339, R340) -/

/-- A channel that holds a flit with a credit. -/
def ROut.ready (r : ROut) (c : Nat) : Bool := !(r.queues.getD c []).isEmpty && r.credits.getD c 0 != 0

/-- The channel that moves a flit: the due channel with the largest wait, the lowest class among equals; else the highest ready
class. -/
def ROut.choose (r : ROut) : Option Nat :=
  let ready := (List.range 6).filter r.ready
  let due := ready.filter (fun c => 8 ≤ r.waits.getD c 0)
  match due with
  | [] => ready.getLast?
  | c :: cs => some (cs.foldl (fun b x => if r.waits.getD b 0 < r.waits.getD x 0 then x else b) c)

/-- Move a flit of the first packet of a channel: the packet's flits follow one another. -/
def takeFlit : List RPkt → List RPkt
  | [] => []
  | p :: ps => if p.flits ≤ 1 then ps else { p with flits := p.flits - 1 } :: ps

/-- One network cycle of an output. -/
def ROut.cycle (r : ROut) (c : Nat) : ROut :=
  let on := fun (f : Nat → Nat → Nat) (l : List Nat) => (List.range 6).map (fun i => f i (l.getD i 0))
  { r with
    queues := (List.range 6).map (fun i => let q := r.queues.getD i []; if i = c then takeFlit q else q)
    credits := on (fun i n => if i = c then n - 1 else n) r.credits
    waits := on (fun i n => if i = c then 0 else if r.ready i then n + 1 else n) r.waits
    moved := on (fun i n => if i = c then n + 1 else n) r.moved }

/-- The bridge by which a packet leaves die `d` for die `dst`: that of bit 0 of the die number while it differs, then that of bit 1. -/
def bridgeBit (d dst : Nat) : Option Nat :=
  if bit d 0 != bit dst 0 then some 0 else if bit d 1 != bit dst 1 then some 1 else none

/-- A packet joins the output of a die that leads to its destination; one that has arrived leaves the bridges, and what it carries has
crossed.
Log entry 70 (DEDUCED). -/
def State.toBridge (s : State) (d c : Nat) (p : RPkt) : State :=
  match bridgeBit d p.dst with
  | none => { s with crossed := s.crossed ++ p.item.toList }
  | some b =>
    let joined := fun (r : ROut) => { r with queues := r.queues.mapIdx (fun i q => if i = c then q ++ [p] else q) }
    { s with routers := updateWhere (fun (r : ROut) => r.die == d && r.bit == b) joined s.routers }

/-- How a packet goes: its die, the die it goes to, its channel and its flits (R336, R337). -/
structure BridgePath where
  src : Nat
  dst : Nat
  chan : Nat
  flits : Nat
  deriving DecidableEq, Repr

/-- The path of what has been sent between two dies: a read request (kind 0), the reply to the reads of a die that one access serves (1),
a write (2), a contribution (3), a tagged message (4), its reply (5), a generation update (6). What holds no permit has not been sent
(R343).
Log entry 70 (DEDUCED). -/
def State.pathOf (s : State) (kind id : Nat) : Option BridgePath :=
  let size := fun (bs : List Byte) => max 1 ((bs.length + 127) / 128)
  match kind with
  | 0 => (s.reads.find? (fun r => r.id == id && r.acc.isNone && s.readHolds r)).map (fun r => ⟨r.die, homeDie r.line, 0, 1⟩)
  | 1 => (s.reads.find? (fun r => r.replyKey == id && r.acc.isSome && r.replied.isSome)).map (fun r => ⟨homeDie r.line, r.die, 3, 1⟩)
  | 2 => (s.writes.find? (fun w => w.key == id && s.writeHolds w (s.writes.takeWhile (· != w)))).map (fun w =>
      ⟨w.die, homeDie (lineOf w.pa), 2, size w.bytes⟩)
  | 3 => (s.contribs.find? (fun c => c.id == id && !c.waiting && s.contribHolds c)).map (fun c => ⟨c.die, c.home, 0, 1⟩)
  | 4 => (s.pkts.find? (·.id == id)).map (fun p => ⟨s.dieOfCluster p.src, s.dieOfCluster p.dst, 1, size p.data⟩)
  | 5 => (s.replies.find? (·.id == id)).map (fun r => ⟨s.dieOfCluster r.src, s.dieOf r.core, 4, 1⟩)
  | 6 => (s.genUpds.find? (·.id == id)).map (fun u => ⟨s.dieOfCluster u.cluster, u.die, 5, 1⟩)
  | _ => none

/-- What stands at a bridge, or has crossed. -/
def State.underWay (s : State) (i : Nat × Nat) : Bool :=
  s.crossed.contains i || s.routers.any (fun r => r.queues.any (fun q => q.any (fun p => p.item == some i)))

/-- What is sent from die `d` enters the output towards bridge `b`, if its path leads there.
Log entry 70 (DEDUCED). -/
def State.enterBridge (s : State) (d b : Nat) (i : Nat × Nat) : Option State :=
  match s.pathOf i.1 i.2 with
  | none => none
  | some p =>
    if p.src != d || bridgeBit p.src p.dst != some b || s.underWay i then none
    else some (s.toBridge d p.chan ⟨p.dst, p.flits, p.flits, some i⟩)

/-- Packets enter the output of a die towards a bridge: with `e` 1 those of other traffic to die `c`, each of `pairs` a channel and its
flits; else what `pairs` names by kind and number.
Log entry 70 (DEDUCED). -/
def routerEntry (a : EvArgs) (s : State) : Option State :=
  if a.e = 1 then
    if a.pairs.any (fun p => 6 ≤ p.1 || p.2 = 0) || (!a.pairs.isEmpty && (bridgeBit a.a a.c != some a.b || 4 ≤ a.c)) then none
    else some (a.pairs.foldl (fun s p => s.toBridge a.a p.1 ⟨a.c, p.2, p.2, none⟩) s)
  else a.pairs.foldl (fun (s : Option State) i => s.bind (fun s => s.enterBridge a.a a.b i)) (some s)

/-- ROUTER_OUTPUT_ARBITRATION: one network cycle of the output of die `a` towards the bridge of bit `b`. Before it, packets enter
(`routerEntry`), and the next hop returns `data` credits, one byte per channel. A packet whose last flit moves stands at the other end of
the bridge.
Log entry 70 (DEDUCED). -/
def routerCycle (a : EvArgs) (s : State) : Option State :=
  match routerEntry a s with
  | none => none
  | some s =>
    match s.routers.find? (fun r => r.die == a.a && r.bit == a.b) with
    | none => none
    | some r =>
      let r := { r with credits := r.credits.mapIdx (fun i n => n + (a.data.getD i 0).toNat) }
      let put := fun (s : State) (r : ROut) =>
        { s with routers := updateWhere (fun (x : ROut) => x.die == a.a && x.bit == a.b) (fun _ => r) s.routers }
      match r.choose, (r.choose.bind (fun c => (r.queues.getD c []).head?)) with
      | some c, some p =>
        let s := put s (r.cycle c)
        some (if p.flits ≤ 1 then s.toBridge (Nat.xor a.a (2 ^ a.b)) c { p with flits := p.len } else s)
      | _, _ => if a.pairs.isEmpty && a.data.isEmpty then none else some (put s r)

/-- What has been sent to another die and has not entered a bridge, with the output that it enters. -/
def State.toCross (s : State) : List EvArgs :=
  let items := s.reads.map (fun r => (0, r.id)) ++ s.reads.map (fun r => (1, r.replyKey)) ++ s.writes.map (fun w => (2, w.key))
    ++ s.contribs.map (fun c => (3, c.id)) ++ s.pkts.map (fun p => (4, p.id)) ++ s.replies.map (fun r => (5, r.id))
    ++ s.genUpds.map (fun u => (6, u.id))
  items.filterMap (fun i => (s.pathOf i.1 i.2).bind (fun p => (bridgeBit p.src p.dst).map (fun b =>
    { a := p.src, b := b, pairs := [i] })))

/-! ## Tilic ports and host links (R334, R373, R377, R384) -/

def State.setTport (s : State) (p : Nat) (f : TPort → TPort) : State :=
  { s with tports := s.tports.mapIdx (fun i t => if i = p then f t else t) }

/-- RANK_REPORT_ARRIVAL: the far end of port `a` reports rank `b`; one that reports this package's rank is quarantined. With `c` 1 the
management packet tells instead that the package of rank `b` has been fenced (R334).
Log entry 62 (DEDUCED). -/
def rankReport (a : EvArgs) (s : State) : Option State :=
  match s.tports[a.a]? with
  | none => none
  | some t =>
    if !t.up || t.quarantined then none
    else if a.c = 1 then (if s.fencedRanks.contains a.b then none else some (s.fenceRank a.b))
    else
      let dup : Bool := s.ranked && a.b == s.rank
      let s := s.setTport a.a (fun t => { t with far := some a.b, quarantined := t.quarantined || dup })
      some (if dup then s.postEvent 2 0 (a.a / 6) a.b 0 else s)

/-- TILIC_LANE_SPARE: port `a` moves a failing data lane to its spare lane, or with `b` 1 trains a lane again; LANESP counts it. -/
def laneSpare (a : EvArgs) (s : State) : Option State :=
  match s.tports[a.a]? with
  | none => none
  | some t =>
    if !t.up then none
    else if a.b = 1 then some (s.bumpLane (a.a / 6) a.a)
    else if t.spareLaneUsed then none
    else some ((s.setTport a.a (fun t => { t with spareLaneUsed := true })).bumpLane (a.a / 6) a.a)

/-- TILIC_FLIT_RESEND: port `a` sends again every flit that its far end has not acknowledged, when it has acknowledged `b` of them.
Log entry 62 (DEDUCED). -/
def flitResend (a : EvArgs) (s : State) : Option State :=
  match s.tports[a.a]? with
  | none => none
  | some t =>
    if !t.up || t.quarantined || t.unacked ≤ a.b then none
    else some (s.setTport a.a (fun t => { t with unacked := t.unacked - a.b, resent := t.resent + (t.unacked - a.b) }))

/-- The routes that named a failed port name another, or where none serves end.
Log entry 62 (DEDUCED). -/
def State.reroute (s : State) (port : Nat) (to' : Option Nat) : State :=
  { s with routes := match to' with
      | some b => s.routes.map (fun (e : Nat × Nat) => if e.2 == port + 1 then (e.1, b + 1) else e)
      | none => s.routes.filter (fun (e : Nat × Nat) => e.2 != port + 1) }

/-- TILIC_PORT_FAILURE: port `a` fails; the entries that named it name port `b`, which resends the unacknowledged flits. Where no other
port serves, those ranks have no route any more, and the flits are lost.
Log entry 62 (DEDUCED). -/
def portFailure (a : EvArgs) (s : State) : Option State :=
  match s.tports[a.a]? with
  | none => none
  | some t =>
    let serves := fun (i : Nat) => i != a.a && (s.tports[i]?).any (fun u => u.up && !u.quarantined)
    if !t.up then none
    else
      let down := (s.setTport a.a (fun t => { t with up := false, unacked := 0 })).bump (a.a / 6) 5 a.a
      if serves a.b then
        some ((down.setTport a.b (fun u => { u with unacked := u.unacked + t.unacked, resent := u.resent + t.unacked })).reroute a.a
          (some a.b))
      else if (List.range s.tports.length).any serves then none
      else some (down.reroute a.a none)

/-- HOST_LINK_RETRAIN: host port `a` links again with `b` lanes, 8 or 4; LANESP of its die counts it.
Log entry 62 (DEDUCED). -/
def hostRetrain (a : EvArgs) (s : State) : Option State :=
  match s.ports[a.a]? with
  | none => none
  | some p =>
    if !p.linked || (a.b != 8 && a.b != 4) || p.lanes ≤ a.b then none
    else
      some ({ s with ports := s.ports.mapIdx (fun i (q : Port) => if i = a.a then { q with lanes := a.b } else q) }.bump (3 * a.a) 4 a.a)

/-! ## The meanings -/

def execMigrationPiece (s : State) : Out := event "MIGRATION_PIECE" migrationPiece s
def execMigrationComplete (s : State) : Out := event "MIGRATION_COMPLETE" migrationComplete s
def execShootdownInvalidateArrival (s : State) : Out := event "SHOOTDOWN_INVALIDATE_ARRIVAL" shootArrival s
def execShootdownAck (s : State) : Out := event "SHOOTDOWN_ACK" shootAck s
def execShootdownTimeout (s : State) : Out := event "SHOOTDOWN_TIMEOUT" shootTimeout s
def execShootdownComplete (s : State) : Out := event "SHOOTDOWN_COMPLETE" shootComplete s
def execRouterOutputArbitration (s : State) : Out := event "ROUTER_OUTPUT_ARBITRATION" routerCycle s
def execRankReportArrival (s : State) : Out := event "RANK_REPORT_ARRIVAL" rankReport s
def execTilicLaneSpare (s : State) : Out := event "TILIC_LANE_SPARE" laneSpare s
def execTilicFlitResend (s : State) : Out := event "TILIC_FLIT_RESEND" flitResend s
def execTilicPortFailure (s : State) : Out := event "TILIC_PORT_FAILURE" portFailure s
def execHostLinkRetrain (s : State) : Out := event "HOST_LINK_RETRAIN" hostRetrain s

/-- The next event of migrations, shoot-downs and routers that needs nothing from outside. -/
def networkNext (s : State) : Option (Instr × EvArgs) :=
  let first := fun (i : Instr) (f : EvArgs → State → Option State) (as : List EvArgs) =>
    (as.find? (fun a => (f a s).isSome)).map (fun a => (i, a))
  let dies := fun (sd : Shootdown) => (s.shootPart sd).elim [] (·.dies)
  (first .shootdownInvalidateArrival shootArrival (s.shoots.flatMap (fun d => (dies d).map (fun k => { a := d.id, b := k })))).or
    (first .shootdownAck shootAck (s.shoots.flatMap (fun d => (dies d).reverse.map (fun k => { a := d.id, c := k })))) |>.or
    (first .shootdownComplete shootComplete (s.shoots.map (fun d => { a := d.id }))) |>.or
    (first .shootdownTimeout shootTimeout (s.shoots.map (fun d => { a := d.id }))) |>.or
    (s.migs.head?.map (fun m => if m.size ≤ m.piece * 4096 then (Instr.migrationComplete, ({ a := m.id } : EvArgs))
      else (Instr.migrationPiece, { a := m.id }))) |>.or
    (first .routerOutputArbitration routerCycle (s.toCross ++ (s.routers.map (fun r => { a := r.die, b := r.bit }))
      ++ (s.routers.filter (fun r => r.queues.any (!·.isEmpty))).map (fun r => { a := r.die, b := r.bit, data := List.replicate 6 1 })))

end Sys2Proof.Machine
end

