-- ==== Sys2Proof/Machine/HostPort.lean ====
section
/-!
DEFINITION. Machine/HostPort.lean: semaphores (R379, R380), commands (R382 to R384), port resets (R386), start-up (R387 to R389),
attestation (R391, R392), and writes to the registers that have no row of their own (R8, R381, R385).
-/

namespace Sys2Proof.Machine

/-! ## Semaphores (R379, R380) -/

/-- A host port that has linked. -/
def State.linked (s : State) (port : Nat) : Bool := (s.ports[port]?).any (·.linked)

/-- The holder of a semaphore: 0 none, 1 H0, 2 H1. -/
def State.holder (s : State) (i : Nat) : Nat := Tbl.get 0 s.sems i

/-- SEMAPHORE_READ: port `a` reads semaphore `b`; `c` is 1 for a narrower, wider or unaligned read, which acts on none.
Log entries 58 (DESIGN CHOICE), 71 (DEDUCED). -/
def semRead (a : EvArgs) (s : State) : Option State :=
  if !s.linked a.a || 64 ≤ a.b then none
  else
    let ret := fun (s : State) (v : Nat) => { s with lastRead := Tbl.put s.lastRead a.a v }
    if a.c = 1 then some (ret s (2 ^ 64 - 1))
    else if s.holder a.b = 0 then some (ret { s with sems := Tbl.set 0 s.sems a.b (a.a + 1) } 0)
    else some (ret s (1 + 2 * s.holder a.b))

/-- SEMAPHORE_WRITE: port `a` writes semaphore `b`.
Log entry 58 (DESIGN CHOICE). -/
def semWrite (a : EvArgs) (s : State) : Option State :=
  if !s.linked a.a || 64 ≤ a.b then none
  else if s.holder a.b = a.a + 1 then some { s with sems := Tbl.set 0 s.sems a.b 0 }
  else some { s with semErr := s.semErr + 1 }

/-- The port holds semaphore 0, which guards configuration.
Log entry 58 (DESIGN CHOICE). -/
def State.mayConfigure (s : State) (port : Nat) : Bool := s.holder 0 == port + 1

/-! ## Commands (R382, R383) -/

/-- What a command does when it is accepted: its error and result, and the state. -/
structure CmdOut where
  err : Nat
  result : Nat
  s : State
  sd : Option Nat := none

/-- A command that fails. -/
def CmdOut.fail (s : State) (e : Nat) : CmdOut := ⟨e, 0, s, none⟩

/-- A command that ends well. -/
def CmdOut.done (s : State) (r : Nat := 0) : CmdOut := ⟨0, r, s, none⟩

/-- ARG `i`. -/
def State.argOf (s : State) (i : Nat) : Nat := (Tbl.get 0 s.args i).toNat

/-- A CMD write of `code` from port `a.a`: discarded and counted without semaphore 0 or while a command runs; else accepted.
Log entry 57 (DEDUCED). -/
def command (code : Nat) (f : Nat → State → CmdOut) (a : EvArgs) (s : State) : Option State :=
  if !s.linked a.a then none
  else if !s.mayConfigure a.a || s.cmd.isSome then some { s with cfgErr := s.cfgErr + 1 }
  else
    let s := { s with cstSer := (s.cstSer + 1) % 2 ^ 16 }
    let r := if s.stt != 1 then CmdOut.fail s 3 else f a.a s
    some { r.s with cmd := some ⟨a.a, code, s.argOf 0, r.err, r.result, r.sd⟩ }

/-- PCREATE. -/
def cmdPcreate (_port : Nat) (s : State) : CmdOut :=
  let m := s.argOf 0
  let dies := (List.range 4).filter (bit m)
  if !(([1, 2, 4, 8, 3, 12, 5, 10, 15] : List Nat).contains m) || dies.any (fun d => s.coreMap.length ≤ d) then .fail s 2
  else if s.parts.any (fun p => p.dies.any dies.contains) then .fail s 3
  else
    match (List.range 4).find? (fun n => (s.part? n).isNone) with
    | none => .fail s 4
    | some n => .done { s with parts := s.parts ++ [⟨n, dies, 50, 0⟩] } n

/-- PDESTROY. -/
def cmdPdestroy (_port : Nat) (s : State) : CmdOut :=
  let n := s.argOf 0
  if (s.part? n).isNone then .fail s 2
  else if s.ctxs.any (fun x => x.key / 8 == n) then .fail s 3
  else .done { s with parts := s.parts.filter (·.num != n), launches := s.launches.filter (·.part != n) }

/-- A context as CCREATE makes it.
Log entry 4 (DESIGN CHOICE). -/
def Ctx.new (key : Nat) (priv : Bool) : Ctx where
  key := key
  priv := priv
  mode := 0
  hand := 0
  save := 0
  stopa := 0
  pool := 0
  root := 0
  standing := []
  pools := []
  span := []
  halt := none
  ticket := 0
  colled := []
  mrg := []
  saved := false
  savedHalted := false
  evicted := []

/-- CCREATE; %msgstale counts from the context's creation (R355). -/
def cmdCcreate (_port : Nat) (s : State) : CmdOut :=
  let n := s.argOf 0
  if (s.part? n).isNone then .fail s 2
  else
    match (List.range 8).find? (fun k => (s.ctx? (8 * n + k)).isNone) with
    | none => .fail s 4
    | some k => .done { s with
        ctxs := s.ctxs ++ [Ctx.new (8 * n + k) (bit (s.argOf 1) 0)]
        msgs := s.msgs.map (fun (m : MsgState) => if m.ctx == 8 * n + k then { m with stale := 0 } else m) } (8 * n + k)

/-- A command of a context: an unknown one is ERR 2. -/
def onCtx (f : Nat → State → Ctx → CmdOut) (port : Nat) (s : State) : CmdOut :=
  match s.ctx? (s.argOf 0) with
  | none => .fail s 2
  | some x => f port s x

/-- CEND: the halt of cause 44 unless the context is halted; the end follows when every agent has stopped. -/
def cmdCend : Nat → State → CmdOut := onCtx fun _ s x =>
  let die := ((s.part? (x.key / 8)).map (fun p => p.dies.getD 0 0)).getD 0
  .done (s.raiseHalt x.key die 0 0 0 0 0 { cause := 44, src := 10 })

/-- CSET. -/
def cmdCset : Nat → State → CmdOut := onCtx fun _ s x =>
  let n := s.argOf 1
  if n < 129 || 133 < n || settingBad n (s.argOf 2) then .fail s 2
  else .done (s.modCtx x.key (fun x => x.setting n (s.argOf 2)))

/-- CROOT. -/
def cmdCroot : Nat → State → CmdOut := onCtx fun _ s x =>
  if s.argOf 1 % 2 ^ 18 != 0 then .fail s 2 else .done (s.modCtx x.key (fun x => { x with root := s.argOf 1 }))

/-- CSTAND.
Log entry 57 (DEDUCED). -/
def cmdCstand : Nat → State → CmdOut := onCtx fun _ s x =>
  let l := Lease.ofEntry (s.argOf 2)
  if 15 < s.argOf 1 || 2 ^ 40 < l.base + l.size then .fail s 2
  else
    .done (s.modCtx x.key (fun x => { x with
      standing := if l.size = 0 then Tbl.del x.standing (s.argOf 1) else Tbl.put x.standing (s.argOf 1) l }))

/-- CPOOL: frames that a migration holds stay with it.
Log entry 57 (DEDUCED). -/
def cmdCpool : Nat → State → CmdOut := onCtx fun _ s x =>
  let d := s.argOf 1
  let base := s.argOf 2
  let n := ((s.part? (x.key / 8)).map (fun p => p.dies.length)).getD 0
  if n ≤ d || base % 2 ^ 17 != 0 then .fail s 2
  else
    let held := (s.migs.filter (fun m => m.ctx == x.key && m.die == d)).flatMap (fun m =>
      (List.range (m.size / 2 ^ 17)).filterMap (fun i =>
        if base ≤ m.frame + i * 2 ^ 17 then some ((m.frame + i * 2 ^ 17 - base) / 2 ^ 17) else none))
    .done (s.modCtx x.key (fun x => { x with pools := Tbl.put x.pools d ⟨base, s.argOf 3, held⟩ }))

/-- CSPAN: the list is read through the issuing port; `b` of the event says that the host does not let it be read.
Log entry 47 (DEDUCED). -/
def cmdCspan : Nat → State → CmdOut := onCtx fun port s x =>
  let n := s.argOf 2
  if n = 0 || 8192 < n || s.ev.b = 1 then .fail s 2
  else
    let bs := s.hostBytes port (s.argOf 1) (2 * n)
    .done (s.modCtx x.key (fun x => { x with span := (List.range n).map (fun i => recAt bs (2 * i) 2) }))

/-- WBIND. -/
def cmdWbind (_port : Nat) (s : State) : CmdOut :=
  let p := s.argOf 0
  let c := s.argOf 1
  if s.ports.length ≤ p || (c != 0xFF && (s.ctx? c).isNone) then .fail s 2
  else
    .done { s with ports := s.ports.mapIdx (fun i q => if i = p then { q with bound := if c = 0xFF then none else some c } else q) }

/-- SDTIME. -/
def cmdSdtime (_port : Nat) (s : State) : CmdOut :=
  let t := s.argOf 1
  if (s.part? (s.argOf 0)).isNone || t = 0 || 65535 < t then .fail s 2
  else .done (s.modPart (s.argOf 0) (fun p => { p with timeout := t }))

/-- SHOOT (R334); a range of no bytes is complete at once. -/
def cmdShoot : Nat → State → CmdOut := onCtx fun _ s x =>
  if s.argOf 2 = 0 then .done s
  else
    let (id, s) := s.startShoot x.key x.key s.rank s.rank (s.argOf 1) (s.argOf 2) true
    ⟨0, 0, s, some id⟩

/-- CSAVE: a context that is saved cannot be saved again.
Log entry 55 (DEDUCED). -/
def cmdCsave : Nat → State → CmdOut := onCtx fun _ s x =>
  if x.saved then .fail s 2
  else .done { s with colls := updateWhere (fun (c : Coll) => c.ctx == x.key) (fun c => { c with parked := false }) s.colls }

/-- CREST (R319). -/
def cmdCrest : Nat → State → CmdOut := onCtx fun _ s x =>
  match s.part? (x.key / 8) with
  | none => .fail s 2
  | some p =>
    match s.restoreCtx x p (bit (s.argOf 1) 0) with
    | .error (e, s) => .fail s e
    | .ok s => .done s

/-- A number in `n` bytes, the highest first (RFC 8554). -/
def beBytes (n v : Nat) : List Byte := (leBytes n v).reverse

/-- The public key of the identity: the type codes of its parameter set, then I and T[1], which are not given.
Log entries 13 (DEDUCED), 81 (PRESUMED). -/
def identityKey : List Byte := beBytes 4 7 ++ beBytes 4 4 ++ (List.range 48).map (fun i => Config.freeByte 0 (104 + i))

/-- A signature with leaf index `q`: the index, the one-time signature with its type code, the type code of the tree, the path.
Log entries 13 (DEDUCED), 81 (PRESUMED). -/
def lmsSignature (k q : Nat) : List Byte :=
  let from' := fun (lo n : Nat) => (List.range n).map (fun i => Config.freeByte k (lo + i))
  beBytes 4 q ++ beBytes 4 4 ++ from' 40 1120 ++ beBytes 4 7 ++ from' 1164 480

/-- SHA-256 of the start record: one value for one record. -/
def startHash (rs : List StartRec) : List Byte :=
  (List.range 32).map (Config.startHash (rs.flatMap (fun r => [if r.ok then 1 else 0, r.alt, r.fails])))

/-- ATTEST (R391, R392): hashes, key and signature bytes that the spec does not give are free bytes; the leaf index is used up first.
Log entries 13 (DEDUCED), 57 (DEDUCED). -/
def cmdAttest (port : Nat) (s : State) : CmdOut :=
  if s.otsRem = 0 then .fail s 5
  else if s.argOf 0 != 16384 then .fail s 2
  else
    let s := { s with otsRem := s.otsRem - 1 }
    let k := 1 + s.otsRem
    let from' := fun (k lo n : Nat) => (List.range n).map (fun i => Config.freeByte k (lo + i))
    let nonce := fun (p : Port) => (List.range 32).map (fun i => Tbl.get 0 p.nonce i)
    let report := fun (p : Port) =>
      nonce p ++ from' 0 0 96 ++ startHash s.startRec ++ identityKey ++ lmsSignature k (2 ^ 15 - 1 - s.otsRem)
    .done ({ s with ports := s.ports.mapIdx (fun i (q : Port) => if i = port then { q with report := report q } else q) }.postEvent 5 0 0 0 0)

/-- RANK (R384): the ports announce the rank, and then a port whose far end bears it is quarantined.
Log entry 62 (DEDUCED). -/
def cmdRank (_port : Nat) (s : State) : CmdOut :=
  let r := s.argOf 0
  let n := s.argOf 1
  if n ≤ r || 8192 < n then .fail s 2
  else if !s.ctxs.isEmpty then .fail s 3
  else
    let same := fun (t : TPort) => t.up && t.far == some r
    let hit := (List.range s.tports.length).filter (fun i => (s.tports[i]?).any same)
    let s := { s with rank := r, domain := n, ranked := true }
    let s := s.upPorts.foldl (fun s i => s.tilicAt i (.rankReport r)) s
    let s := { s with tports := s.tports.map (fun (t : TPort) => if same t then { t with quarantined := true } else t) }
    .done (hit.foldl (fun s i => s.postEvent 2 0 (i / 6) r 0) s)

/-- LINKMAP (R384): byte d of ARG2 is the port of die d, or 0xFF.
Log entry 62 (DEDUCED). -/
def cmdLinkmap (_port : Nat) (s : State) : CmdOut :=
  let lo := s.argOf 0
  let n := s.argOf 1
  let dies := List.range s.coreMap.length
  let port := fun d => fld (s.argOf 2) (8 * d) 8
  let bad := fun (p : Nat) => p != 0xFF && !(s.tports[p]?).any (fun t => t.up && !t.quarantined)
  if dies.any (fun d => bad (port d)) || s.domain < lo + n || (lo ≤ s.rank && s.rank < lo + n) then .fail s 2
  else
    .done { s with
      routes := dies.foldl (fun t d => (List.range n).foldl (fun t i =>
        Tbl.set 0 t (8192 * d + lo + i) (if port d = 0xFF then 0 else port d + 1)) t) s.routes }

/-- UNKNOWN_COMMAND: a CMD write of a code that Table 3 does not hold, code `b`.
Log entry 57 (DEDUCED). -/
def unknownCmd (a : EvArgs) (s : State) : Option State :=
  if 1 ≤ a.b && a.b ≤ 17 then none else command a.b (fun _ s => .fail s 1) a s

/-- COMMAND_COMPLETION: the running command ends and BUSY falls; SHOOT waits for its shoot-down, CSAVE for the context to be at rest,
CEND for its agents to stop.
Log entries 55 (DEDUCED), 57 (DEDUCED). -/
def cmdComplete (_a : EvArgs) (s : State) : Option State :=
  match s.cmd with
  | none => none
  | some c =>
    let fin := fun (s : State) (err res : Nat) => { s with cmd := none, cstErr := err, cstRes := BitVec.ofNat 32 res }
    if c.err != 0 then some (fin s c.err 0)
    else
      match c.code, c.sd with
      | 12, some id =>
        match s.shoots.find? (·.id == id) with
        | none => some (fin s 0 0)
        | some d =>
          if !d.done then none
          else some (fin { s with shoots := s.shoots.filter (·.id != id) } 0 (if d.halted then 2 else if d.fenced then 1 else 0))
      | 13, _ =>
        match s.ctx? c.arg, s.part? (c.arg / 8) with
        | some x, some p =>
          if !s.saveReady x p then none
          else
            let (t, written) := s.writeResume x.key
            if (t.ctx? x.key).any (fun y => y.halt != x.halt) then some t
            else if !written then (if t.migs.length = s.migs.length then none else some t)
            else
              match t.saveCtx x p with
              | some t => some (fin t 0 0)
              | none => some (fin s 2 0)
        | _, _ => some (fin s 2 0)
      | 4, _ =>
        match s.ctx? c.arg, s.part? (c.arg / 8) with
        | some x, some p => if x.halt.any (fun h => h.over p) then some (fin (s.freeCtx x.key) 0 0) else none
        | _, _ => some (fin s 2 0)
      | _, _ => some (fin s 0 c.result)

/-! ## Port resets (R386) -/

/-- PORT_RESET: port `a` is reset, or with `b` 1 its link goes down.
Log entry 58 (DESIGN CHOICE). -/
def portReset (a : EvArgs) (s : State) : Option State :=
  if !s.linked a.a then none
  else
    some { s with
      sems := s.sems.filter (fun (e : Nat × Nat) => e.2 != a.a + 1)
      ports := s.ports.mapIdx (fun i (q : Port) =>
        if i = a.a then { q with rptr := q.wptr, events := [], bound := none, linked := q.linked && a.b != 1 } else q) }

/-! ## Start-up (R387 to R389) -/

/-- The record of a start step. -/
def State.startOf (s : State) (n : Nat) : StartRec := s.startRec.getD (n - 1) ⟨false, 0, 0⟩

def State.setStart (s : State) (n : Nat) (r : StartRec) : State := { s with startRec := s.startRec.set (n - 1) r }

/-- The step succeeds: it keeps its alternative.
Log entry 59 (DEDUCED). -/
def State.stepPass (s : State) (n : Nat) : State := { s.setStart n ⟨true, (s.startOf n).alt, 0⟩ with step := n }

/-- The step fails: with an alternative left the device restarts, its host links down until step 2 has run again, else it stops in hard
fault.
Log entry 59 (DEDUCED). -/
def State.stepFail (s : State) (n alt : Nat) (left : Bool) : State :=
  let r : StartRec := ⟨false, if left then alt else (s.startOf n).alt, (s.startOf n).fails + 1⟩
  let s := (s.setStart n r).postEvent 3 0 0 n 0
  if left then { s with step := 0, sems := [], ports := s.ports.map (fun (q : Port) => { q with linked := false }) }
  else { s with step := n, stt := 2 }

/-- Step 2: `out` 0 both ports that may link have linked, 1 none has, 2 only port `port` has.
Log entry 59 (DEDUCED). -/
def State.linkStep (s : State) (out port : Nat) : State :=
  if out = 2 then ({ s with downPorts := [1 - port] }).stepFail 2 1 true
  else if out = 1 then
    let rate := (s.ports.headD ⟨false, 16, 128, none, 0, 0, 0, [], [], [], 0⟩).rate
    if rate ≤ 16 then s.stepFail 2 3 false
    else
      ({ s with downPorts := [], ports := s.ports.map (fun (q : Port) => { q with rate := rate / 2 }) }).stepFail 2
        (if rate = 128 then 1 else if rate = 64 then 2 else 3) true
  else
    { s with ports := s.ports.mapIdx (fun i (q : Port) => { q with linked := !s.downPorts.contains i }) }.stepPass 2

/-- The header types that R390 numbers the images by, of the slots that a start step verifies: 0 the start firmware and 1 the firmware
of the management controller at step 1, 2 the winch firmware at step 7.
Log entry 59 (DEDUCED). -/
def stepImages (n : Nat) : List Nat := if n = 1 then [0, 1] else if n = 7 then [2] else []

/-- The firmware images that a start step verifies are accepted (R390): `d` 0 says that every signature verifies against the root key;
`pairs` holds, slot by slot, the header type and the security version of the images, which have the type of their slot and a version
not below the fuse counter of that type.
Log entry 59 (DEDUCED). -/
def State.accepted (s : State) (n : Nat) (a : EvArgs) : Bool :=
  a.d = 0 && a.pairs.map Prod.fst == stepImages n && a.pairs.all (fun e => s.fuseVer.getD e.1 0 ≤ e.2)

/-- At the start's DRAM step a bank with more than 16 failed rows is replaced by the spare bank of its channel group, while that is
left (R397, R398). -/
def State.replaceBanks (s : State) : State :=
  s.badBanks.foldl (fun s b =>
    let slice := b / 2 ^ 16
    if s.bankSpares.contains slice then s
    else
      let other := fun (sl k : Nat) => !(sl == slice && k == b % 2 ^ 16)
      { s with
        bankSpares := s.bankSpares ++ [slice]
        badBanks := s.badBanks.filter (· != b)
        rowSpares := Tbl.del s.rowSpares b
        rowTab := s.rowTab.filter (fun e => other e.slice e.bank)
        remapped := s.remapped.filter (fun e => other e.slice e.bank) }) s

/-- The core places that a run of start step 5 names: each by die and, within it, 8 × physical position + number, of an enabled
cluster.
Log entry 59 (DEDUCED). -/
def State.failing (s : State) (pairs : List (Nat × Nat)) : List Nat :=
  (pairs.filter (fun e => e.2 < 80 && (s.coreMap.getD e.1 []).contains (e.2 / 8))).map (fun e => 80 * e.1 + e.2)

/-- Start step 5 brings in the spare core of each cluster in which a core has failed its test or reached the threshold; a second one of
a cluster, the spare among them, disables it, and the others close up (R4, R397).
Log entry 59 (DEDUCED). -/
def State.substitute (s : State) (pairs : List (Nat × Nat)) : State :=
  let failed := s.failedCores ++ (s.marked.map s.physCore ++ s.failing pairs).eraseDups
  { s with
    failedCores := failed
    marked := []
    coreMap := s.coreMap.mapIdx (fun d ps => ps.filter (fun c => (failed.filter (fun p => p / 8 == 10 * d + c)).length < 2)) }

/-- Power returns: everything stands as at reset but what the package keeps in its fuses and on-package flash (the start record with
the alternatives in use, the marked and failed cores, the leaf indices), its spares that have been brought in, and the world outside it.
Log entry 59 (DEDUCED). -/
def State.repower (s : State) : State :=
  let t := if s.single then State.resetSingle else State.reset
  { t with
    cur := s.cur, ev := s.ev, agenda := s.agenda, free := s.free, nextId := s.nextId
    hostMem := s.hostMem, peerMem := s.peerMem, peerPages := s.peerPages
    coreMap := s.coreMap, marked := s.marked, failedCores := s.failedCores
    rootHash := s.rootHash, idHash := s.idHash, fuseVer := s.fuseVer, otsRem := s.otsRem
    startRec := s.startRec, downPorts := s.downPorts
    ports := t.ports.mapIdx (fun i (q : Port) => { q with rate := (s.ports[i]?.map (·.rate)).getD q.rate })
    winches := s.winches.map (fun (w : Winch) => { w with since := 0 }), spares := s.spares
    tports := t.tports.mapIdx (fun i (q : TPort) => { q with spareLaneUsed := s.tports[i]?.any (·.spareLaneUsed) })
    rowSpares := s.rowSpares, remapped := s.remapped, badBanks := s.badBanks, bankSpares := s.bankSpares }

/-- POWER_ON_START: with `e` 1 power is applied anew, whatever the state, and the next start begins; else the next start step runs:
`a` 0 it succeeds, 1 it fails, 2 (step 2) one port links, port `b`. `pairs` gives, at step 5, the cores that fail their test (die, 8 ×
position + number), and at step 8 the Tilic ports that train (port, 0); at steps 1 and 7, what `accepted` says. At a failure of step 7,
`b` is 1 + the port whose winch failed.
Log entry 59 (DEDUCED). -/
def powerOn (a : EvArgs) (s : State) : Option State :=
  let n := s.step + 1
  let a := if (n = 1 || n = 7) && !s.accepted n a then { a with a := 1 } else a
  if a.e = 1 then some s.repower
  else if s.stt != 0 || 9 < n then none
  else if n = 2 then (if 2 < a.a || 1 < a.b || (a.a = 2 && !s.downPorts.isEmpty) then none else some (s.linkStep a.a a.b))
  else if n = 9 then (if a.a = 0 then some { s.stepPass 9 with stt := 1 } else none)
  else if a.a = 0 then
    let s := s.stepPass n
    some (
      if n = 5 then s.substitute a.pairs
      else if n = 4 then s.replaceBanks
      else if n = 8 then { s with tports := s.tports.mapIdx (fun i (t : TPort) => { t with up := a.pairs.any (fun e => e.1 == i) }) }
      else s)
  else if n = 3 then some (s.stepFail 3 0 false)
  else
    let r := s.startOf n
    let s' := s.stepFail n (r.alt + 1) (r.alt < 3)
    some (
      if n = 7 && a.b != 0 && s.spares != 0 && r.alt < 3 then
        { s' with
          spares := s.spares - 1
          winches := updateWhere (·.port == a.b - 1) (fun (w : Winch) => { w with failed := true, spare := some s.spares }) s.winches }
      else if n = 5 then { s' with failedCores := s.failedCores ++ (s.failing a.pairs).eraseDups }
      else s')

/-! ## Registers without a row of their own (R8, R381, R385) -/

/-- A number with some of its bytes, from byte `off` on, replaced. -/
def putBytes (v width off : Nat) (bs : List Byte) : Nat := leNat (overlay (leBytes width v) 0 bs off)

/-- The part of a write at `off` that falls on the register of `width` bytes at `reg`: its offset within the register, and its bytes. -/
def partOn (reg width off : Nat) (bs : List Byte) : Option (Nat × List Byte) :=
  let lo := max reg off
  let hi := min (reg + width) (off + bs.length)
  if hi ≤ lo then none else some (lo - reg, (bs.drop (lo - off)).take (hi - lo))

/-- Write one register if the write touches it. -/
def onReg (reg width off : Nat) (bs : List Byte) (f : (Nat → Nat) → State → State) (s : State) : State :=
  match partOn reg width off bs with
  | none => s
  | some (o, part) => f (fun v => putBytes v width o part) s

/-- W1C: the ones written clear bits. -/
def w1c (old : Word) (put : Nat → Nat) : Word := old &&& ~~~(BitVec.ofNat 32 (put 0))

/-- A write to the register window. -/
def State.regWrite (s : State) (off : Nat) (bs : List Byte) : State :=
  let s := (List.range 6).foldl (fun s i => onReg (0x108 + 8 * i) 8 off bs (fun put s =>
    { s with args := Tbl.set 0 s.args i (BitVec.ofNat 64 (put (Tbl.get 0 s.args i).toNat)) }) s) s
  let s := onReg 0x200 4 off bs (fun put s => { s with semErr := w1c s.semErr put }) s
  let s := onReg 0x208 4 off bs (fun put s => { s with cfgErr := w1c s.cfgErr put }) s
  onReg 0x210 4 off bs (fun put s => { s with slotErr := w1c s.slotErr put }) s

/-- A write to a port's mailbox window: RPTR, LOST and the nonce. -/
def State.mailWrite (s : State) (port off : Nat) (bs : List Byte) : State :=
  let on := fun (f : Port → Port) (s : State) => { s with ports := s.ports.mapIdx (fun i q => if i = port then f q else q) }
  let s := onReg 4104 8 off bs (fun put s => on (fun q => { q with rptr := put q.rptr }) s) s
  let s := onReg 4112 4 off bs (fun put s => on (fun q => { q with lost := w1c q.lost put }) s) s
  match partOn 16384 32 off bs with
  | none => s
  | some (o, part) => on (fun q => { q with nonce := writeBytes q.nonce o part }) s

/-- REGISTER_WRITE: port `a` writes `data` at offset `c` of BAR `b`: the register window is BAR 0, the mailbox lies in BAR 4. A
register that is read-only, and an offset that holds none, ignore it. -/
def registerWrite (a : EvArgs) (s : State) : Option State :=
  if !s.linked a.a || a.data.isEmpty then none
  else if a.b = 0 then some (s.regWrite a.c a.data)
  else if a.b = 4 then some (s.mailWrite a.a a.c a.data)
  else none

/-! ## Reads (R294, R381, R385) -/

/-- The doubleword at an offset of the register window, as a port reads it.
Log entry 71 (DEDUCED). -/
def State.regRead (s : State) (port off : Nat) : Nat :=
  match off with
  | 0x0000 => 0x4B39 + (if s.single then 2 ^ 16 else 0)
  | 0x0008 => port
  | 0x0010 => (if s.stt = 0 && s.step != 0 then min 9 (s.step + 1) else s.step) + s.stt * 2 ^ 8
  | 0x0140 => (if s.cmd.isSome then 1 else 0) + s.cstErr * 2 ^ 8 + s.cstRes.toNat * 2 ^ 16 + s.cstSer * 2 ^ 48
  | 0x0200 => s.semErr.toNat
  | 0x0208 => s.cfgErr.toNat
  | 0x0210 => s.slotErr.toNat
  | 0x0218 => s.otsRem
  | _ => if 0x108 ≤ off && off ≤ 0x130 && off % 8 = 0 then s.argOf ((off - 0x108) / 8) else 0

/-- The bytes of the mailbox window at an offset.
Log entry 71 (DEDUCED). -/
def Port.mailRead (p : Port) (off n : Nat) : List Byte :=
  let byte := fun (o : Nat) =>
    if 4096 ≤ o && o < 4104 then BitVec.ofNat 8 (p.wptr / 2 ^ (8 * (o - 4096)))
    else if 4104 ≤ o && o < 4112 then BitVec.ofNat 8 (p.rptr / 2 ^ (8 * (o - 4104)))
    else if 4112 ≤ o && o < 4116 then BitVec.ofNat 8 (p.lost.toNat / 2 ^ (8 * (o - 4112)))
    else if 8192 ≤ o && o < 16384 then ((Tbl.find? p.events ((o - 8192) / 64)).getD []).getD (o % 64) 0
    else if 16384 ≤ o && o < 16416 then Tbl.get 0 p.nonce (o - 16384)
    else if 16416 ≤ o then p.report.getD (o - 16416) 0
    else 0
  (List.range n).map (fun i => byte (off + i))

/-- The bytes of a launch slot as a port reads them: committed or free, the last sequence number or all ones, zeros.
Log entry 71 (DEDUCED). -/
def State.slotRead (s : State) (port i : Nat) : List Byte :=
  let x := (s.slot? port i).getD (LSlot.new port i)
  leBytes 8 (if x.committed then 1 else 0) ++ leBytes 8 (x.seq.getD (2 ^ 64 - 1)) ++ List.replicate 112 0

/-! ## The meanings -/

def execSemaphoreRead (s : State) : Out := event "SEMAPHORE_READ" semRead s
def execSemaphoreWrite (s : State) : Out := event "SEMAPHORE_WRITE" semWrite s
def execPcreate (s : State) : Out := event "PCREATE" (command 1 cmdPcreate) s
def execPdestroy (s : State) : Out := event "PDESTROY" (command 2 cmdPdestroy) s
def execCcreate (s : State) : Out := event "CCREATE" (command 3 cmdCcreate) s
def execCend (s : State) : Out := event "CEND" (command 4 cmdCend) s
def execCset (s : State) : Out := event "CSET" (command 5 cmdCset) s
def execCroot (s : State) : Out := event "CROOT" (command 6 cmdCroot) s
def execCstand (s : State) : Out := event "CSTAND" (command 7 cmdCstand) s
def execCpool (s : State) : Out := event "CPOOL" (command 8 cmdCpool) s
def execCspan (s : State) : Out := event "CSPAN" (command 9 cmdCspan) s
def execWbind (s : State) : Out := event "WBIND" (command 10 cmdWbind) s
def execSdtime (s : State) : Out := event "SDTIME" (command 11 cmdSdtime) s
def execShoot (s : State) : Out := event "SHOOT" (command 12 cmdShoot) s
def execCsave (s : State) : Out := event "CSAVE" (command 13 cmdCsave) s
def execCrest (s : State) : Out := event "CREST" (command 14 cmdCrest) s
def execAttest (s : State) : Out := event "ATTEST" (command 15 cmdAttest) s
def execRank (s : State) : Out := event "RANK" (command 16 cmdRank) s
def execLinkmap (s : State) : Out := event "LINKMAP" (command 17 cmdLinkmap) s
def execUnknownCommand (s : State) : Out := event "UNKNOWN_COMMAND" unknownCmd s
def execCommandCompletion (s : State) : Out := event "COMMAND_COMPLETION" cmdComplete s
def execPortReset (s : State) : Out := event "PORT_RESET" portReset s
def execPowerOnStart (s : State) : Out := event "POWER_ON_START" powerOn s
def execRegisterWrite (s : State) : Out := event "REGISTER_WRITE" registerWrite s

/-- A start step that succeeds: firmware images with the types and versions that the fuses ask for.
Log entry 59 (DEDUCED). -/
def State.startArgs (s : State) : EvArgs := { pairs := (stepImages (s.step + 1)).map (fun t => (t, s.fuseVer.getD t 0)) }

/-- The next event of the management controller: a start step, or the end of a command.
Log entry 59 (DEDUCED). -/
def hostNext (s : State) : Option (Instr × EvArgs) :=
  if (powerOn s.startArgs s).isSome then some (.powerOnStart, s.startArgs)
  else if (cmdComplete {} s).isSome then some (.commandCompletion, {})
  else none

end Sys2Proof.Machine
end

