-- ==== Sys2Proof/Machine/Fleet.lean ====
section
/-!
DEFINITION. Machine/Fleet.lean: MODE, the envelopes and the temperatures (R393 to R396), row sparing (R398), counters and
thresholds (R399, R400), telemetry (R401).
-/

namespace Sys2Proof.Machine

/-! ## Modes (R393 to R395) -/

/-- The fleet page answers a port that has linked, but not in hard fault (R389). -/
def State.fleetPage (s : State) (port : Nat) : Bool := s.linked port && s.stt != 2

/-- MODE reads new envelopes once they are in force on every die (R393).
Log entry 60 (DEDUCED). -/
def State.showEnv (s : State) : State :=
  if s.envAct.all (· == s.envTarget) then { s with envSeen := (s.env, s.envTarget) } else s

/-- MODE_WRITE: port `a` writes `b` to MODE. Without semaphore 0, or with a reserved code or bit, the write is discarded.
Log entry 60 (DEDUCED). -/
def modeWrite (a : EvArgs) (s : State) : Option State :=
  if !s.fleetPage a.a then none
  else
    let v := a.b
    if !s.mayConfigure a.a || fld v 0 2 = 3 || fld v 2 2 = 3 || fld v 5 3 != 0 || fld v 10 54 != 0 then some s
    else
      some { s with
        env := fld v 0 2
        retPol := fld v 2 2
        refr := bit v 4 || s.hot.any (·.2)
        envTarget := fld v 0 2 }.showEnv

/-- MODE as it reads.
Log entry 60 (DEDUCED). -/
def State.modeRead (s : State) : Nat :=
  s.envSeen.1 + s.retPol * 2 ^ 2 + (if s.refr then 2 ^ 4 else 0) + s.envSeen.2 * 2 ^ 8

/-- ENVELOPE_SWITCH: die `a` switches its clocks to the envelope in force.
Log entry 60 (DEDUCED). -/
def envSwitch (a : EvArgs) (s : State) : Option State :=
  match s.envAct[a.a]? with
  | none => none
  | some e => if e = s.envTarget then none else some { s with envAct := s.envAct.set a.a s.envTarget }.showEnv

/-- A thermal step: counter 7 counts it, and its event is posted under the counter's limit (R395, R400).
Log entry 60 (DEDUCED). -/
def State.thermal (s : State) (die : Nat) : State := s.bump die 7 0

/-- JUNCTION_OVERTEMP: a junction of die `a` is above 105 °C.
Log entry 60 (DEDUCED). -/
def junctionHot (a : EvArgs) (s : State) : Option State :=
  if s.coreMap.length ≤ a.a then none else some ({ s with envTarget := s.envTarget - 1 }.showEnv.thermal a.a)

/-- DRAM_OVERTEMP: a DRAM layer of die `a` is above 85 °C, or with `b` 1 none is any more.
Log entry 60 (DEDUCED). -/
def dramHot (a : EvArgs) (s : State) : Option State :=
  if s.coreMap.length ≤ a.a then none
  else if a.b = 1 then
    if Tbl.get false s.hot a.a then some { s with hot := Tbl.set false s.hot a.a false } else none
  else if Tbl.get false s.hot a.a then none
  else
    let s' := { s with hot := Tbl.set false s.hot a.a true, refr := true }
    some (if s.refr then s' else s'.thermal a.a)

/-! ## Thresholds and counters (R399, R400) -/

/-- THRESHOLD_WRITE: port `a` writes `c` to the threshold `b`, 0 to 7, or to ROWLIM, 8. -/
def thresholdWrite (a : EvArgs) (s : State) : Option State :=
  if !s.fleetPage a.a || 8 < a.b then none
  else if !s.mayConfigure a.a then some s
  else if a.b = 8 then some { s with rowLim := fld a.c 0 8 }
  else some { s with thr := s.thr.set a.b (fld a.c 0 32) }

/-- COUNTER_CLEAR: port `a` writes `d` to counter `c` of die `b`, clearing the bits that are ones. -/
def counterClear (a : EvArgs) (s : State) : Option State :=
  if !s.fleetPage a.a || s.coreMap.length ≤ a.b || 8 ≤ a.c then none
  else some { s with cnt := Tbl.set 0 s.cnt (8 * a.b + a.c) (w1c (BitVec.ofNat 32 (s.counter a.b a.c)) (fun _ => fld a.d 0 32)).toNat }

/-! ## Corrected errors and row sparing (R75, R398) -/

/-- The row-error table after an error in a row: its entry leads; a new one takes the place of its slice's least recently updated when
the slice has 256.
Log entries 14 (DESIGN CHOICE), 63 (DEDUCED). -/
def rowHit (t : List RowEnt) (slice bank row : Nat) : List RowEnt :=
  let mine := fun (e : RowEnt) => e.slice == slice && e.bank == bank && e.row == row
  let n := ((t.find? mine).map (·.count)).getD 0
  let rest := t.filter (fun e => !mine e)
  let inSlice := rest.filter (·.slice == slice)
  let rest := if inSlice.length < 256 then rest else
    match inSlice.getLast? with
    | some old => rest.filter (fun e => !(e.slice == old.slice && e.bank == old.bank && e.row == old.row))
    | none => rest
  ⟨slice, bank, row, n + 1⟩ :: rest

/-- CORRECTED_ERROR: `a` 0, in an array of core `b`; `a` 1, in DRAM at physical address `b`, which lies in slice `c` of the package,
row `d`, bank `e`. A row whose count has reached ROWLIM is spared, one served by a spare row again where a new entry's count reaches it;
one of a bank with no spare row left makes the bank one to replace.
Log entry 63 (DEDUCED). -/
def softError (a : EvArgs) (s : State) : Option State :=
  if a.a = 0 then
    if 8 * s.clusters ≤ a.b then none else some (s.bump (s.dieOf a.b) 2 0 (some a.b))
  else if a.a != 1 || 32 * s.coreMap.length ≤ a.c then none
  else
    let die := a.c / 32
    let s := (s.bump die 0 a.b)
    let s := { s with rowTab := rowHit s.rowTab a.c a.e a.d }
    let n := ((s.rowTab.head?).map (·.count)).getD 0
    let bank := 2 ^ 16 * a.c + a.e
    let used := Tbl.get 0 s.rowSpares bank
    let mine := fun (r : RowCopy) => r.slice == a.c && r.bank == a.e && r.row == a.d
    if s.rowLim = 0 || n < s.rowLim || s.rowCopies.any mine || s.remapped.any mine && n != s.rowLim then some s
    else if used < 16 then
      some { s with
        rowCopies := s.rowCopies ++ [⟨a.c, a.e, a.d, a.b⟩]
        rowSpares := Tbl.set 0 s.rowSpares bank (used + 1) }
    else
      let s := { s with
        badBanks := s.badBanks.filter (· != bank) ++ [bank]
        remapped := s.remapped.filter (fun r => !mine r) }
      some (if n % s.rowLim = 0 && s.rowLim < n then s.postEvent 4 0 die 3 a.b else s)

/-- ROW_SPARE_REMAP: the copy of row `b` in bank `c` of slice `a` has ended; ROWSP counts it, with the row's physical address.
Log entry 14 (DESIGN CHOICE). -/
def rowRemap (a : EvArgs) (s : State) : Option State :=
  match s.rowCopies.find? (fun r => r.slice == a.a && r.bank == a.c && r.row == a.b) with
  | none => none
  | some r =>
    let other := fun (e : RowCopy) => !(e.slice == r.slice && e.bank == r.bank && e.row == r.row)
    let t := { s with rowCopies := s.rowCopies.filter (· != r), remapped := s.remapped.filter other ++ [r] }
    some (t.bump (a.a / 32) 3 r.pa)

/-! ## Telemetry (R401) -/

/-- TELEMETRY_REFRESH: die `a` shows TJ `b`, TDRAM `c`, POWER `d`, and as CLKMHZ the clock of the envelope it is in.
Log entry 60 (DEDUCED). -/
def telemetry (a : EvArgs) (s : State) : Option State :=
  if s.coreMap.length ≤ a.a then none
  else some { s with tel := Tbl.put s.tel a.a [fld a.b 0 16, fld a.c 0 16, fld a.d 0 32, clkMhz (s.envAct.getD a.a 2)] }

/-- The 32-bit words of the fleet page (R393, R399, R401), by offset from 0x8000.
Log entry 71 (DEDUCED). -/
def State.fleetRead (s : State) (off : Nat) : Nat :=
  if off = 0 then s.modeRead
  else if 0x40 ≤ off && off < 0x60 then s.thr.getD ((off - 0x40) / 4) 0
  else if off = 0x60 then s.rowLim
  else if 0x100 ≤ off && off < 0x200 && (off - 0x100) % 0x40 < 0x20 then s.counter ((off - 0x100) / 0x40) ((off - 0x100) % 0x40 / 4)
  else if 0x200 ≤ off && off < 0x240 then
    let d := (off - 0x200) / 0x10
    let t := (Tbl.find? s.tel d).getD [0, 0, 0, 1200]
    match (off - 0x200) % 0x10 / 4 with
    | 0 => t.getD 0 0 + t.getD 1 0 * 2 ^ 16
    | 1 => t.getD 2 0
    | 2 => t.getD 3 0
    | _ => 0
  else 0

/-! ## The meanings -/

def execModeWrite (s : State) : Out := event "MODE_WRITE" modeWrite s
def execEnvelopeSwitch (s : State) : Out := event "ENVELOPE_SWITCH" envSwitch s
def execJunctionOvertemp (s : State) : Out := event "JUNCTION_OVERTEMP" junctionHot s
def execDramOvertemp (s : State) : Out := event "DRAM_OVERTEMP" dramHot s
def execThresholdWrite (s : State) : Out := event "THRESHOLD_WRITE" thresholdWrite s
def execCounterClear (s : State) : Out := event "COUNTER_CLEAR" counterClear s
def execCorrectedError (s : State) : Out := event "CORRECTED_ERROR" softError s
def execRowSpareRemap (s : State) : Out := event "ROW_SPARE_REMAP" rowRemap s
def execTelemetryRefresh (s : State) : Out := event "TELEMETRY_REFRESH" telemetry s

/-- The next event of the fleet's controllers that needs nothing from outside. -/
def fleetNext (s : State) : Option (Instr × EvArgs) :=
  ((List.range s.envAct.length).find? (fun d => (envSwitch { a := d } s).isSome)).map (fun d => (Instr.envelopeSwitch, ({ a := d } : EvArgs)))
    |>.or (s.rowCopies.head?.map (fun r => (Instr.rowSpareRemap, ({ a := r.slice, b := r.row, c := r.bank } : EvArgs))))

end Sys2Proof.Machine
end

