-- ==== Sys2Proof/Machine/Fetch.lean ====
section
/-!
DEFINITION. Machine/Fetch.lean: fetching and decoding an instruction word (R136, R143, R326), for warps and sequencers.
-/

namespace Sys2Proof.Machine

/-- Why a word cannot be fetched: its page is absent under soft leases only, or a context fault. -/
inductive FetchErr
  | absent
  | halt (h : CFault)
  deriving DecidableEq, Repr

/-- Fetch the word at an address, past every cache of data.
Log entries 30 (DEDUCED), 77 (DEDUCED). -/
def State.fetchWord (s : State) (w : Who) (pc : DWord) : Except FetchErr (State × DWord) :=
  match s.chunks w .fetch false none pc.toNat 8 with
  | .error (d, va) => if d == .absent then .error .absent else .error (.halt { cause := d.code, va := va })
  | .ok cs =>
    match s.checkReads cs with
    | .error h => .error (.halt h)
    | .ok s =>
      let (s, bs) := cs.foldl (fun (acc : State × List Byte) c =>
        let (t, b, _) := acc.1.engChunk w c
        (t.keep w c, acc.2 ++ b)) (s, [])
      .ok (s, BitVec.ofNat 64 (leNat bs))

end Sys2Proof.Machine
end

