-- ==== Sys2Proof/Machine/Sequencer.lean ====
section
/-!
DEFINITION. Machine/Sequencer.lean: engine programs on the sequencers (R213 to R215): SEQUENCER_WORD.
-/

namespace Sys2Proof.Machine

/-- How one word of an engine program ends. -/
inductive SeqRes
  /-- Performed: the program goes to an address. -/
  | to' (s : State) (pc : DWord)
  /-- The word is done, and the program's record is set or dropped already. -/
  | set (s : State)
  /-- It cannot be performed yet. -/
  | hold
  /-- The engine-program cause (R214). -/
  | fault
  /-- Another context fault. -/
  | halt (h : CFault)

def State.setSeq (s : State) (id : Nat) (f : Seqr → Seqr) : State := { s with seqrs := updateWhere (·.id == id) f s.seqrs }

/-- The warp that forked a program, if it is in a slot: the one that has the program to join (R213, R216). -/
def State.seqWarp (s : State) (q : Seqr) : Option Warp :=
  (s.warps.map (·.2)).find? (fun w => w.forks.contains q.id)

/-- The forking warp leaves its slot or has left it, so its tiles and banks are not there to be named.
Log entry 50 (DEDUCED). -/
def State.seqAway (s : State) (q : Seqr) : Bool :=
  (s.seqWarp q).any (·.evicting.isSome) || s.evicted.any (fun e => e.w.forks.contains q.id)

/-- The bindings of a program that its warp still holds; a warp that has exited holds none (R201, R261). -/
def State.seqHandles (s : State) (q : Seqr) : Tbl Handle :=
  match s.seqWarp q with
  | none => []
  | some w => q.handles.filter (fun (p : Nat × Handle) => (w.handle? p.1).any (fun h => h.banks == p.2.banks))

/-- What a word of the program is executed under: a warp that holds the snapshot and the captured configuration. -/
def State.seqEnv (s : State) (q : Seqr) (x : EngCtx) (word : DWord) : Env :=
  let w := Warp.start x.g 0 q.lmask q.pc q.sregs
  { c := ⟨q.core, q.by'.slot, q.pc, q.lmask, word, x.x.mode, none⟩, w := { w with shape := q.shape, handles := s.seqHandles q }, wg := x.g,
    l := x.l, x := x.x }

/-- The issuer of a program's command, which takes the mode of its own word (R309). -/
def Seqr.issuer (q : Seqr) (e : Env) (opc : Nat) : Issuer :=
  { q.by' with pc := q.pc, opc := opc, prog := some q.id, mode := e.c.mode }

/-- A refusal of a word's own rule: what would trap a warp stops the program. -/
def Stop.seq : Stop → SeqRes
  | .trap _ => .fault
  | .halt h => .halt h

/-- A reel command of the program. -/
def State.seqReel (s : State) (q : Seqr) (e : Env) (opc : Nat) (code : QCode) (cap : Env → State → Except Stop ReelCap) : SeqRes :=
  if 8 ≤ code.toNat then .fault
  else
    match cap e s with
    | .error st => st.seq
    | .ok c =>
      if 16 ≤ s.reelDepth q.core c.q then .hold
      else
        let (id, s) := (c.pre s).enterReel (q.issuer e opc) q.core c.q c.op c.cuts
        .to' (s.setSeq q.id (fun q => { q with cmds := q.cmds ++ [id] })) (q.pc + 8)

/-- A matrix command of the program; it waits while the forking warp is away.
Log entry 50 (DEDUCED). -/
def State.seqMat (s : State) (q : Seqr) (e : Env) (opc : Nat) (mq : Bool) (cap : MatCapture) : SeqRes :=
  if s.seqAway q then .hold
  else match cap e s with
  | .error st => st.seq
  | .ok op =>
    let k := if mq then 1 else 0
    if 16 ≤ s.matDepth q.core k then .hold
    else
      let (id, s) := s.enterMat (q.issuer e opc) q.core k q.shape op (e.matCuts s q.shape op)
      .to' (s.setSeq q.id (fun q => { q with cmds := q.cmds ++ [id] })) (q.pc + 8)

/-- BARV of a program: one arrival once every command it issued has completed.
Log entry 28 (DEDUCED). -/
def State.seqBarv (s : State) (q : Seqr) (e : Env) (o : OpBarv) : SeqRes :=
  match o.d, o.cnt with
  | none, some i =>
    match e.uses (useBar o.b (some i)), e.count (some i) with
    | none, .ok n =>
      if !q.cmds.isEmpty then .hold
      else
        let live := s.liveOf e.wg.id
        .to' (s.modBar e.wg.id o.b.toNat (fun b => b.arriveEngine n live (!s.wgEvicted e.wg.id))) (q.pc + 8)
    | _, _ => .fault
  | _, _ => .fault

/-- BWAIT of a program: it stops until the phase has completed, and acquires at .cl. -/
def State.seqBwait (s : State) (q : Seqr) (e : Env) (o : OpBwait) : SeqRes :=
  match o.ph with
  | .v _ => .fault
  | .s i =>
    match e.uses [.b o.b.toNat, useS i 1 27] with
    | some st => st.seq
    | none =>
      let p := e.w.s i.toNat
      match q.bwait with
      | none => .set (s.setSeq q.id (fun q => { q with bwait := some (o.b.toNat, p) }))
      | some _ =>
        if (e.wg.bar o.b.toNat).passed p then
          .to' ((s.setSeq q.id (fun q => { q with bwait := none })).l1Flush q.core) (q.pc + 8)
        else .hold

/-- The scalars of LOOP's B and C: both or neither, even and declared.
Log entry 40 (DEDUCED). -/
def loopPairs (e : Env) (o : OpLoop) : Option (Option (Nat × Nat)) :=
  match o.b, o.c with
  | none, none => some none
  | some b, some c => if (e.uses [useS b 2 27, useS c 2 19]).isNone then some (some (b.toNat, c.toNat)) else none
  | _, _ => none

/-- LOOP (R215).
Log entry 40 (DEDUCED). -/
def State.seqLoop (s : State) (q : Seqr) (x : EngCtx) (e : Env) (o : OpLoop) : SeqRes :=
  match e.uses [useS o.a 1 35], loopPairs e o with
  | none, some bc =>
    let stop := q.pc + BitVec.ofNat 64 (8 * (o.len.toNat + 1))
    match s.fetchWord x.who stop with
    | .error .absent => .fault
    | .error (.halt h) => .halt h
    | .ok (s, w) =>
      match decode w with
      | .ok (.endl _) =>
        let n := (e.w.s o.a.toNat).toNat
        if n = 0 then .to' s (stop + 8)
        else if 4 ≤ q.loops.length then .fault
        else .to' (s.setSeq q.id (fun q => { q with loops := (q.pc + 8, n, bc.map (·.1), bc.map (·.2)) :: q.loops })) (q.pc + 8)
      | _ => .fault
  | _, _ => .fault

/-- ENDL (R215).
Log entry 40 (DEDUCED). -/
def State.seqEndl (s : State) (q : Seqr) (e : Env) : SeqRes :=
  match q.loops with
  | [] => .fault
  | (start, n, b, c) :: rest =>
    let sregs := match b, c with
      | some b, some c => (e.w.setS64 b (e.w.s64 b + e.w.s64 c)).sregs
      | _, _ => q.sregs
    let set := fun (l : List (DWord × Nat × Option Nat × Option Nat)) => s.setSeq q.id (fun q => { q with sregs := sregs, loops := l })
    if n ≤ 1 then .to' (set rest) (q.pc + 8) else .to' (set ((start, n - 1, b, c) :: rest)) start

/-- The guard of a word that an engine program may hold; none for any other word. -/
def seqGuard : Instr → Option Guard
  | .cpbox o | .cpstb o => some o.g
  | .cpboxImm o | .cpstbImm o => some o.g
  | .cpidx o => some o.g
  | .cpss o => some o.g
  | .cpssImm o => some o.g
  | .cpfill o => some o.g
  | .cpfillImm o => some o.g
  | .qfence o => some o.g
  | .tld o | .tst o | .wbld o => some o.g
  | .mma o => some o.g
  | .scacc o => some o.g
  | .accz o => some o.g
  | .barv o => some o.g
  | .bwait o => some o.g
  | .bexpect o => some o.g
  | .nop o | .endl o | .endp o => some o.g
  | .loop o => some o.g
  | _ => none

/-- What a word does in a program of the reel (`mat` false) or of the matrix engine. -/
def State.seqDo (s : State) (q : Seqr) (x : EngCtx) (e : Env) (i : Instr) : SeqRes :=
  match i, q.mat with
  | .cpbox o, false => s.seqReel q e 0xA0 o.q (capBox o false)
  | .cpboxImm o, false => s.seqReel q e 0xA0 o.q (capWhole o false)
  | .cpstb o, false => s.seqReel q e 0xA1 o.q (capBox o true)
  | .cpstbImm o, false => s.seqReel q e 0xA1 o.q (capWhole o true)
  | .cpidx o, false =>
    match o.b with
    | .s _ => s.seqReel q e 0xA2 o.q (capIdx o)
    | .v _ => .fault
  | .cpss o, false => s.seqReel q e 0xA3 o.q (capSs o)
  | .cpssImm o, false => s.seqReel q e 0xA3 o.q (capSsS o)
  | .cpfill o, false => s.seqReel q e 0xA4 o.q (capFill o.q o.a [useS o.b 1 27] (fun e => e.w.s o.b.toNat) o.fe)
  | .cpfillImm o, false => s.seqReel q e 0xA4 o.q (capFill o.q o.a [] (fun _ => o.imm.signExtend 32) o.fe)
  | .qfence o, false => if o.qm = 0 then .fault else .to' (s.fenceQ q.core o.qm.toNat) (q.pc + 8)
  | .tld o, true => s.seqMat q e 0xC1 o.mq (capTile o false)
  | .tst o, true => s.seqMat q e 0xC2 o.mq (capTile o true)
  | .wbld o, true => s.seqMat q e 0xC3 o.mq (capWbld o)
  | .mma o, true => s.seqMat q e 0xC4 o.mq (capMma o)
  | .scacc o, true => s.seqMat q e 0xC5 o.mq (capScacc o)
  | .accz o, true => s.seqMat q e 0xC8 o.mq (capAccz o)
  | .barv o, _ => s.seqBarv q e o
  | .bwait o, _ => s.seqBwait q e o
  | .bexpect o, _ =>
    match e.uses [.b o.b.toNat, useS o.n 1 27] with
    | some st => st.seq
    | none => .to' (s.modBar e.wg.id o.b.toNat (fun b => b.addBal (e.w.s o.n.toNat) (!s.wgEvicted e.wg.id))) (q.pc + 8)
  | .nop _, _ => .to' s (q.pc + 8)
  | .loop o, _ => s.seqLoop q x e o
  | .endl _, _ => s.seqEndl q e
  | .endp _, _ => .set { s with seqrs := s.seqrs.filter (·.id != q.id) }
  | _, _ => .fault

/-- The next word of a program. -/
def State.seqNextWord (s : State) (q : Seqr) (x : EngCtx) : SeqRes :=
  if q.pc.toNat % 8 != 0 then .fault
  else
    match s.fetchWord x.who q.pc with
    | .error .absent => .fault
    | .error (.halt h) => .halt h
    | .ok (s, w) =>
      match decode w with
      | .error _ => .fault
      | .ok i =>
        match seqGuard i with
        | some ⟨pg, pn⟩ => if pg = 7 && !pn then s.seqDo q x (s.seqEnv q x w) i else .fault
        | none => .fault

/-- SEQUENCER_WORD. -/
def seqWord (a : EvArgs) (s : State) : Option State :=
  match s.seqrs.find? (fun q => q.core == a.a && q.mat == (a.b != 0)) with
  | none => none
  | some q =>
    match s.engCtx q.by' with
    | none => none
    | some x =>
      if !s.engLive q.by' then none
      else
        let i := { q.by' with pc := q.pc }
        match s.seqNextWord q x with
        | .hold => none
        | .to' t pc => some (t.setSeq q.id (fun q => { q with pc := pc }))
        | .set t => some t
        | .fault => some (s.engHalt i 9 { cause := 41, lmask := 0 })
        | .halt h => some (s.engHalt i 9 { h with lmask := 0 })

def execSequencerWord (s : State) : Out := event "SEQUENCER_WORD" seqWord s

/-- The next word of the sequencers, if one can be performed. -/
def seqNext (s : State) : Option (Instr × EvArgs) :=
  s.seqrs.findSome? (fun q =>
    let ev : EvArgs := { a := q.core, b := if q.mat then 1 else 0 }
    if (seqWord ev s).isSome then some (.sequencerWord, ev) else none)

end Sys2Proof.Machine
end

