-- ==== Sys2Proof/Machine/Pipeline.lean ====
section
/-!
DEFINITION. Machine/Pipeline.lean: selection, dispatch, issue, resolution and retirement (R19 to R28, R195), and one step of the
machine: the entry in execution, the event asked for, the next event that is due, or the next word of a warp.
-/

namespace Sys2Proof.Machine

/-! ## The choice of a group (R26) and of a warp (R27) -/

/-- An issue group: its address, lanes and wait. -/
structure Group where
  pc : DWord
  mask : LaneMask
  wait : Nat
  deriving DecidableEq, Repr

/-- The ready groups of a warp in ascending address. -/
def Warp.groups (w : Warp) : List Group :=
  let rs := w.ready
  let add := fun (gs : List Group) (p : Nat × DWord) =>
    if gs.any (·.pc == p.2) then gs
    else
      let ls := (rs.filter (·.2 == p.2)).map (·.1)
      gs ++ [⟨p.2, maskOf ls, ls.foldl (fun n l => max n (Tbl.get 0 w.opp l)) 0⟩]
  sortBy (fun a b => a.pc.toNat ≤ b.pc.toNat) (rs.foldl add [])

/-- The group that a warp chooses.
Log entry 21 (DEDUCED). -/
def Warp.chooseGroup (w : Warp) : Option Group :=
  let gs := w.groups
  let due := gs.filter (fun g => 16 - gs.length ≤ g.wait)
  match due with
  | [] => gs.head?
  | g :: rest => some (rest.foldl (fun a b => if a.wait < b.wait then b else a) g)

/-- The partition of a slot (R21). -/
def partOf (core slot : Nat) : Nat := 4 * core + slot % 4

/-- The warps of a partition, by slot. -/
def State.partWarps (s : State) (part : Nat) : List (Nat × Warp) :=
  (List.range 8).filterMap (fun k => (s.warp? (part / 4) (part % 4 + 4 * k)).map (fun w => (part % 4 + 4 * k, w)))

/-- The entries of a warp go on: no halt of its context has reached its die, and its group can receive.
Log entry 52 (DEDUCED). -/
def State.running (s : State) (core : Nat) (w : Warp) : Bool :=
  match s.warpCtx w with
  | none => false
  | some key => !s.haltedOn key (s.dieOf core) && s.msgReady key (clusterOf core)

/-- A warp dispatches: it does not leave its slot, and its context is not being saved (R305, R316). -/
def State.dispatches (s : State) (core : Nat) (w : Warp) : Bool :=
  w.evicting.isNone && s.running core w && !(s.warpCtx w).any s.saving

/-- The ready warps of a partition (R22). -/
def State.readyWarps (s : State) (part : Nat) : List (Nat × Warp) :=
  let ws := s.partWarps part
  let inFlight := (ws.map (fun e => e.2.rob.length)).foldl (· + ·) 0
  ws.filter (fun e => e.2.rob.length < 64 && inFlight < 256 && s.dispatches (part / 4) e.2 && !e.2.ready.isEmpty)

/-- The warp that has waited longest, of equal waits the lowest slot, which R27 states for its steps 1 and 3 and leaves open for step 4.
Log entry 82 (DESIGN CHOICE). -/
def longest : List (Nat × Warp) → Option (Nat × Warp)
  | [] => none
  | e :: rest => some (rest.foldl (fun a b => if a.2.selWait < b.2.selWait then b else a) e)

/-- The warps of feeding launches, if there are any among some; else all of them (R301). -/
def feedFirst (ws : List (Nat × Warp)) : List (Nat × Warp) := if ws.any (·.2.feeding) then ws.filter (·.2.feeding) else ws

/-- The warp that a partition selects. Steps 2 to 4 prefer a warp of a feeding launch (R301).
Log entries 21 (DEDUCED), 82 (DESIGN CHOICE). -/
def State.chooseWarp (s : State) (part : Nat) : Option (Nat × Warp) :=
  let ws := s.readyWarps part
  let calm := feedFirst (ws.filter (fun e => e.2.demoted.isNone))
  (longest (ws.filter (fun e => 24 ≤ e.2.selWait))).or
    (calm.find? (fun e => e.1 + 1 == Tbl.get 0 s.lastSel part)) |>.or (longest calm) |>.or (longest (feedFirst ws))

/-- What is dispatched: the core, the slot and the group. -/
structure Pick where
  core : Nat
  slot : Nat
  pc : DWord
  mask : LaneMask
  deriving DecidableEq, Repr

/-- The choice of a partition. -/
def State.pickIn (s : State) (part : Nat) : Option Pick :=
  match s.chooseWarp part with
  | none => none
  | some (slot, w) => w.chooseGroup.map (fun g => ⟨part / 4, slot, g.pc, g.mask⟩)

/-- Count an opportunity of a warp: the threads that dispatch start again, the other ready threads have waited once more.
Log entry 21 (DEDUCED). -/
def Warp.countOpp (w : Warp) (mask : LaneMask) : Warp :=
  { w with opp := w.ready.foldl (fun t p =>
      if mask.getLsbD p.1 then Tbl.del t p.1 else Tbl.put t p.1 (Tbl.get 0 w.opp p.1 + 1)) w.opp, selWait := 0 }

/-- Count a cycle of a partition in which it makes a choice.
Log entry 21 (DEDUCED). -/
def State.count (s : State) (p : Pick) : State :=
  let part := partOf p.core p.slot
  let ready := s.readyWarps part
  let s := (s.partWarps part).foldl (fun s e =>
    if e.1 = p.slot then s.setWarp p.core e.1 (e.2.countOpp p.mask)
    else if ready.any (·.1 == e.1) then s.setWarp p.core e.1 { e.2 with selWait := e.2.selWait + 1 }
    else s.setWarp p.core e.1 { e.2 with selWait := 0 }) s
  { s with lastSel := Tbl.put s.lastSel part (p.slot + 1), rrPart := part + 1 }

/-- %ctxmode as a word of a warp is dispatched under it (R309). -/
def State.modeOf (s : State) (core slot : Nat) : Word :=
  (((s.warp? core slot).bind s.warpCtx).bind s.ctx?).elim 0 (·.mode)

/-! ## Fetching a word (R136, R143) -/

/-- What a fetch gives: a word, or the fault held with its entry. -/
inductive Fetched
  | word (s : State) (w : DWord)
  | ends (st : Stop)
  deriving Repr

/-- Fetch for a group. An address that is no multiple of 8 is REASON 8; an absent page of a soft lease is the page-absent
trap.
Log entry 30 (DEDUCED). -/
def Env.fetch (e : Env) (s : State) : Fetched :=
  if e.c.pc.toNat % 8 != 0 then .ends (.trap (illegalWord e.c.mask 8 0xFF))
  else
    match s.fetchWord (e.who s (lowest e.c.mask)) e.c.pc with
    | .error .absent => .ends (.trap ⟨10, e.c.mask, 0, allTo e.c.mask e.c.pc⟩)
    | .error (.halt h) => .ends (.halt { h with lmask := e.c.mask })
    | .ok (s, w) => .word s w

/-! ## The events of the pipeline -/

/-- The targets of a control transfer that resolves when it is dispatched: a BRA or CALL whose guard is always true.
Log entry 22 (DEDUCED). -/
def targetsNow (i : Instr) (pc : DWord) (mask : LaneMask) : Option (Tbl DWord) :=
  let go := fun (g : Guard) (offw : BitVec 32) =>
    if g.pg = 7 && !g.pn then some (allTo mask (pc + BitVec.ofInt 64 (8 * offw.toInt))) else none
  match i with
  | .bra o => go o.g o.offw
  | .call o => go o.g o.offw
  | .pairBraBr own _ => go (slotGuard own) (slotBr own).offw
  | _ => none

/-- A choice as the entry to fetch, with the mode that its word is dispatched under (R309). -/
def State.picked (s : State) (p : Pick) : Cur := ⟨p.core, p.slot, p.pc, p.mask, 0, s.modeOf p.core p.slot, none⟩

/-- Dispatch a group's word into the reorder buffer; the fault of a fetch is held with its entry.
Log entry 22 (DEDUCED). -/
def State.dispatch (s : State) (p : Pick) : Option State :=
  let c := s.picked p
  let t := { s.count p with cur := some c }
  match t.env? with
  | none => none
  | some e =>
    let add := fun (u : State) (r : RobEntry) =>
      some { u.modWarp p.core p.slot (fun v => { v with rob := v.rob ++ [r] }) with cur := none }
    match e.fetch t with
    | .ends st => add t ⟨p.pc, 0, p.mask, false, none, c.mode, some st⟩
    | .word u w =>
      let next := match decode w with
        | .ok i => targetsNow i p.pc p.mask
        | .error _ => none
      add u ⟨p.pc, w, p.mask, false, next, c.mode, none⟩

/-- WARP_SELECTION: partition `b` of core `a` selects a warp and dispatches one word.
Log entry 22 (DEDUCED). -/
def warpSelection (a : EvArgs) (s : State) : Option State := (s.pickIn (4 * a.a + a.b % 4)).bind s.dispatch

/-- Change one entry of a list. -/
def modAt {α : Type} (f : α → α) : List α → Nat → List α
  | [], _ => []
  | x :: t, 0 => f x :: t
  | x :: t, n + 1 => x :: modAt f t n

/-- What must hold of the `c` older entries of a warp before an entry issues: SRD of %clk or of a bridle counter issues after
they have issued (R163); MOVRI after they have their results, which they have when they retire (R162).
Log entry 22 (DEDUCED). -/
def issueOrder (rob : List RobEntry) (c : Nat) (r : RobEntry) : Bool :=
  match decode r.word with
  | .ok (.movri _) => c = 0
  | .ok (.srd o) => !([9, 21, 22, 23].contains o.x.toNat) || (rob.take c).all (·.issued)
  | _ => true

/-- ENTRY_ISSUE: entry `c`, from the oldest, of the warp of core `a` in slot `b` issues and accesses its registers (R74).
Log entry 22 (DEDUCED). -/
def entryIssue (a : EvArgs) (s : State) : Option State :=
  match s.warp? a.a a.b with
  | none => none
  | some w =>
    match w.rob[a.c]? with
    | some r =>
      if r.issued || !issueOrder w.rob a.c r || !s.running a.a w then none
      else some ((s.setWarp a.a a.b { w with rob := modAt (fun r => { r with issued := true }) w.rob a.c }).touchVec a.a a.b)
    | none => none

/-- The branch of a control transfer. -/
def transferOp : Instr → Option Op
  | .bra o => some (opBra o)
  | .brx o => some (opBrx o)
  | .call o => some (opCall o)
  | .ret o => some (opRet o)
  | .pairBraBr own _ => some (opBra (slotBr own))
  | _ => none

/-- CONTROL_TRANSFER_RESOLVE: the oldest entry of the warp of core `a` in slot `b` resolves: its guard and sources are those
of the warp, since every older entry has retired. A lane that takes no target goes to the next word; a fault that is found
now is held with the entry (R198). An entry whose load must wait does not resolve yet.
Log entry 22 (DEDUCED). -/
def transferResolve (a : EvArgs) (s : State) : Option State :=
  match s.warp? a.a a.b with
  | none => none
  | some w =>
    match w.rob with
    | [] => none
    | r :: rest =>
      if !r.issued || r.next.isSome || r.fault.isSome || !s.running a.a w then none
      else
        match decode r.word with
        | .error _ => none
        | .ok i =>
          match transferOp i, ({ s with cur := some (r.cur a.a a.b) } : State).env? with
          | some op, some e =>
            let found : Option (Tbl DWord × Option Stop) := match op e s with
              | .jump _ t => some (t, none)
              | .trap t => some ([], some (.trap t))
              | .halt h => some ([], some (.halt h))
              | _ => none
            found.map (fun (tgt, fault) =>
            let next := (lanesOf r.mask).map (fun l => (l, (Tbl.find? tgt l).getD (r.pc + 8)))
            s.setWarp a.a a.b { w with rob := { r with next := some next, fault := fault } :: rest })
          | _, _ => none

/-- RETIREMENT: the oldest entry of the warp of core `a` in slot `b` becomes the entry in execution, whose effects the
same word's meaning performs next.
Log entries 22 (DEDUCED), 23 (DESIGN CHOICE). -/
def retirement (a : EvArgs) (s : State) : Option State :=
  match s.warp? a.a a.b with
  | none => none
  | some w =>
    match w.rob with
    | r :: _ => if r.issued && s.running a.a w then some { s with cur := some (r.cur a.a a.b) } else none
    | [] => none

/-- PAUSE_DEMOTION_EXPIRY: the demotion of the warp of core `a` in slot `b` ends. -/
def pauseExpiry (a : EvArgs) (s : State) : Option State :=
  match s.warp? a.a a.b with
  | none => none
  | some w => if w.demoted.any (· ≤ s.clk) then some (s.setWarp a.a a.b { w with demoted := none }) else none

/-! ## The meanings -/

def execWarpSelection (s : State) : Out := event "WARP_SELECTION" warpSelection s
def execEntryIssue (s : State) : Out := event "ENTRY_ISSUE" entryIssue s
def execControlTransferResolve (s : State) : Out := event "CONTROL_TRANSFER_RESOLVE" transferResolve s
def execRetirement (s : State) : Out := event "RETIREMENT" retirement s
def execPauseDemotionExpiry (s : State) : Out := event "PAUSE_DEMOTION_EXPIRY" pauseExpiry s

/-! ## The schedule of the model -/

/-- The meaning of every row. -/
abbrev Exec := Instr → State → Out

/-- Execute the entry in execution: the fault held with it, or the word, of which one that is no instruction takes the
illegal-instruction trap.
Log entries 18 (DEDUCED), 23 (DESIGN CHOICE). -/
def runCur (ex : Exec) (c : Cur) (s : State) : Out :=
  match c.fault with
  | some st => performOp (fun _ _ => st.res) s
  | none =>
    match decode c.word with
    | .error r => performOp (opIllegal r.reason r.fbit) s
    | .ok i => ex i s

/-- The warps with entries in flight. -/
def State.inFlight (s : State) : List (Nat × Warp) := s.warps.filter (fun (e : Nat × Warp) => !e.2.rob.isEmpty)

/-- The place of an entry's retirement among the events of its convoy in one cycle (R87): position advances, then leaves and ends
of association, then all others; joins come last, after the hold expiries. -/
def RobEntry.convoyRank (r : RobEntry) : Nat :=
  match decode r.word with
  | .ok (.cvld _) => 0
  | .ok (.cvleave _) | .ok (.exit _) | .ok (.pairExitZ _ _) => 1
  | .ok (.cvjoin _) => 3
  | _ => 2

/-- The place of the retirement of a warp's oldest entry among the events of one cycle; none if the entry would stay at the head and
its warp as it is. A word that ends in a trap or a context fault sheds, whatever it is.
Log entry 65 (DEDUCED). -/
def headRank (ex : Exec) (s : State) (core slot : Nat) (w : Warp) : Option Nat :=
  match w.rob with
  | [] => none
  | r :: _ =>
    let c := r.cur core slot
    match runCur ex c { s with cur := some c } with
    | .next t =>
      let halts := t.ctxs.map (·.halt) != s.ctxs.map (·.halt)
      let v := t.warp? core slot
      if v == some w && !halts then none
      else if halts || v.any (·.inHandler) && !w.inHandler then some 2 else some r.convoyRank
    | _ => none

/-- The warps with entries in flight whose oldest entry could retire, with its place, in the order of R87.
Log entry 65 (DEDUCED). -/
def State.retiring (ex : Exec) (s : State) : List (Nat × Nat × Warp) :=
  sortBy (fun a b => a.1 ≤ b.1) (s.inFlight.filterMap (fun e => (headRank ex s (e.1 / 32) (e.1 % 32) e.2).map (fun k => (k, e))))

/-- The next event of the pipelines: an end of a demotion, an issue, a retirement, the save of a warp that leaves, a hold expiry, a
retirement that joins a convoy (R87).
Log entry 65 (DEDUCED). -/
def pipeNext (ex : Exec) (s : State) : Option (Instr × EvArgs) :=
  let at' := fun (e : Nat × Warp) => ({ a := e.1 / 32, b := e.1 % 32 } : EvArgs)
  let first := fun (i : Instr) (f : EvArgs → State → Option State) (ws : List (Nat × Warp)) =>
    (ws.find? (fun e => (f (at' e) s).isSome)).map (fun e => (i, at' e))
  let ret := s.retiring ex
  (first .pauseDemotionExpiry pauseExpiry (s.warps.filter (fun (e : Nat × Warp) => e.2.demoted.isSome))).or
    (first .entryIssue entryIssue s.inFlight) |>.or
    (first .retirement retirement ((ret.filter (·.1 != 3)).map (·.2))) |>.or
    (first .evictedWarpSave warpSave (s.warps.filter (fun (e : Nat × Warp) => e.2.evicting.isSome))) |>.or
    (holdNext s) |>.or
    (first .retirement retirement ((ret.filter (·.1 == 3)).map (·.2)))

/-- The next event that is due, halts before all others.
Log entry 6 (DESIGN CHOICE). -/
def State.autoEvent (ex : Exec) (s : State) : Option (Instr × EvArgs) :=
  (haltNext s).or (hostNext s) |>.or (networkNext s) |>.or (trafficNext s) |>.or (collNext s) |>.or (msgNext s)
    |>.or (ampNext s) |>.or (cruNext s) |>.or (matNext s) |>.or (reelNext s) |>.or (seqNext s) |>.or (fleetNext s)
    |>.or (pipeNext ex s) |>.or (launchNext s)

/-- The partitions that hold warps, each once, the one to serve next first.
Log entry 21 (DEDUCED). -/
def State.order (s : State) : List Nat :=
  let ks := sortBy (· ≤ ·) ((s.warps.map (fun (e : Nat × Warp) => partOf (e.1 / 32) (e.1 % 32))).eraseDups)
  ks.filter (s.rrPart ≤ ·) ++ ks.filter (· < s.rrPart)

/-- The group that dispatches next: the choice of the first partition in turn that has one.
Log entry 6 (DESIGN CHOICE). -/
def State.selectNext (s : State) : Option Pick := s.order.findSome? s.pickIn

/-- The warp of a choice has no entry in flight. -/
def State.idle (s : State) (p : Pick) : Bool := (s.warp? p.core p.slot).any (·.rob.isEmpty)

/-- Dispatch a group's word; with no older entry in flight, carry it through to its retirement.
Log entries 6 (DESIGN CHOICE), 22 (DEDUCED). -/
def dispatchRun (ex : Exec) (p : Pick) (s : State) : Out :=
  let c := s.picked p
  let t := { s.count p with cur := some c }
  if !s.idle p then .next ((s.dispatch p).getD { t with cur := none })
  else match t.env? with
  | none => .next { t with cur := none }
  | some e =>
    match e.fetch t with
    | .ends st => .next (e.finish t st.res)
    | .word u w => runCur ex { c with word := w } { u.touchVec p.core p.slot with cur := some { c with word := w } }

/-- What happens before every step: a cycle passes, and the waits that have ended end.
Log entry 7 (DESIGN CHOICE). -/
def State.tick (s : State) : State := s.wakeAll.passTime

/-- One step: the entry in execution; else the event asked for; else the next event due; else the next word of a warp;
else the cycle passes.
Log entry 6 (DESIGN CHOICE). -/
def stepWith (ex : Exec) (s : State) : Out :=
  let s := s.tick
  match s.cur with
  | some c => runCur ex c s
  | none =>
    match s.agenda with
    | (i, a) :: rest => ex i { s with agenda := rest, ev := a }
    | [] =>
      match s.autoEvent ex with
      | some (i, a) => ex i { s with ev := a }
      | none =>
        match s.selectNext with
        | some p => dispatchRun ex p s
        | none => .next s

end Sys2Proof.Machine
end

