-- ==== Sys2Proof/Machine/Dispatch.lean ====
section
/-!
DEFINITION. Machine/Dispatch.lean: the meaning of every instruction, pair slot and event, one arm per constructor.
-/

namespace Sys2Proof.Machine

def exec (i : Instr) (s : State) : Host.Outcome State Fault Refusal :=
  match i with
  | .iadd o => Sys2Proof.Machine.execIadd o s
  | .iaddImm o => Sys2Proof.Machine.execIaddImm o s
  | .isub o => Sys2Proof.Machine.execIsub o s
  | .isubImm o => Sys2Proof.Machine.execIsubImm o s
  | .iaddc o => Sys2Proof.Machine.execIaddc o s
  | .isubb o => Sys2Proof.Machine.execIsubb o s
  | .imul o => Sys2Proof.Machine.execImul o s
  | .imulImm o => Sys2Proof.Machine.execImulImm o s
  | .imulhI o => Sys2Proof.Machine.execImulhI o s
  | .imulhN o => Sys2Proof.Machine.execImulhN o s
  | .imad o => Sys2Proof.Machine.execImad o s
  | .imadw o => Sys2Proof.Machine.execImadw o s
  | .iminI o => Sys2Proof.Machine.execIminI o s
  | .iminIImm o => Sys2Proof.Machine.execIminIImm o s
  | .iminN o => Sys2Proof.Machine.execIminN o s
  | .iminNImm o => Sys2Proof.Machine.execIminNImm o s
  | .imaxI o => Sys2Proof.Machine.execImaxI o s
  | .imaxIImm o => Sys2Proof.Machine.execImaxIImm o s
  | .imaxN o => Sys2Proof.Machine.execImaxN o s
  | .imaxNImm o => Sys2Proof.Machine.execImaxNImm o s
  | .iabs o => Sys2Proof.Machine.execIabs o s
  | .iadds o => Sys2Proof.Machine.execIadds o s
  | .iaddsImm o => Sys2Proof.Machine.execIaddsImm o s
  | .isubs o => Sys2Proof.Machine.execIsubs o s
  | .isubsImm o => Sys2Proof.Machine.execIsubsImm o s
  | .and o => Sys2Proof.Machine.execAnd o s
  | .andImm o => Sys2Proof.Machine.execAndImm o s
  | .or o => Sys2Proof.Machine.execOr o s
  | .orImm o => Sys2Proof.Machine.execOrImm o s
  | .xor o => Sys2Proof.Machine.execXor o s
  | .xorImm o => Sys2Proof.Machine.execXorImm o s
  | .andn o => Sys2Proof.Machine.execAndn o s
  | .andnImm o => Sys2Proof.Machine.execAndnImm o s
  | .shl o => Sys2Proof.Machine.execShl o s
  | .shlImm o => Sys2Proof.Machine.execShlImm o s
  | .shr o => Sys2Proof.Machine.execShr o s
  | .shrImm o => Sys2Proof.Machine.execShrImm o s
  | .sar o => Sys2Proof.Machine.execSar o s
  | .sarImm o => Sys2Proof.Machine.execSarImm o s
  | .bfx o => Sys2Proof.Machine.execBfx o s
  | .bfxImm o => Sys2Proof.Machine.execBfxImm o s
  | .bfi o => Sys2Proof.Machine.execBfi o s
  | .popc o => Sys2Proof.Machine.execPopc o s
  | .clz o => Sys2Proof.Machine.execClz o s
  | .icmp o => Sys2Proof.Machine.execIcmp o s
  | .icmpImm o => Sys2Proof.Machine.execIcmpImm o s
  | .fadd o => Sys2Proof.Machine.execFadd o s
  | .faddImm o => Sys2Proof.Machine.execFaddImm o s
  | .fsub o => Sys2Proof.Machine.execFsub o s
  | .fsubImm o => Sys2Proof.Machine.execFsubImm o s
  | .fmul o => Sys2Proof.Machine.execFmul o s
  | .fmulImm o => Sys2Proof.Machine.execFmulImm o s
  | .ffma o => Sys2Proof.Machine.execFfma o s
  | .fmin o => Sys2Proof.Machine.execFmin o s
  | .fminImm o => Sys2Proof.Machine.execFminImm o s
  | .fmax o => Sys2Proof.Machine.execFmax o s
  | .fmaxImm o => Sys2Proof.Machine.execFmaxImm o s
  | .fcmp o => Sys2Proof.Machine.execFcmp o s
  | .fcmpImm o => Sys2Proof.Machine.execFcmpImm o s
  | .fclass o => Sys2Proof.Machine.execFclass o s
  | .frcp o => Sys2Proof.Machine.execFrcp o s
  | .frsq o => Sys2Proof.Machine.execFrsq o s
  | .fsqrt o => Sys2Proof.Machine.execFsqrt o s
  | .fexp2 o => Sys2Proof.Machine.execFexp2 o s
  | .flog2 o => Sys2Proof.Machine.execFlog2 o s
  | .fsin o => Sys2Proof.Machine.execFsin o s
  | .fcos o => Sys2Proof.Machine.execFcos o s
  | .fcvt o => Sys2Proof.Machine.execFcvt o s
  | .fcvti o => Sys2Proof.Machine.execFcvti o s
  | .icvtf o => Sys2Proof.Machine.execIcvtf o s
  | .fdot2 o => Sys2Proof.Machine.execFdot2 o s
  | .had o => Sys2Proof.Machine.execHad o s
  | .qnt o => Sys2Proof.Machine.execQnt o s
  | .dqnt o => Sys2Proof.Machine.execDqnt o s
  | .fscale o => Sys2Proof.Machine.execFscale o s
  | .cmul o => Sys2Proof.Machine.execCmul o s
  | .mov o => Sys2Proof.Machine.execMov o s
  | .movi o => Sys2Proof.Machine.execMovi o s
  | .movs o => Sys2Proof.Machine.execMovs o s
  | .movri o => Sys2Proof.Machine.execMovri o s
  | .movrw o => Sys2Proof.Machine.execMovrw o s
  | .srd o => Sys2Proof.Machine.execSrd o s
  | .swr o => Sys2Proof.Machine.execSwr o s
  | .shfl o => Sys2Proof.Machine.execShfl o s
  | .vote o => Sys2Proof.Machine.execVote o s
  | .redux o => Sys2Proof.Machine.execRedux o s
  | .scan o => Sys2Proof.Machine.execScan o s
  | .plop o => Sys2Proof.Machine.execPlop o s
  | .sel o => Sys2Proof.Machine.execSel o s
  | .prmt o => Sys2Proof.Machine.execPrmt o s
  | .matchL o => Sys2Proof.Machine.execMatchL o s
  | .pack o => Sys2Proof.Machine.execPack o s
  | .unpk o => Sys2Proof.Machine.execUnpk o s
  | .elect o => Sys2Proof.Machine.execElect o s
  | .bra o => Sys2Proof.Machine.execBra o s
  | .brx o => Sys2Proof.Machine.execBrx o s
  | .call o => Sys2Proof.Machine.execCall o s
  | .ret o => Sys2Proof.Machine.execRet o s
  | .wsync o => Sys2Proof.Machine.execWsync o s
  | .exit o => Sys2Proof.Machine.execExit o s
  | .nop o => Sys2Proof.Machine.execNop o s
  | .pause o => Sys2Proof.Machine.execPause o s
  | .trap o => Sys2Proof.Machine.execTrap o s
  | .bkpt o => Sys2Proof.Machine.execBkpt o s
  | .rfe o => Sys2Proof.Machine.execRfe o s
  | .bsync o => Sys2Proof.Machine.execBsync o s
  | .barv o => Sys2Proof.Machine.execBarv o s
  | .bwait o => Sys2Proof.Machine.execBwait o s
  | .bexpect o => Sys2Proof.Machine.execBexpect o s
  | .cbar o => Sys2Proof.Machine.execCbar o s
  | .launch o => Sys2Proof.Machine.execLaunch o s
  | .hintnext o => Sys2Proof.Machine.execHintnext o s
  | .waitpred o => Sys2Proof.Machine.execWaitpred o s
  | .fork o => Sys2Proof.Machine.execFork o s
  | .rdv o => Sys2Proof.Machine.execRdv o s
  | .loop o => Sys2Proof.Machine.execLoop o s
  | .endl o => Sys2Proof.Machine.execEndl o s
  | .endp o => Sys2Proof.Machine.execEndp o s
  | .ld o => Sys2Proof.Machine.execLd o s
  | .st o => Sys2Proof.Machine.execSt o s
  | .lds o => Sys2Proof.Machine.execLds o s
  | .sts o => Sys2Proof.Machine.execSts o s
  | .ldfe o => Sys2Proof.Machine.execLdfe o s
  | .stf o => Sys2Proof.Machine.execStf o s
  | .feinit o => Sys2Proof.Machine.execFeinit o s
  | .ldw o => Sys2Proof.Machine.execLdw o s
  | .stw o => Sys2Proof.Machine.execStw o s
  | .atom o => Sys2Proof.Machine.execAtom o s
  | .atoms o => Sys2Proof.Machine.execAtoms o s
  | .atomo o => Sys2Proof.Machine.execAtomo o s
  | .cas o => Sys2Proof.Machine.execCas o s
  | .cass o => Sys2Proof.Machine.execCass o s
  | .fence o => Sys2Proof.Machine.execFence o s
  | .cmcast o => Sys2Proof.Machine.execCmcast o s
  | .migrq o => Sys2Proof.Machine.execMigrq o s
  | .tinv o => Sys2Proof.Machine.execTinv o s
  | .recld o => Sys2Proof.Machine.execRecld o s
  | .recst o => Sys2Proof.Machine.execRecst o s
  | .cpbox o => Sys2Proof.Machine.execCpbox o s
  | .cpboxImm o => Sys2Proof.Machine.execCpboxImm o s
  | .cpstb o => Sys2Proof.Machine.execCpstb o s
  | .cpstbImm o => Sys2Proof.Machine.execCpstbImm o s
  | .cpidx o => Sys2Proof.Machine.execCpidx o s
  | .cpidxImm o => Sys2Proof.Machine.execCpidxImm o s
  | .cpss o => Sys2Proof.Machine.execCpss o s
  | .cpssImm o => Sys2Proof.Machine.execCpssImm o s
  | .cpfill o => Sys2Proof.Machine.execCpfill o s
  | .cpfillImm o => Sys2Proof.Machine.execCpfillImm o s
  | .qfence o => Sys2Proof.Machine.execQfence o s
  | .cqwait o => Sys2Proof.Machine.execCqwait o s
  | .cvjoin o => Sys2Proof.Machine.execCvjoin o s
  | .cvleave o => Sys2Proof.Machine.execCvleave o s
  | .cvld o => Sys2Proof.Machine.execCvld o s
  | .msend o => Sys2Proof.Machine.execMsend o s
  | .mrecv o => Sys2Proof.Machine.execMrecv o s
  | .mtest o => Sys2Proof.Machine.execMtest o s
  | .mcancel o => Sys2Proof.Machine.execMcancel o s
  | .coll o => Sys2Proof.Machine.execColl o s
  | .cwait o => Sys2Proof.Machine.execCwait o s
  | .shape o => Sys2Proof.Machine.execShape o s
  | .tld o => Sys2Proof.Machine.execTld o s
  | .tst o => Sys2Proof.Machine.execTst o s
  | .wbld o => Sys2Proof.Machine.execWbld o s
  | .mma o => Sys2Proof.Machine.execMma o s
  | .scacc o => Sys2Proof.Machine.execScacc o s
  | .accrd o => Sys2Proof.Machine.execAccrd o s
  | .accwr o => Sys2Proof.Machine.execAccwr o s
  | .accz o => Sys2Proof.Machine.execAccz o s
  | .aballoc o => Sys2Proof.Machine.execAballoc o s
  | .abfree o => Sys2Proof.Machine.execAbfree o s
  | .cred o => Sys2Proof.Machine.execCred o s
  | .qgate o => Sys2Proof.Machine.execQgate o s
  | .qmapSet o => Sys2Proof.Machine.execQmapSet o s
  | .qmapRd o => Sys2Proof.Machine.execQmapRd o s
  | .pairIaddRr own other => Sys2Proof.Machine.execPairIaddRr own other s
  | .pairIaddRi own other => Sys2Proof.Machine.execPairIaddRi own other s
  | .pairIsubRr own other => Sys2Proof.Machine.execPairIsubRr own other s
  | .pairImulRr own other => Sys2Proof.Machine.execPairImulRr own other s
  | .pairImulRi own other => Sys2Proof.Machine.execPairImulRi own other s
  | .pairIminIRr own other => Sys2Proof.Machine.execPairIminIRr own other s
  | .pairImaxIRr own other => Sys2Proof.Machine.execPairImaxIRr own other s
  | .pairIminNRr own other => Sys2Proof.Machine.execPairIminNRr own other s
  | .pairImaxNRr own other => Sys2Proof.Machine.execPairImaxNRr own other s
  | .pairAndRr own other => Sys2Proof.Machine.execPairAndRr own other s
  | .pairAndRi own other => Sys2Proof.Machine.execPairAndRi own other s
  | .pairOrRr own other => Sys2Proof.Machine.execPairOrRr own other s
  | .pairOrRi own other => Sys2Proof.Machine.execPairOrRi own other s
  | .pairXorRr own other => Sys2Proof.Machine.execPairXorRr own other s
  | .pairXorRi own other => Sys2Proof.Machine.execPairXorRi own other s
  | .pairAndnRr own other => Sys2Proof.Machine.execPairAndnRr own other s
  | .pairShlRi own other => Sys2Proof.Machine.execPairShlRi own other s
  | .pairShrRi own other => Sys2Proof.Machine.execPairShrRi own other s
  | .pairSarRi own other => Sys2Proof.Machine.execPairSarRi own other s
  | .pairShlRr own other => Sys2Proof.Machine.execPairShlRr own other s
  | .pairIcmpPc own other => Sys2Proof.Machine.execPairIcmpPc own other s
  | .pairPopcRm own other => Sys2Proof.Machine.execPairPopcRm own other s
  | .pairClzRm own other => Sys2Proof.Machine.execPairClzRm own other s
  | .pairIabsRm own other => Sys2Proof.Machine.execPairIabsRm own other s
  | .pairFaddRr own other => Sys2Proof.Machine.execPairFaddRr own other s
  | .pairFsubRr own other => Sys2Proof.Machine.execPairFsubRr own other s
  | .pairFmulRr own other => Sys2Proof.Machine.execPairFmulRr own other s
  | .pairFminRr own other => Sys2Proof.Machine.execPairFminRr own other s
  | .pairFmaxRr own other => Sys2Proof.Machine.execPairFmaxRr own other s
  | .pairFrcpRm own other => Sys2Proof.Machine.execPairFrcpRm own other s
  | .pairFrsqRm own other => Sys2Proof.Machine.execPairFrsqRm own other s
  | .pairFexp2Rm own other => Sys2Proof.Machine.execPairFexp2Rm own other s
  | .pairFlog2Rm own other => Sys2Proof.Machine.execPairFlog2Rm own other s
  | .pairMovRm own other => Sys2Proof.Machine.execPairMovRm own other s
  | .pairMoviMi own other => Sys2Proof.Machine.execPairMoviMi own other s
  | .pairIsubRi own other => Sys2Proof.Machine.execPairIsubRi own other s
  | .pairIaddsRr own other => Sys2Proof.Machine.execPairIaddsRr own other s
  | .pairLdMr own other => Sys2Proof.Machine.execPairLdMr own other s
  | .pairStMr own other => Sys2Proof.Machine.execPairStMr own other s
  | .pairLdsMs own other => Sys2Proof.Machine.execPairLdsMs own other s
  | .pairStsMs own other => Sys2Proof.Machine.execPairStsMs own other s
  | .pairLdfeMf own other => Sys2Proof.Machine.execPairLdfeMf own other s
  | .pairBraBr own other => Sys2Proof.Machine.execPairBraBr own other s
  | .pairExitZ own other => Sys2Proof.Machine.execPairExitZ own other s
  | .pairNopZ own other => Sys2Proof.Machine.execPairNopZ own other s
  | .pairPauseZ own other => Sys2Proof.Machine.execPairPauseZ own other s
  | .pairWsyncZ own other => Sys2Proof.Machine.execPairWsyncZ own other s
  | .pairBsyncZb own other => Sys2Proof.Machine.execPairBsyncZb own other s
  | .warpSelection => Sys2Proof.Machine.execWarpSelection s
  | .entryIssue => Sys2Proof.Machine.execEntryIssue s
  | .controlTransferResolve => Sys2Proof.Machine.execControlTransferResolve s
  | .retirement => Sys2Proof.Machine.execRetirement s
  | .pauseDemotionExpiry => Sys2Proof.Machine.execPauseDemotionExpiry s
  | .mergeReadArrival => Sys2Proof.Machine.execMergeReadArrival s
  | .sliceWriteArrival => Sys2Proof.Machine.execSliceWriteArrival s
  | .pendingAccessReturn => Sys2Proof.Machine.execPendingAccessReturn s
  | .replyArrival => Sys2Proof.Machine.execReplyArrival s
  | .orderedContributionArrival => Sys2Proof.Machine.execOrderedContributionArrival s
  | .convoyHoldExpiry => Sys2Proof.Machine.execConvoyHoldExpiry s
  | .reelCommandStart => Sys2Proof.Machine.execReelCommandStart s
  | .reelPieceComplete => Sys2Proof.Machine.execReelPieceComplete s
  | .reelCommandComplete => Sys2Proof.Machine.execReelCommandComplete s
  | .cpidxDeferredFetch => Sys2Proof.Machine.execCpidxDeferredFetch s
  | .retentionEntry => Sys2Proof.Machine.execRetentionEntry s
  | .retentionExit => Sys2Proof.Machine.execRetentionExit s
  | .retentionTimeoutExit => Sys2Proof.Machine.execRetentionTimeoutExit s
  | .matrixCommandStart => Sys2Proof.Machine.execMatrixCommandStart s
  | .matrixCommandComplete => Sys2Proof.Machine.execMatrixCommandComplete s
  | .cruRowMerge => Sys2Proof.Machine.execCruRowMerge s
  | .sequencerWord => Sys2Proof.Machine.execSequencerWord s
  | .ampCommandStart => Sys2Proof.Machine.execAmpCommandStart s
  | .ampExchangeArrival => Sys2Proof.Machine.execAmpExchangeArrival s
  | .ampExchangeComplete => Sys2Proof.Machine.execAmpExchangeComplete s
  | .ampProbFold => Sys2Proof.Machine.execAmpProbFold s
  | .ampCommandComplete => Sys2Proof.Machine.execAmpCommandComplete s
  | .launchSlotWrite => Sys2Proof.Machine.execLaunchSlotWrite s
  | .systemChannelEntry => Sys2Proof.Machine.execSystemChannelEntry s
  | .placement => Sys2Proof.Machine.execPlacement s
  | .evictedWarpSave => Sys2Proof.Machine.execEvictedWarpSave s
  | .warpResume => Sys2Proof.Machine.execWarpResume s
  | .launchCompletion => Sys2Proof.Machine.execLaunchCompletion s
  | .feedsRaise => Sys2Proof.Machine.execFeedsRaise s
  | .haltArrival => Sys2Proof.Machine.execHaltArrival s
  | .agentStop => Sys2Proof.Machine.execAgentStop s
  | .migrationPiece => Sys2Proof.Machine.execMigrationPiece s
  | .migrationComplete => Sys2Proof.Machine.execMigrationComplete s
  | .shootdownInvalidateArrival => Sys2Proof.Machine.execShootdownInvalidateArrival s
  | .shootdownAck => Sys2Proof.Machine.execShootdownAck s
  | .shootdownTimeout => Sys2Proof.Machine.execShootdownTimeout s
  | .shootdownComplete => Sys2Proof.Machine.execShootdownComplete s
  | .uncorrectableError => Sys2Proof.Machine.execUncorrectableError s
  | .tagmsgArrival => Sys2Proof.Machine.execTagmsgArrival s
  | .tagmsgLifetimeDrop => Sys2Proof.Machine.execTagmsgLifetimeDrop s
  | .sendReplyArrival => Sys2Proof.Machine.execSendReplyArrival s
  | .generationUpdate => Sys2Proof.Machine.execGenerationUpdate s
  | .rankReportArrival => Sys2Proof.Machine.execRankReportArrival s
  | .collectiveStart => Sys2Proof.Machine.execCollectiveStart s
  | .stepSend => Sys2Proof.Machine.execStepSend s
  | .stepRecv => Sys2Proof.Machine.execStepRecv s
  | .stepRrs => Sys2Proof.Machine.execStepRrs s
  | .stepCopy => Sys2Proof.Machine.execStepCopy s
  | .stepWait => Sys2Proof.Machine.execStepWait s
  | .stepSignal => Sys2Proof.Machine.execStepSignal s
  | .stepQsend => Sys2Proof.Machine.execStepQsend s
  | .stepLoop => Sys2Proof.Machine.execStepLoop s
  | .stepEndl => Sys2Proof.Machine.execStepEndl s
  | .stepEnd => Sys2Proof.Machine.execStepEnd s
  | .collGrantArrival => Sys2Proof.Machine.execCollGrantArrival s
  | .collPieceArrival => Sys2Proof.Machine.execCollPieceArrival s
  | .signalTokenArrival => Sys2Proof.Machine.execSignalTokenArrival s
  | .peerLost => Sys2Proof.Machine.execPeerLost s
  | .winchFailure => Sys2Proof.Machine.execWinchFailure s
  | .tilicLaneSpare => Sys2Proof.Machine.execTilicLaneSpare s
  | .tilicPortFailure => Sys2Proof.Machine.execTilicPortFailure s
  | .semaphoreRead => Sys2Proof.Machine.execSemaphoreRead s
  | .semaphoreWrite => Sys2Proof.Machine.execSemaphoreWrite s
  | .pcreate => Sys2Proof.Machine.execPcreate s
  | .pdestroy => Sys2Proof.Machine.execPdestroy s
  | .ccreate => Sys2Proof.Machine.execCcreate s
  | .cend => Sys2Proof.Machine.execCend s
  | .cset => Sys2Proof.Machine.execCset s
  | .croot => Sys2Proof.Machine.execCroot s
  | .cstand => Sys2Proof.Machine.execCstand s
  | .cpool => Sys2Proof.Machine.execCpool s
  | .cspan => Sys2Proof.Machine.execCspan s
  | .wbind => Sys2Proof.Machine.execWbind s
  | .sdtime => Sys2Proof.Machine.execSdtime s
  | .shoot => Sys2Proof.Machine.execShoot s
  | .csave => Sys2Proof.Machine.execCsave s
  | .crest => Sys2Proof.Machine.execCrest s
  | .attest => Sys2Proof.Machine.execAttest s
  | .rank => Sys2Proof.Machine.execRank s
  | .linkmap => Sys2Proof.Machine.execLinkmap s
  | .unknownCommand => Sys2Proof.Machine.execUnknownCommand s
  | .commandCompletion => Sys2Proof.Machine.execCommandCompletion s
  | .portReset => Sys2Proof.Machine.execPortReset s
  | .powerOnStart => Sys2Proof.Machine.execPowerOnStart s
  | .modeWrite => Sys2Proof.Machine.execModeWrite s
  | .envelopeSwitch => Sys2Proof.Machine.execEnvelopeSwitch s
  | .junctionOvertemp => Sys2Proof.Machine.execJunctionOvertemp s
  | .dramOvertemp => Sys2Proof.Machine.execDramOvertemp s
  | .thresholdWrite => Sys2Proof.Machine.execThresholdWrite s
  | .counterClear => Sys2Proof.Machine.execCounterClear s
  | .correctedError => Sys2Proof.Machine.execCorrectedError s
  | .rowSpareRemap => Sys2Proof.Machine.execRowSpareRemap s
  | .telemetryRefresh => Sys2Proof.Machine.execTelemetryRefresh s
  | .registerWrite => Sys2Proof.Machine.execRegisterWrite s
  | .routerOutputArbitration => Sys2Proof.Machine.execRouterOutputArbitration s
  | .tilicFlitResend => Sys2Proof.Machine.execTilicFlitResend s
  | .hostLinkRetrain => Sys2Proof.Machine.execHostLinkRetrain s
  | .generationReuseDelayExpiry => Sys2Proof.Machine.execGenerationReuseDelayExpiry s

end Sys2Proof.Machine
end

