-- ==== Sys2Proof/Machine/Loaded.lean ====
section
/-!
DEFINITION. Machine/Loaded.lean: where the next word is fetched from, and a machine in which a launch has been placed, for a
machine that fetches nothing yet. A program comes to a machine through a host port or a launch; this stands for that load.
-/

namespace Sys2Proof.Machine

/-- Where the next step fetches its word: the physical address and that of its mirror copy.
Log entry 6 (DESIGN CHOICE). -/
def State.fetchPlace (s : State) : Option (Nat × Option Nat) :=
  let t := s.tick
  if t.cur.isSome || !t.agenda.isEmpty || (t.autoEvent (fun _ u => .next u)).isSome then none
  else
    match t.selectNext with
    | none => none
    | some p =>
      match ({ t with cur := some (t.picked p) } : State).env? with
      | none => none
      | some e =>
        if p.pc.toNat % 8 != 0 then none
        else
          match t.chunks (e.who t (lowest p.mask)) .fetch false none p.pc.toNat 8 with
          | .ok [⟨.dram pa mir _, _, _, _⟩] => some (pa, mir)
          | _ => none

/-- Store bytes at a place. -/
def State.putAt (s : State) (pl : Nat × Option Nat) (bs : List Byte) : State :=
  let m := writeBytes s.mem pl.1 bs
  { s with mem := match pl.2 with
      | some q => writeBytes m q bs
      | none => m }

/-- The page tables of the loaded machine: one page of 128 KiB at virtual address 0x20000, at physical address 0x100000, that
may be read, written and fetched from. -/
def loadedTables : Memory :=
  [(0x40000, leBytes 8 0x80001), (0x80000, leBytes 8 0xC0001), (0xC0000, leBytes 8 0xC0101), (0xC0108, leBytes 8 0x10001F)].foldl
    (fun m e => writeBytes m e.1 e.2) []

/-- One workgroup of 32 threads, with every register, tile and barrier that a launch can declare, and 64 KiB of scratchpad. -/
def loadedPacket : Packet where
  entry := 0x20000
  arg := 0
  cctr := 0
  limit := 32
  work := 5 + 2 ^ 42 + 2 ^ 45
  res := 256 + 64 * 2 ^ 9 + 16 * 2 ^ 16 + 65536 * 2 ^ 21 + 96 * 2 ^ 42 + 256 * 2 ^ 49
  pred := 0
  ltab := 0
  leases := []
  shapes := []
  btab := 0
  ctab := 0

def loadedLaunch : Launch where
  id := 1
  part := 0
  ctx := 0
  seq := 0
  src := .host 0
  pk := loadedPacket
  entry := 0x20000
  limit := 32
  bucket := none
  leases := [⟨1, 1, true, false⟩]
  convoys := []
  pred := none
  arrived := [0, 0, 0, 0]
  placed := [(0, 1)]
  released := []
  checked := true
  hints := 0
  raised := []
  st := .queued
  recorded := true

def loadedWg : Wg where
  id := 2
  launch := 1
  cg := 0
  rank := 0
  wg := 0
  base := 0
  core := 0
  scrBase := 0
  warps := 1
  exitedWarps := 0
  bars := []
  hinted := false
  entered := []
  done := []

def loadedCtx : Ctx where
  key := 0
  priv := true
  mode := 0
  hand := 0
  save := 0
  stopa := 0
  pool := 0
  root := 0x40000
  standing := []
  pools := []
  span := [0]
  halt := none
  ticket := 0
  colled := []
  mrg := []
  saved := false
  savedHalted := false
  evicted := []

/-- The machine with a ready package, one partition of die 0, one privileged context and one launch whose only warp stands
ready at the entry; whatever else was at work is gone.
Log entry 6 (DESIGN CHOICE). -/
def State.loaded (s : State) : State :=
  { s with
    cur := none
    agenda := []
    nextId := 3
    step := 9
    stt := 1
    warps := [(0, { Warp.start loadedWg 0 0xFFFFFFFF 0x20000 [] with widx := 0 })]
    evicted := []
    launches := [loadedLaunch]
    cgs := [⟨1, 0, 0, [2], [(0, 0, 0)], Barrier.init⟩]
    wgs := [loadedWg]
    savedWgs := []
    convoys := []
    reserved := []
    reelQ := []
    matQ := []
    cruQ := []
    ampQ := []
    qfences := []
    seqrs := []
    ampMsgs := []
    mem := loadedTables
    writes := []
    reads := []
    pending := []
    contribs := []
    seqs := []
    poison := []
    tcache := []
    migs := []
    shoots := []
    msgs := []
    sends := []
    pkts := []
    replies := []
    genUpds := []
    colls := []
    collEarly := []
    ctxs := [loadedCtx]
    parts := [⟨0, [0], 50, 1⟩]
    slots := []
    cmd := none
    rowCopies := []
    tileOf := (List.range 16).map (fun t => (t, 1)) }

end Sys2Proof.Machine
end

