-- ==== Sys2Proof/Machine/Step.lean ====
section
/-!
DEFINITION. Machine/Step.lean: one step of the machine, and a machine whose next step fetches a given word.
-/

namespace Sys2Proof.Machine

/-- One step of the machine. -/
def step (s : State) : Host.Outcome State Fault Refusal := stepWith exec s

/-- `s` with the word `w` stored where `step` fetches its next instruction; a machine that fetches nothing next is given the
launch of `State.loaded` first.
Log entry 6 (DESIGN CHOICE). -/
def State.withFetchWord (s : State) (nbits w : Nat) : State :=
  let bs := leBytes 8 (w % 2 ^ min nbits 64)
  match s.fetchPlace with
  | some pl => s.putAt pl bs
  | none => s.loaded.putAt (0x100000, none) bs

end Sys2Proof.Machine
end

