-- ==== Sys2Proof/Safety.lean ====
section
/-!
DEFINITION. Safety.lean: the terms that claims use: the canonical form of the memories, the state after a word that has
performed and retired, and what a word leaves as it was.
-/

namespace Sys2Proof.Machine

/-! ## Canonical memories -/

/-- Every memory of the machine lists its bytes by rising address and lists no byte that an unlisted address reads as:
package memory, host memory, peer packages, scratchpads, tiles and accumulator banks. -/
abbrev State.canonical (s : State) : Prop :=
  Memory.wf s.mem = true ∧ Memory.wf s.hostMem = true ∧ Memory.wf s.peerMem = true ∧ Memory.wf s.scr = true ∧
    Memory.wf s.tiles = true ∧ Memory.wf s.banks = true

/-- The register files of a warp are in their canonical forms. -/
abbrev Warp.canonical (w : Warp) : Prop :=
  Tbl.wf 0 w.vregs = true ∧ Tbl.wf 0 w.sregs = true ∧ Tbl.wf 0 w.preds = true ∧ Tbl.wf 0 w.rng = true

/-! ## A word that performs and retires -/

/-- `s` after a word whose only effect on the machine is that the executing warp becomes `w`: the group goes on to the next
word, the entry retires, and nothing else changes. -/
def Env.retired (e : Env) (s : State) (w : Warp) : State :=
  { s.setWarp e.c.core e.c.slot ((w.advance e.c.pc (lanesOf e.c.mask)).retireHead e.c.mask) with cur := none }

/-- `s` after a word that retired into a wait: the threads of `lanes` wait at the word, the rest of the group goes on, and the
executing warp is otherwise `w` (R194). -/
def Env.parked (e : Env) (s : State) (w : Warp) (lanes : LaneMask) : State :=
  { s.setWarp e.c.core e.c.slot
      { w.advance e.c.pc (lanesOf (e.c.mask &&& ~~~lanes)) with rob := w.rob.tail, demoted := none } with cur := none }

/-- `w'` is `w` after its oldest word retired and sent each lane `l` of the group to `dest l`. -/
def Env.sent (e : Env) (w w' : Warp) (dest : Nat → DWord) : Prop :=
  { w' with pcs := w.pcs } = w.retireHead e.c.mask ∧
    ∀ l, l < 32 → w'.pc l = if e.c.mask.getLsbD l then dest l else w.pc l

/-- `s` after the executing warp takes a warp trap: the handler's entry, or the context fault that stands in for it. -/
def Env.trapped (e : Env) (s : State) (t : Trap) : State := { e.takeTrap s t with cur := none }

/-- `w'` is `w` but for the lanes of `g` of the vector registers that `rs` holds of. -/
def Warp.onlyVec (w w' : Warp) (g : LaneMask) (rs : Nat → Bool) : Prop :=
  { w' with vregs := w.vregs } = w ∧
    ∀ r l, l < 32 → (rs r && g.getLsbD l) = false → w'.v r l = w.v r l

/-- `w'` is `w` but for the scalars that `rs` holds of. -/
def Warp.onlyScal (w w' : Warp) (rs : Nat → Bool) : Prop :=
  { w' with sregs := w.sregs } = w ∧ ∀ r, rs r = false → w'.s r = w.s r

/-- `w'` is `w` but for predicate `p` in the lanes of `g`. -/
def Warp.onlyPred (w w' : Warp) (g : LaneMask) (p : Nat) : Prop :=
  { w' with preds := w.preds } = w ∧
    ∀ q l, l < 32 → q < 8 → (q == p && g.getLsbD l) = false → w'.p q l = w.p q l

/-- The `n` registers from `d` on. -/
def regsAt (d n : Nat) : Nat → Bool := fun r => decide (d ≤ r) && decide (r < d + n)

/-- `w'` is `w` with `val l`, modulo 2^`wd`, in the element of `wd` bits at register `d` of every lane of `g`. -/
def Warp.wrote (w w' : Warp) (g : LaneMask) (d : VReg) (wd : Nat) (val : Nat → Int) : Prop :=
  w.onlyVec w' g (regsAt d.toNat (regsOf wd)) ∧
    ∀ l, l < 32 → g.getLsbD l = true → w'.elem (.v d) wd l = modW wd (val l)

/-- `w'` is `w` with predicate `p` equal to `val l` in every lane of `g`; a write to p7 is discarded (R33). -/
def Warp.wrotePred (w w' : Warp) (g : LaneMask) (p : PReg) (val : Nat → Bool) : Prop :=
  w.onlyPred w' g p.toNat ∧
    ∀ l, l < 32 → g.getLsbD l = true → w'.p p.toNat l = if p.toNat = 7 then true else val l

/-- `w'` is `w` with `val`, modulo 2^`wd`, in the scalar element of `wd` bits at `d`, if `g` is not empty (R148). -/
def Warp.wroteScal (w w' : Warp) (g : LaneMask) (d : SReg) (wd : Nat) (val : Int) : Prop :=
  w.onlyScal w' (regsAt d.toNat (regsOf wd)) ∧
    (g ≠ 0 → w'.elem (.s d) wd 0 = modW wd val) ∧ (g = 0 → w' = w)

/-- The destination of a word that writes either every lane of `g` or, once, a scalar (R148). -/
def Warp.wroteDst (w w' : Warp) (g : LaneMask) (d : Dst) (wd : Nat) (val : Nat → Int) : Prop :=
  match d with
  | .v i => w.wrote w' g i wd val
  | .s i => w.wroteScal w' g i wd (val 0)

/-- Word `k` of a loaded value: its bytes, sign-extended where the access says so (R133, R134). -/
def loadedWord (sg : Bool) (bs : List Byte) (k : Nat) : Word :=
  BitVec.ofNat 32 ((if sg then modW 32 (signedOf (8 * bs.length) (leNat bs)) else leNat bs) / 2 ^ (32 * k))

/-- `w'` is `w` with the bytes `val l` loaded into register `d` and those after it, in every lane of `g`. -/
def Warp.loaded (w w' : Warp) (g : LaneMask) (d : VReg) (n : Nat) (sg : Bool) (val : Nat → List Byte) : Prop :=
  w.onlyVec w' g (regsAt d.toNat (regsOfBytes n)) ∧
    ∀ l, l < 32 → g.getLsbD l = true → ∀ k, k < regsOfBytes n → w'.v (d.toNat + k) l = loadedWord sg (val l) k

/-- The byte at a physical address as the agents of a die read it (R96). -/
def State.viewed (s : State) (die pa : Nat) : List Byte := s.dieBytes die pa 1

/-- A physical address lies in no chunk, nor in the mirror of one. -/
def outsideChunks (cs : List Chunk) (pa : Nat) : Prop :=
  ∀ c ∈ cs, ∀ a m k, c.pl = .dram a m k → ¬ (a ≤ pa ∧ pa < a + c.n) ∧ ∀ b, m = some b → ¬ (b ≤ pa ∧ pa < b + c.n)

/-- The workgroup address of a lane of a scratchpad word, and that its `n` bytes are inside the declaration (R48, R132). -/
def Env.scrAddr (e : Env) (a : VReg) (off : Int) (l : Nat) : Int := (e.w.v a.toNat l).toNat + off
abbrev Env.scrInside (e : Env) (g : LaneMask) (a : VReg) (off : Int) (n : Nat) : Prop :=
  ∀ l, l < 32 → g.getLsbD l = true → 0 ≤ e.scrAddr a off l ∧ (e.scrAddr a off l).toNat + n ≤ e.l.pk.scr

/-- The physical scratchpad byte, as a key of the core's scratchpad, at which lane `l`'s access starts. -/
def Env.scrKey (e : Env) (g : Wg) (a : VReg) (off : Int) (l : Nat) : Nat :=
  g.core * 2 ^ 20 + (g.scrBase + (e.scrAddr a off l).toNat)

/-- `t` is `s` but for the scratchpad, its full-empty bits, and what the access of it notes of the segments (R74). -/
def State.onlyScr (s t : State) : Prop :=
  { t with scr := s.scr, fe := s.fe, ret := s.ret, segAccess := s.segAccess, l1 := s.l1 } = s

/-- Every launched lane of the warp is in the issuing group with a true guard, which the warp-collective words need (R36). -/
abbrev Env.whole (e : Env) (g : Guard) : Prop := e.c.mask = e.w.lmask ∧ e.g g = e.w.lmask ∧ e.w.lmask ≠ 0

/-- No arithmetic trap is enabled in the mode under which the word was dispatched (R113, R309, R310). -/
abbrev Env.noArithTraps (e : Env) : Prop :=
  e.c.mode.getLsbD 1 = false ∧ e.c.mode.getLsbD 2 = false ∧ e.c.mode.getLsbD 3 = false

/-- The registers that a word names are declared and aligned (R34, R35, R129). -/
abbrev Env.usable (e : Env) (us : List Use) : Prop := e.uses us = none

/-- Every contribution that the threads of `g` sent has been applied, so a release of theirs need not wait (R98). -/
abbrev Env.settled (e : Env) (s : State) (g : LaneMask) : Prop := e.owes s g false = false

/-! ## What lets an access be made -/

/-- Record `k` is declared and breaks no rule of its fields (R53, R54, R56). -/
abbrev Env.recordUsable (e : Env) (k : Nat) : Prop :=
  let r := wordsAt e.w.s (8 * k) 8
  8 * k + 8 ≤ e.l.pk.scal ∧ fld r 192 5 < 18 ∧ fld r 200 2 ≠ 3 ∧ fld r 202 2 ≠ 3 ∧ bit r 199 = false ∧ fld r 205 32 = 0 ∧
    fld r 250 6 = 0 ∧
    (bit r 204 = true → k ≠ 7 ∧ 8 * k + 16 ≤ e.l.pk.scal ∧ fld (wordsAt e.w.s (8 * k + 8) 8) 160 96 = 0)

/-- Agent `w` may access the byte at `va` through record `r` now: the record names this package or host memory, the ranges give the
right, and the page is mapped with it, good, and resident where it must be; or it names a peer package in the domain with a route, which
is not fenced, and the peer's walker finds the page so (R56, R57, R321 to R327, R377, R384). With `soft` the page may also have failed, or
be absent on ranges that are all soft (R71). -/
def State.allows (s : State) (w : Who) (need : Need) (r : Rec) (soft : Bool) (va : Nat) : Prop :=
  canonicalVa r.base = true ∧ canonicalVa va = true ∧
  match r.peer? with
  | some k =>
    k < s.domain ∧ k ≠ s.rank ∧ s.hasRoute w.die k = true ∧ s.drops w.die k = false ∧
      ∃ q, w.rights va = some q ∧
        let pg := Tbl.get 0 s.peerPages (peerKey k w.x.key * 2 ^ 40 + fld va 17 40)
        (need = .write → q.rw = true ∧ bit pg 2 = false) ∧
        (fld pg 0 2 = 0 ∨ soft = true ∧ (fld pg 0 2 = 3 ∨ fld pg 0 2 = 2 ∧ q.hard = false))
  | none =>
    ∃ q leaf size, s.rightsOf w va = some q ∧ s.pageOf w va = some (leaf, size) ∧
      (need = .write → q.rw = true ∧ leafW leaf = true) ∧
      (leafF leaf = false ∧ (r.host = true ∨ leafP leaf = true) ∨ soft = true ∧ (leafF leaf = true ∨ q.hard = false))

/-- Agent `w` may access each of `n` bytes from `va` on. -/
def State.allowsAll (s : State) (w : Who) (need : Need) (r : Rec) (soft : Bool) (va n : Nat) : Prop :=
  ∀ k, k < n → s.allows w need r soft ((va + k) % 2 ^ 64)

/-- Every lane of a list may make its access of `n` bytes at its offset: in bounds where the record traps, and allowed at every byte
where the access is not filled or discarded (R58). -/
def Env.reaches (e : Env) (s : State) (r : Rec) (need : Need) (n : Nat) (offs : List (Nat × Int)) : Prop :=
  ∀ p ∈ offs, (r.bnd = 1 → r.inBounds p.2 n = true) ∧
    (r.bnd = 0 ∨ r.inBounds p.2 n = true → s.allowsAll (e.who s p.1) need r false (r.addr p.2) n)

/-- The reads of some lanes find the permits that those of SO pages take (R343). -/
def Env.permitsLoads (e : Env) (s : State) (r : Rec) (n : Nat) (offs : List (Nat × Int)) : Bool :=
  match e.plan s r .read 0 n offs with
  | .ok ps => s.permits e.c.core (s.dieOf e.c.core) false false (planChunks ps)
  | .error _ => true

/-- The stores of some lanes, if they are ordered as SO, find their permits once the die's earlier writes have arrived (R95, R343). -/
def Env.permitsStores (e : Env) (s : State) (r : Rec) (n : Nat) (offs : List (Nat × Int)) : Bool :=
  match e.plan s r .write 1 n offs with
  | .ok ps => !anySo (planChunks ps) || (s.drainDie (s.dieOf e.c.core)).permits e.c.core (s.dieOf e.c.core) true true (planChunks ps)
  | .error _ => true

/-- The atomics of some lanes find their permits (R343). -/
def Env.permitsAtomics (e : Env) (s : State) (r : Rec) (n : Nat) (offs : List (Nat × Int)) : Bool :=
  match e.plan s r .write 1 n offs with
  | .ok ps => s.permits e.c.core (s.dieOf e.c.core) true true (planChunks ps)
  | .error _ => true

/-- The units of a box lie in its scratchpad range, in bounds where the record traps, and an engine of the core may access each that is
not filled or discarded (R58, R63 to R65). -/
def Env.boxFits (e : Env) (s : State) (need : Need) (r : Rec) (org : List Int) (size : List Nat) : Prop :=
  let full := if r.nib then 3 else 1
  ∀ i, i < r.units size → (r.bnd = 1 → r.inside (r.at' org size i) = full) ∧
    (r.inside (r.at' org size i) ≠ 0 → s.allowsAll (e.eng s) need r false (r.va (r.at' org size i)) r.unit)

/-- The geometry and the scratchpad range of a box of a copy (R63, R65). -/
def Env.boxShape (e : Env) (r : Rec) (org : List Int) (size : List Nat) (saddr swz : Nat) : Prop :=
  (∀ d, d < 5 → size.getD d 1 ≠ 0) ∧ (r.nib = true → org.getD 0 0 % 2 = 0 ∧ size.getD 0 1 % 2 = 0) ∧
    saddr % 16 = 0 ∧ saddr % swizzleAlign swz = 0 ∧
    ∀ i, i < r.units size → saddr + swizzle swz (i * r.unit) + r.unit ≤ e.l.pk.scr

/-- The blocks of CPIDX have whole units, lie with the status list in the scratchpad, are in bounds, and lie in ranges and on pages that
the engine may read, now or once they are there (R63, R70, R71). -/
def Env.blocksFit (e : Env) (s : State) (r : Rec) (idx : Nat → Nat) (blk list : Nat) : Prop :=
  r.extOf 0 ≠ 0 ∧ (r.nib = true → r.extOf 0 % 2 = 0) ∧ blk % 16 = 0 ∧ list % 16 = 0 ∧ list + 48 ≤ e.l.pk.scr ∧
    ∀ l ∈ lanesOf e.w.lmask, blk + l * r.blockPitch + r.blockBytes ≤ e.l.pk.scr ∧ idx l < r.extOf 1 ∧
      ∀ u, u < r.blockUnits → s.allowsAll (e.eng s) .read r true (r.va (r.blockIx (idx l) u)) r.unit

/-- A range of CPSS or CPFILL: whole granules inside the scratchpad (R242). -/
def Env.rangeFits (e : Env) (addr len : Nat) : Prop := addr % 16 = 0 ∧ len % 16 = 0 ∧ len ≠ 0 ∧ addr + len ≤ e.l.pk.scr

/-- The boxes of a tile command may be read or written: in bounds where a record traps, and the engine may access each unit (R257). -/
def Env.tileFits (e : Env) (s : State) (need : Need) (boxes : List (Rec × List Int × List Nat)) : Prop :=
  ∀ b ∈ boxes, e.boxFits s need b.1 b.2.1 b.2.2

/-- The entry in execution is one of a warp, a workgroup, a launch and a context that the machine holds: `e`. -/
abbrev State.executes (s : State) (e : Env) : Prop := s.env? = some e

end Sys2Proof.Machine
end

