-- ==== Sys2Proof/Certificates/Slice0/Obligations.lean ====
section
/-!
DEFINITION. Certificates/Slice0/Obligations.lean: the statements for the provers, from the numbered rules of the spec.
-/

open Sys2Proof Sys2Proof.Machine

/-! ## The integer class (R146 to R158) -/

/-- R150, R152 to R156: the two-source words of the integer class in their register layout. The result is exact, then taken
modulo 2^w. -/
def Obligations.IntegerTwoSource : Prop :=
  ∀ (s : State) (e : Env) (o : OpRRR) (wd : Nat), s.executes e → o.ty.intWidth = some wd → e.w.canonical →
    (e.usable [useD o.d (regsOf wd), o.a.use (regsOf wd) 35, o.b.use (regsOf wd) 27] →
      ∀ p ∈ ([(.iadd, fun a b => (a + b : Int)), (.isub, fun a b => a - b), (.imul, fun a b => a * b),
              (.imulhI, fun a b => signedOf wd a * signedOf wd b / 2 ^ wd), (.imulhN, fun a b => (a * b : Int) / 2 ^ wd),
              (.iminI, fun a b => min (signedOf wd a) (signedOf wd b)), (.iminN, fun a b => min a b),
              (.imaxI, fun a b => max (signedOf wd a) (signedOf wd b)), (.imaxN, fun a b => max a b),
              (.iadds, fun a b => satInt o.ty.isSigned wd (readInt o.ty.isSigned wd a + readInt o.ty.isSigned wd b)),
              (.isubs, fun a b => satInt o.ty.isSigned wd (readInt o.ty.isSigned wd a - readInt o.ty.isSigned wd b)),
              (.and, fun a b => (BitVec.ofNat wd a &&& BitVec.ofNat wd b).toNat),
              (.or, fun a b => (BitVec.ofNat wd a ||| BitVec.ofNat wd b).toNat),
              (.xor, fun a b => (BitVec.ofNat wd a ^^^ BitVec.ofNat wd b).toNat),
              (.andn, fun a b => (BitVec.ofNat wd a &&& ~~~(BitVec.ofNat wd b)).toNat)] :
            List ((OpRRR → Instr) × (Nat → Nat → Int))),
        ∃ w', exec (p.1 o) s = .next (e.retired s w') ∧
          e.w.wrote w' (e.g o.g) o.d wd (fun l => p.2 (e.w.elem o.a wd l) (e.w.elem o.b wd l))) ∧
    (e.usable [useD o.d (regsOf wd), o.a.use (regsOf wd) 35, o.b.use 1 27] →
      ∀ p ∈ ([(.shl, fun a k => a * 2 ^ k), (.shr, fun a k => (a : Int) / 2 ^ k), (.sar, fun a k => signedOf wd a / 2 ^ k),
              (.bfx, fun a k =>
                let f := min (k / 256 % 256) wd
                if f = 0 then 0 else readInt o.ty.isSigned f (modW f (readInt o.ty.isSigned wd a / 2 ^ (k % 256))))] :
            List ((OpRRR → Instr) × (Nat → Nat → Int))),
        ∃ w', exec (p.1 o) s = .next (e.retired s w') ∧
          e.w.wrote w' (e.g o.g) o.d wd (fun l => p.2 (e.w.elem o.a wd l) (e.w.elem o.b 32 l)))

/-- R131, R150, R153 to R156: the words of the integer class with an immediate. In the I layout the element is 32 bits and
IMM32 replaces B; in the S layout IMM16 is sign-extended to the element and replaces B. -/
def Obligations.IntegerImmediate : Prop :=
  (∀ (s : State) (e : Env) (o : OpRRI), s.executes e → e.w.canonical → e.usable [useD o.d 1, o.a.use 1 35] →
    ∀ p ∈ ([(.iaddImm, fun a b => (a + b : Int)), (.isubImm, fun a b => a - b), (.imulImm, fun a b => a * b),
            (.andImm, fun a b => (BitVec.ofNat 32 a &&& BitVec.ofNat 32 b).toNat),
            (.orImm, fun a b => (BitVec.ofNat 32 a ||| BitVec.ofNat 32 b).toNat),
            (.xorImm, fun a b => (BitVec.ofNat 32 a ^^^ BitVec.ofNat 32 b).toNat),
            (.andnImm, fun a b => (BitVec.ofNat 32 a &&& ~~~(BitVec.ofNat 32 b)).toNat),
            (.shlImm, fun a k => a * 2 ^ k), (.shrImm, fun a k => (a : Int) / 2 ^ k),
            (.sarImm, fun a k => signedOf 32 a / 2 ^ k)] : List ((OpRRI → Instr) × (Nat → Nat → Int))),
      ∃ w', exec (p.1 o) s = .next (e.retired s w') ∧
        e.w.wrote w' (e.g o.g) o.d 32 (fun l => p.2 (e.w.src o.a l).toNat o.imm.toNat)) ∧
  (∀ (s : State) (e : Env) (o : OpRRS) (wd : Nat), s.executes e → o.ty.intWidth = some wd → e.w.canonical →
    e.usable [useD o.d (regsOf wd), o.a.use (regsOf wd) 35] →
    ∀ p ∈ ([(.iminIImm, fun a b => min (signedOf wd a) (signedOf wd b)), (.iminNImm, fun a b => min a b),
            (.imaxIImm, fun a b => max (signedOf wd a) (signedOf wd b)), (.imaxNImm, fun a b => max a b),
            (.iaddsImm, fun a b => satInt o.ty.isSigned wd (readInt o.ty.isSigned wd a + readInt o.ty.isSigned wd b)),
            (.isubsImm, fun a b => satInt o.ty.isSigned wd (readInt o.ty.isSigned wd a - readInt o.ty.isSigned wd b)),
            (.bfxImm, fun a k =>
              let f := min (k / 256 % 256) wd
              if f = 0 then 0 else readInt o.ty.isSigned f (modW f (readInt o.ty.isSigned wd a / 2 ^ (k % 256))))] :
          List ((OpRRS → Instr) × (Nat → Nat → Int))),
      ∃ w', exec (p.1 o) s = .next (e.retired s w') ∧
        e.w.wrote w' (e.g o.g) o.d wd (fun l => p.2 (e.w.elem o.a wd l) (o.imm.signExtend wd).toNat))

/-- R151: IADDC and ISUBB take the carry or borrow from pC and give the outgoing one back to it, in the same lane; p7 reads 1
and keeps its value. -/
def Obligations.IntegerCarry : Prop :=
  ∀ (s : State) (e : Env) (o : OpRRP) (wd : Nat), s.executes e → o.ty.intWidth = some wd → e.w.canonical →
    e.usable [useD o.d (regsOf wd), o.a.use (regsOf wd) 35, o.b.use (regsOf wd) 27] →
    ∀ p ∈ ([(.iaddc, fun a b c => (a + b + c : Int), fun r => decide ((2 : Int) ^ wd ≤ r)),
            (.isubb, fun a b c => a - b - c, fun r => decide (r < 0))] :
          List ((OpRRP → Instr) × (Nat → Nat → Nat → Int) × (Int → Bool))),
      ∃ w', exec (p.1 o) s = .next (e.retired s w') ∧
        { w' with vregs := e.w.vregs, preds := e.w.preds } = e.w ∧
        (let val := fun l => p.2.1 (e.w.elem o.a wd l) (e.w.elem o.b wd l) (if e.w.p o.c.toNat l then 1 else 0)
         e.w.wrote { w' with preds := e.w.preds } (e.g o.g) o.d wd val ∧
         e.w.wrotePred { w' with vregs := e.w.vregs } (e.g o.g) o.c (fun l => p.2.2 (val l)))

/-- R150, R152, R156: IMAD, IMADW and BFI. -/
def Obligations.IntegerThreeSource : Prop :=
  ∀ (s : State) (e : Env) (o : OpRRRR), s.executes e → e.w.canonical →
    (∀ wd, o.ty.intWidth = some wd →
      e.usable [useD o.d (regsOf wd), o.a.use (regsOf wd) 35, o.b.use (regsOf wd) 27, o.c.use (regsOf wd) 19] →
      ∃ w', exec (.imad o) s = .next (e.retired s w') ∧
        e.w.wrote w' (e.g o.g) o.d wd (fun l => e.w.elem o.a wd l * e.w.elem o.b wd l + e.w.elem o.c wd l)) ∧
    (o.ty = .i32 ∨ o.ty = .n32 → e.usable [useD o.d 2, o.a.use 1 35, o.b.use 1 27, o.c.use 2 19] →
      ∃ w', exec (.imadw o) s = .next (e.retired s w') ∧
        e.w.wrote w' (e.g o.g) o.d 64 (fun l =>
          readInt (o.ty == .i32) 32 (e.w.elem o.a 32 l) * readInt (o.ty == .i32) 32 (e.w.elem o.b 32 l) + e.w.elem o.c 64 l)) ∧
    (∀ wd, o.ty.intWidth = some wd →
      e.usable [useD o.d (regsOf wd), o.a.use (regsOf wd) 35, o.b.use (regsOf wd) 27, o.c.use 1 19] →
      ∃ w', exec (.bfi o) s = .next (e.retired s w') ∧
        e.w.onlyVec w' (e.g o.g) (regsAt o.d.toNat (regsOf wd)) ∧
        ∀ l, l < 32 → (e.g o.g).getLsbD l = true → ∀ j, j < wd →
          let off := e.w.elem o.c 32 l % 256
          let f := min (e.w.elem o.c 32 l / 256 % 256) wd
          (w'.elem (.v o.d) wd l).testBit j =
            if off ≤ j ∧ j < off + f then (e.w.elem o.b wd l).testBit (j - off) else (e.w.elem o.a wd l).testBit j)

/-- R153, R157: IABS, and POPC and CLZ, which write one 32-bit register at every width. -/
def Obligations.IntegerUnary : Prop :=
  ∀ (s : State) (e : Env) (o : OpRR) (wd : Nat), s.executes e → o.ty.intWidth = some wd → e.w.canonical →
    (e.usable [useD o.d (regsOf wd), o.a.use (regsOf wd) 35] →
      ∃ w', exec (.iabs o) s = .next (e.retired s w') ∧
        e.w.wrote w' (e.g o.g) o.d wd (fun l => (signedOf wd (e.w.elem o.a wd l)).natAbs)) ∧
    (e.usable [useD o.d 1, o.a.use (regsOf wd) 35] →
      (∃ w', exec (.popc o) s = .next (e.retired s w') ∧
        e.w.wrote w' (e.g o.g) o.d 32 (fun l => ((List.range wd).countP (e.w.elem o.a wd l).testBit : Nat))) ∧
      (∃ w', exec (.clz o) s = .next (e.retired s w') ∧ e.w.onlyVec w' (e.g o.g) (regsAt o.d.toNat 1) ∧
        ∀ l, l < 32 → (e.g o.g).getLsbD l = true →
          let a := e.w.elem o.a wd l
          let n := (w'.v o.d.toNat l).toNat
          n ≤ wd ∧ a < 2 ^ (wd - n) ∧ (n < wd → 2 ^ (wd - n - 1) ≤ a)))

/-- R158, R179: the comparisons write predicate pD in each lane of g. -/
def Obligations.Comparisons : Prop :=
  (∀ (s : State) (e : Env) (o : OpCmp) (wd : Nat), s.executes e → o.ty.intWidth = some wd → e.w.canonical → o.cc.toNat < 8 →
    e.usable [o.a.use (regsOf wd) 35, o.b.use (regsOf wd) 27] →
    ∃ w', exec (.icmp o) s = .next (e.retired s w') ∧
      e.w.wrotePred w' (e.g o.g) o.d (fun l =>
        let x := readInt o.ty.isSigned wd (e.w.elem o.a wd l)
        let y := readInt o.ty.isSigned wd (e.w.elem o.b wd l)
        match o.cc.toNat with
        | 0 => decide (x = y) | 1 => decide (x ≠ y) | 2 => decide (x < y) | 3 => decide (x ≤ y)
        | 4 => decide (x > y) | 5 => decide (x ≥ y)
        | 6 => decide (BitVec.ofInt wd x &&& BitVec.ofInt wd y ≠ 0) | _ => decide (BitVec.ofInt wd x &&& BitVec.ofInt wd y = 0))) ∧
  (∀ (s : State) (e : Env) (o : OpCmpS) (wd : Nat), s.executes e → o.ty.intWidth = some wd → e.w.canonical → o.cc.toNat < 8 →
    e.usable [o.a.use (regsOf wd) 35] →
    ∃ w', exec (.icmpImm o) s = .next (e.retired s w') ∧
      e.w.wrotePred w' (e.g o.g) o.d (fun l =>
        icmpHolds o.cc.toNat o.ty.isSigned wd (e.w.elem o.a wd l) (o.imm.signExtend wd).toNat)) ∧
  (∀ (s : State) (e : Env) (o : OpFCmp) (f : FSpec), s.executes e → e.w.canonical → o.cc.toNat < 8 → o.rm = .rne →
    (o.ty = .f32 ∧ f = specF32 ∨ o.ty = .f64 ∧ f = specF64) →
    e.usable [o.a.use (regsOf f.regWidth) 35, o.b.use (regsOf f.regWidth) 27] →
    ∃ w', exec (.fcmp o) s = .next (e.retired s w') ∧
      e.w.wrotePred w' (e.g o.g) o.d (fun l =>
        let x := e.fval f o.a l 0
        let y := e.fval f o.b l 0
        let un := x.isNan || y.isNan
        match o.cc.toNat with
        | 0 => !un && cmpX x y == .eq | 1 => un || cmpX x y != .eq | 2 => !un && cmpX x y == .lt | 3 => !un && cmpX x y != .gt
        | 4 => !un && cmpX x y == .gt | 5 => !un && cmpX x y != .lt | 6 => !un | _ => un)) ∧
  (∀ (s : State) (e : Env) (o : OpFCmpS) (f : FSpec), s.executes e → e.w.canonical → o.cc.toNat < 8 → o.rm = .rne →
    (o.ty = .f32 ∧ f = specF32 ∨ o.ty = .f64 ∧ f = specF64) →
    e.usable [o.a.use (regsOf f.regWidth) 35] →
    ∃ w', exec (.fcmpImm o) s = .next (e.retired s w') ∧
      e.w.wrotePred w' (e.g o.g) o.d (fun l =>
        fcmpHolds o.cc.toNat (e.fval f o.a l 0)
          (if f = specF32 then specF32.input e.flush (o.imm.toNat * 65536) else specF32.value (o.imm.toNat * 65536))))

/-! ## The lane and move class (R160 to R172) -/

/-- R160 to R162: the moves, SEL, MOVS in its three forms, and the computed register indexes of MOVRI and MOVRW. -/
def Obligations.Moves : Prop :=
  (∀ (s : State) (e : Env) (o : OpRR) (wd : Nat), s.executes e → e.w.canonical → o.ty.intWidth = some wd →
    e.usable [useD o.d (regsOf wd), o.a.use (regsOf wd) 35] →
    ∃ w', exec (.mov o) s = .next (e.retired s w') ∧ e.w.wrote w' (e.g o.g) o.d wd (fun l => e.w.elem o.a wd l)) ∧
  (∀ (s : State) (e : Env) (o : OpMovI), s.executes e → e.w.canonical → e.usable [useD o.d 1] →
    ∃ w', exec (.movi o) s = .next (e.retired s w') ∧ e.w.wrote w' (e.g o.g) o.d 32 (fun _ => o.imm.toNat)) ∧
  (∀ (s : State) (e : Env) (o : OpRRP) (wd : Nat), s.executes e → e.w.canonical → o.ty.intWidth = some wd →
    e.usable [useD o.d (regsOf wd), o.a.use (regsOf wd) 35, o.b.use (regsOf wd) 27] →
    ∃ w', exec (.sel o) s = .next (e.retired s w') ∧
      e.w.wrote w' (e.g o.g) o.d wd (fun l => if e.w.p o.c.toNat l then e.w.elem o.a wd l else e.w.elem o.b wd l)) ∧
  (∀ (s : State) (e : Env) (g : Guard) (d : SReg) (x : MovSSrc) (ty : Fmt) (wd : Nat), s.executes e → e.w.canonical →
    ty.intWidth = some wd →
    (match x with
      | .scalar i => e.usable [useS d (regsOf wd) 43, useS i (regsOf wd) 35]
      | .lane v l => l.toNat < 32 ∧ e.usable [useS d (regsOf wd) 43, (Src.v v).use (regsOf wd) 35]
      | .imm _ => e.usable [useS d (regsOf wd) 43]) →
    ∃ w', exec (.movs ⟨g, d, x, ty⟩) s = .next (e.retired s w') ∧
      e.w.wroteScal w' (e.g g) d wd (match x with
        | .scalar i => e.w.elem (.s i) wd 0
        | .lane v l => e.w.elem (.v v) wd l.toNat
        | .imm i => i.toInt)) ∧
  (∀ (s : State) (e : Env) (o : OpMovR), s.executes e → e.w.canonical → o.ty = .n32 ∨ o.ty = .i32 →
    e.usable [useD o.d 1, o.a.use 1 35] →
    ((∀ l ∈ lanesOf (e.g o.g), o.k.toNat + (e.w.src o.a l).toNat < e.l.pk.regs) →
      ∃ w', exec (.movri o) s = .next (e.retired s w') ∧
        e.w.wrote w' (e.g o.g) o.d 32 (fun l => (e.w.v (o.k.toNat + (e.w.src o.a l).toNat) l).toNat)) ∧
    ((∀ l ∈ lanesOf (e.g o.g), o.k.toNat + (e.w.v o.d.toNat l).toNat < e.l.pk.regs) →
      ∃ w', exec (.movrw o) s = .next (e.retired s w') ∧ { w' with vregs := e.w.vregs } = e.w ∧
        ∀ r l, l < 32 → w'.v r l =
          if (e.g o.g).getLsbD l = true ∧ r = o.k.toNat + (e.w.v o.d.toNat l).toNat then e.w.src o.a l else e.w.v r l))

/-- R166, R167: SHFL, VOTE, MATCH and ELECT. -/
def Obligations.CrossLane : Prop :=
  (∀ (s : State) (e : Env) (o : OpShfl) (wd : Nat), s.executes e → e.w.canonical → o.ty.intWidth = some wd → o.segw.toNat < 6 →
    e.usable ([useD o.d (regsOf wd), o.a.use (regsOf wd) 35] ++ (match o.b with | .reg b => [b.use 1 27] | .const _ => [])) →
    ∃ w', exec (.shfl o) s = .next (e.retired s w') ∧
      e.w.wrote w' (e.g o.g) o.d wd (fun l =>
        let k := match o.b with | .reg b => (e.w.src b l).toNat | .const c => c.toNat
        let n := 32 / 2 ^ o.segw.toNat
        let j := l % n
        e.w.elem o.a wd (l - j + (match o.mode.toNat with
          | 0 => k % n
          | 1 => (j + k) % n
          | 2 => (((j : Int) - k) % n).toNat
          | _ => j ^^^ (k % n))))) ∧
  (∀ (s : State) (e : Env) (g : Guard) (a : PReg) (q : BitVec 2), s.executes e → e.w.canonical →
    let hits := (lanesOf (e.g g)).filter (e.w.p a.toNat)
    (∀ d : Dst, e.usable [d.use 1] →
      (∃ w', exec (.vote ⟨g, .mask d, a, .n32, 0⟩) s = .next (e.retired s w') ∧
        e.w.wroteDst w' (e.g g) d 32 (fun _ => (maskOf hits).toNat)) ∧
      (∃ w', exec (.vote ⟨g, .count d, a, .n32, 0⟩) s = .next (e.retired s w') ∧
        e.w.wroteDst w' (e.g g) d 32 (fun _ => hits.length))) ∧
    (∀ d : VReg, e.usable [useD d 1] →
      ∃ w', exec (.vote ⟨g, .rank (.v d), a, .n32, 0⟩) s = .next (e.retired s w') ∧
        e.w.wrote w' (e.g g) d 32 (fun l => (hits.countP (· < l) : Nat))) ∧
    (∀ p : PReg,
      ∃ w', exec (.vote ⟨g, .test false p, a, .n32, q⟩) s = .next (e.retired s w') ∧
        e.w.wrotePred w' (e.g g) p (fun _ => match q.toNat with
          | 0 => (lanesOf (e.g g)).any (e.w.p a.toNat)
          | 1 => (lanesOf (e.g g)).all (e.w.p a.toNat)
          | 2 => (lanesOf (e.g g)).all (e.w.p a.toNat) || (lanesOf (e.g g)).all (fun l => !e.w.p a.toNat l)
          | _ => (lanesOf (e.g g)).all (fun l => !e.w.p a.toNat l)))) ∧
  (∀ (s : State) (e : Env) (o : OpMatch) (wd : Nat), s.executes e → e.w.canonical → o.ty.intWidth = some wd →
    e.usable [useD o.d 1, o.a.use (regsOf wd) 35] →
    ∃ w', exec (.matchL o) s = .next (e.retired s w') ∧
      e.w.wrote w' (e.g o.g) o.d 32 (fun l =>
        let c := (lanesOf (e.g o.g)).filter (fun k => e.w.elem o.a wd k == e.w.elem o.a wd l)
        if o.msk then ((maskOf c).toNat : Int) else (lowest (maskOf c) + c.length * 2 ^ 5 + c.countP (· < l) * 2 ^ 11 : Nat))) ∧
  (∀ (s : State) (e : Env) (o : OpElect), s.executes e → e.w.canonical → o.ty = .n32 →
    e.usable (match o.a with | some i => [useS i 1 35] | none => []) →
    let pick := if o.hi then highest (e.g o.g) else lowest (e.g o.g)
    ∃ w', exec (.elect o) s = .next (e.retired s w') ∧
      e.w.wrotePred { w' with sregs := e.w.sregs } (e.g o.g) o.d (fun l => l == pick) ∧
      (match o.a with
        | some i => e.w.wroteScal { w' with preds := e.w.preds } (e.g o.g) i 32 pick
        | none => w'.sregs = e.w.sregs))

/-- One combining step of REDUX and SCAN on integers of `wd` bits, by OP (R168). -/
def redStep (sg : Bool) (wd op a b : Nat) : Nat :=
  modW wd (match op with
    | 0 => a + b
    | 1 => min (readInt sg wd a) (readInt sg wd b)
    | 2 => max (readInt sg wd a) (readInt sg wd b)
    | 3 => (BitVec.ofNat wd a &&& BitVec.ofNat wd b).toNat
    | 4 => (BitVec.ofNat wd a ||| BitVec.ofNat wd b).toNat
    | 5 => (BitVec.ofNat wd a ^^^ BitVec.ofNat wd b).toNat
    | _ => satInt sg wd (readInt sg wd a + readInt sg wd b))

/-- The identity of an exclusive scan on integers (Table 4 of the integer chapter). -/
def redIdentity (sg : Bool) (wd op : Nat) : Nat :=
  match op with
  | 1 => if sg then 2 ^ (wd - 1) - 1 else 2 ^ wd - 1
  | 2 => if sg then 2 ^ (wd - 1) else 0
  | 3 => 2 ^ wd - 1
  | _ => 0

/-- A left fold of a list without an identity. -/
def foldFirst (f : Nat → Nat → Nat) (d : Nat) : List Nat → Nat
  | [] => d
  | a :: t => t.foldl f a

/-- R168, R169, R119, R120: REDUX and SCAN. On the integer types the result is the fold of A over the lanes of g; on the float
types the word completes and writes its destination only.
Rests on log entry 27. -/
def Obligations.Reductions : Prop :=
  (∀ (s : State) (e : Env) (o : OpRedux) (wd : Nat), s.executes e → e.w.canonical → o.op.toNat < 7 → o.ty.intWidth = some wd →
    e.usable [o.d.use (regsOf wd), o.a.use (regsOf wd) 35] →
    ∃ w', exec (.redux o) s = .next (e.retired s w') ∧
      e.w.wroteDst w' (e.g o.g) o.d wd (fun _ =>
        foldFirst (redStep o.ty.isSigned wd o.op.toNat) 0 ((lanesOf (e.g o.g)).map (e.w.elem o.a wd)))) ∧
  (∀ (s : State) (e : Env) (o : OpScan) (wd : Nat), s.executes e → e.w.canonical → o.op.toNat < 7 → o.ty.intWidth = some wd →
    e.usable [useD o.d (regsOf wd), o.a.use (regsOf wd) 35] →
    ∃ w', exec (.scan o) s = .next (e.retired s w') ∧
      e.w.wrote w' (e.g o.g) o.d wd (fun l =>
        foldFirst (redStep o.ty.isSigned wd o.op.toNat) (redIdentity o.ty.isSigned wd o.op.toNat)
          (((lanesOf (e.g o.g)).filter (fun k => if o.exc then k < l else k ≤ l)).map (e.w.elem o.a wd)))) ∧
  (∀ (s : State) (e : Env) (o : OpRedux) (wd : Nat), s.executes e → e.w.canonical → o.op.toNat < 3 →
    (o.ty = .f32 ∧ wd = 32 ∨ o.ty = .f64 ∧ wd = 64) → e.usable [o.d.use (regsOf wd), o.a.use (regsOf wd) 35] →
    ∃ w' x, exec (.redux o) s = .next (e.retired s w') ∧ e.w.wroteDst w' (e.g o.g) o.d wd (fun _ => x)) ∧
  (∀ (s : State) (e : Env) (o : OpScan) (wd : Nat), s.executes e → e.w.canonical → o.op.toNat < 3 →
    (o.ty = .f32 ∧ wd = 32 ∨ o.ty = .f64 ∧ wd = 64) → e.usable [useD o.d (regsOf wd), o.a.use (regsOf wd) 35] →
    ∃ w' x, exec (.scan o) s = .next (e.retired s w') ∧ e.w.wrote w' (e.g o.g) o.d wd x)

/-- R170 to R172: PLOP, PRMT, PACK and UNPK. -/
def Obligations.PredicatesAndBytes : Prop :=
  (∀ (s : State) (e : Env) (o : OpPlop), s.executes e → e.w.canonical → o.ty = .n32 →
    ∃ w', exec (.plop o) s = .next (e.retired s w') ∧
      e.w.wrotePred w' (e.g o.g) o.d (fun l =>
        o.lut.getLsbD ((if e.w.p o.a.toNat l then 2 else 0) + (if e.w.p o.b.toNat l then 1 else 0)))) ∧
  (∀ (s : State) (e : Env) (o : OpRRRR), s.executes e → e.w.canonical → o.ty = .n32 →
    e.usable [useD o.d 1, o.a.use 1 35, o.b.use 1 27, o.c.use 1 19] →
    ∃ w', exec (.prmt o) s = .next (e.retired s w') ∧ e.w.onlyVec w' (e.g o.g) (regsAt o.d.toNat 1) ∧
      ∀ l, l < 32 → (e.g o.g).getLsbD l = true → ∀ j, j < 4 → ∀ i, i < 8 →
        let ctl := (e.w.src o.c l).toNat / 2 ^ (8 * j) % 256
        let byte := ((e.w.src o.b l).toNat * 2 ^ 32 + (e.w.src o.a l).toNat) / 2 ^ (8 * (ctl % 8)) % 256
        (w'.v o.d.toNat l).getLsbD (8 * j + i) = match ctl / 8 % 4 with
          | 0 => byte.testBit i
          | 1 => false
          | 2 => byte.testBit 7
          | _ => byte.testBit (7 - i)) ∧
  (∀ (s : State) (e : Env) (o : OpPack) (n : Nat), s.executes e → e.w.canonical →
    (o.ty = .i4 ∧ n = 4 ∨ o.ty = .i8 ∧ n = 8 ∨ o.ty = .n8 ∧ n = 8 ∨ o.ty = .i16 ∧ n = 16 ∨ o.ty = .n16 ∧ n = 16) →
    o.j.toNat < 32 / n → e.usable [useD o.d 1, o.a.use 1 35, o.b.use 1 27] →
    ∃ w', exec (.pack o) s = .next (e.retired s w') ∧ e.w.onlyVec w' (e.g o.g) (regsAt o.d.toNat 1) ∧
      ∀ l, l < 32 → (e.g o.g).getLsbD l = true → ∀ i, i < 32 / n →
        let x := (e.w.src o.a l).toInt
        (w'.v o.d.toNat l).toNat / 2 ^ (n * i) % 2 ^ n =
          if i = o.j.toNat then modW n (if o.sat then satInt o.ty.isSigned n x else x)
          else (e.w.src o.b l).toNat / 2 ^ (n * i) % 2 ^ n) ∧
  (∀ (s : State) (e : Env) (o : OpUnpk) (n : Nat), s.executes e → e.w.canonical →
    (o.ty = .i4 ∧ n = 4 ∨ o.ty = .i8 ∧ n = 8 ∨ o.ty = .n8 ∧ n = 8 ∨ o.ty = .i16 ∧ n = 16 ∨ o.ty = .n16 ∧ n = 16) →
    o.j.toNat < 32 / n → e.usable [useD o.d 1, o.a.use 1 35] →
    ∃ w', exec (.unpk o) s = .next (e.retired s w') ∧
      e.w.wrote w' (e.g o.g) o.d 32 (fun l => readInt o.ty.isSigned n ((e.w.src o.a l).toNat / 2 ^ (n * o.j.toNat) % 2 ^ n)))

/-! ## The float class (R173 to R192) -/

/-- The format of an accepted type of the two- and three-operand float words. -/
def floatSpec (ty : Fmt) (f : FSpec) : Prop :=
  ty = .f32 ∧ f = specF32 ∨ ty = .f64 ∧ f = specF64 ∨ ty = .f16 ∧ f = specF16 ∨ ty = .bf16 ∧ f = specBf16

/-- `w'` is `w` with the code `val l k` in element `k` of register `d` in every lane of `g`. -/
def floatWrote (w w' : Warp) (g : LaneMask) (d : VReg) (f : FSpec) (val : Nat → Nat → Nat) : Prop :=
  w.onlyVec w' g (regsAt d.toNat (regsOf f.regWidth)) ∧
    ∀ l, l < 32 → g.getLsbD l = true → ∀ k, k < f.lanes → f.elem (w'.elem (.v d) f.regWidth l) k = val l k % 2 ^ f.width

/-- R173, R176 to R178: the two- and three-operand words. Each element is the exact result, rounded once under RM; FMIN and FMAX
take no rounding mode. -/
def Obligations.FloatArithmetic : Prop :=
  (∀ (s : State) (e : Env) (o : OpF3) (f : FSpec), s.executes e → e.w.canonical → e.noArithTraps → floatSpec o.ty f →
    e.usable [useD o.d (regsOf f.regWidth), o.a.use (regsOf f.regWidth) 35, o.b.use (regsOf f.regWidth) 27] →
    (o.rm ≠ .sr → ∀ p ∈ ([(.fadd, fun a b => addX o.rm a b), (.fsub, fun a b => addX o.rm a b.flip), (.fmul, fun a b => mulX a b)] :
        List ((OpF3 → Instr) × (XVal → XVal → XVal × Bool))),
      ∃ w', exec (p.1 o) s = .next (e.retired s w') ∧
        floatWrote e.w w' (e.g o.g) o.d f (fun l k =>
          (floatRes f o.rm e.flush (p.2 (e.fval f o.a l k) (e.fval f o.b l k))).1)) ∧
    (o.rm = .rne → ∀ p ∈ ([(.fmin, false), (.fmax, true)] : List ((OpF3 → Instr) × Bool)),
      ∃ w', exec (p.1 o) s = .next (e.retired s w') ∧
        floatWrote e.w w' (e.g o.g) o.d f (fun l k =>
          f.output e.flush (f.round .rne (minMaxX p.2 (e.fval f o.a l k) (e.fval f o.b l k))).1))) ∧
  (∀ (s : State) (e : Env) (o : OpFS) (f : FSpec) (b : XVal), s.executes e → e.w.canonical → e.noArithTraps → floatSpec o.ty f →
    e.immVal f o.imm = .ok b →
    e.usable [useD o.d (regsOf f.regWidth), o.a.use (regsOf f.regWidth) 35] →
    (o.rm ≠ .sr → ∀ p ∈ ([(.faddImm, fun a b => addX o.rm a b), (.fsubImm, fun a b => addX o.rm a b.flip),
        (.fmulImm, fun a b => mulX a b)] : List ((OpFS → Instr) × (XVal → XVal → XVal × Bool))),
      ∃ w', exec (p.1 o) s = .next (e.retired s w') ∧
        floatWrote e.w w' (e.g o.g) o.d f (fun l k => (floatRes f o.rm e.flush (p.2 (e.fval f o.a l k) b)).1)) ∧
    (o.rm = .rne → ∀ p ∈ ([(.fminImm, false), (.fmaxImm, true)] : List ((OpFS → Instr) × Bool)),
      ∃ w', exec (p.1 o) s = .next (e.retired s w') ∧
        floatWrote e.w w' (e.g o.g) o.d f (fun l k => f.output e.flush (f.round .rne (minMaxX p.2 (e.fval f o.a l k) b)).1))) ∧
  (∀ (s : State) (e : Env) (o : OpF4) (f : FSpec), s.executes e → e.w.canonical → e.noArithTraps → floatSpec o.ty f → o.rm ≠ .sr →
    e.usable [useD o.d (regsOf f.regWidth), o.a.use (regsOf f.regWidth) 35, o.b.use (regsOf f.regWidth) 27,
      o.c.use (regsOf f.regWidth) 19] →
    ∃ w', exec (.ffma o) s = .next (e.retired s w') ∧
      floatWrote e.w w' (e.g o.g) o.d f (fun l k =>
        (floatRes f o.rm e.flush (fmaX o.rm (e.fval f o.a l k) (e.fval f o.b l k) (e.fval f o.c l k))).1)) ∧
  (∀ (s : State) (e : Env) (o : OpF3) (f : FSpec), s.executes e → e.w.canonical → e.noArithTraps → floatSpec o.ty f → o.rm ≠ .sr →
    e.usable [useD o.d (regsOf f.regWidth), o.a.use (regsOf f.regWidth) 35, o.b.use 1 27] →
    ∃ w', exec (.fscale o) s = .next (e.retired s w') ∧
      floatWrote e.w w' (e.g o.g) o.d f (fun l k =>
        let n : Int := max (-5000) (min 5000 (e.w.src o.b l).toInt)
        (floatRes f o.rm e.flush (match e.fval f o.a l k with
          | .fin s m x => (.fin s m (x + n), false)
          | y => (y, false))).1))

/-- R180 to R182: FCLASS, FRCP, FSQRT and the approximations, with the results that the rules fix exactly: NaN, infinities,
zeros and negative sources.
Rests on log entry 11. -/
def Obligations.FloatUnary : Prop :=
  ∀ (s : State) (e : Env) (o : OpF2), s.executes e → e.w.canonical → e.noArithTraps →
    (∀ f : FSpec, (o.ty = .f32 ∧ f = specF32 ∨ o.ty = .f64 ∧ f = specF64) →
      (o.rm ≠ .sr → e.usable [useD o.d (regsOf f.regWidth), o.a.use (regsOf f.regWidth) 35] →
        (∃ w', exec (.frcp o) s = .next (e.retired s w') ∧
          floatWrote e.w w' (e.g o.g) o.d f (fun l k => match e.fval f o.a l k with
            | .nan => f.qnan
            | .inf n => f.sgn n
            | .fin n 0 _ => f.sgn n + f.infCode
            | .fin n a x => f.output e.flush (f.roundRat o.rm n 1 a (-x)).1)) ∧
        (∃ w', exec (.fsqrt o) s = .next (e.retired s w') ∧
          floatWrote e.w w' (e.g o.g) o.d f (fun l k => match e.fval f o.a l k with
            | .nan => f.qnan
            | .inf n => if n then f.qnan else f.infCode
            | .fin n 0 _ => f.sgn n
            | .fin true _ _ => f.qnan
            | .fin false a x => f.output e.flush (f.round o.rm (sqrtX a x)).1))) ∧
      (o.rm = .rne → e.usable [useD o.d 1, o.a.use (regsOf f.regWidth) 35] →
        ∃ w', exec (.fclass o) s = .next (e.retired s w') ∧
          e.w.wrote w' (e.g o.g) o.d 32 (fun l => (2 ^ f.classOf e.flush (e.fcode f o.a l 0) : Nat)))) ∧
    (o.ty = .f32 → o.rm = .rne → e.usable [useD o.d 1, o.a.use 1 35] →
      ∀ p ∈ ([(.frsq, specF32.qnan, 0, fun n => specF32.sgn n + specF32.infCode, some specF32.qnan),
              (.fexp2, 0, specF32.infCode, fun _ => 0x3F800000, none),
              (.flog2, specF32.qnan, specF32.infCode, fun _ => specF32.sgn true + specF32.infCode, some specF32.qnan),
              (.fsin, specF32.qnan, specF32.qnan, fun n => specF32.sgn n, none),
              (.fcos, specF32.qnan, specF32.qnan, fun _ => 0x3F800000, none)] :
            List ((OpF2 → Instr) × Nat × Nat × (Bool → Nat) × Option Nat)),
        ∃ w', exec (p.1 o) s = .next (e.retired s w') ∧ e.w.onlyVec w' (e.g o.g) (regsAt o.d.toNat 1) ∧
          ∀ l, l < 32 → (e.g o.g).getLsbD l = true →
            let r := (w'.v o.d.toNat l).toNat
            match e.fval specF32 o.a l 0 with
            | .nan => r = specF32.qnan
            | .inf true => r = p.2.1
            | .inf false => r = p.2.2.1
            | .fin n 0 _ => r = p.2.2.2.1 n
            | .fin true _ _ => ∀ x, p.2.2.2.2 = some x → r = x
            | .fin false _ _ => True)

/-- R183 to R186: FCVT, FCVTI and ICVTF. The draws of stochastic rounding change only the generators of the lanes of g. -/
def Obligations.Conversions : Prop :=
  (∀ (s : State) (e : Env) (o : OpFCvt) (d : FSpec) (sf : Option FSpec), s.executes e → e.w.canonical → e.noArithTraps →
    cvtFmts o = some (some d, sf) → (o.ty = .n8 ∨ o.ty.fspec.isSome = true) →
    (o.src.toNat = 0 ∨ (9 ≤ o.src.toNat ∧ o.src.toNat ≤ 15)) →
    let ws := CvtFmt.width sf
    let n := o.n.toNat
    (o.rm = .sr → d = specF8e4 ∨ d = specF8e5 ∨ d = specF4) →
    1 ≤ n → n ≤ (if min ws d.width = 64 then 1 else 32 / min ws d.width) →
    (∀ i, o.a = .s i → groupRegs ws n ≤ regsOf ws) →
    e.usable [.v o.d.toNat (groupRegs d.width n) (regsOf d.width) 43, (match o.a with
      | .v i => .v i.toNat (groupRegs ws n) (regsOf ws) 35
      | .s i => .s i.toNat (groupRegs ws n) (regsOf ws) 35)] →
    ∃ w', exec (.fcvt o) s = .next (e.retired s w') ∧
      e.w.onlyVec { w' with rng := e.w.rng } (e.g o.g) (regsAt o.d.toNat (groupRegs d.width n)) ∧
      (o.rm ≠ .sr → w'.rng = e.w.rng) ∧
      (∀ l, l < 32 → (e.g o.g).getLsbD l = false → Tbl.get 0 w'.rng l = Tbl.get 0 e.w.rng l) ∧
      (o.rm ≠ .sr → ∀ l, l < 32 → (e.g o.g).getLsbD l = true → ∀ k, k < n →
        let x := cvtValue sf e.flush (e.w.groupElem o.a ws k l)
        w'.groupElem (.v o.d) d.width k l = d.output e.flush (d.round o.rm x.1 x.2).1 % 2 ^ d.width)) ∧
  (∀ (s : State) (e : Env) (o : OpCvt1) (wd : Nat) (f : FSpec), s.executes e → e.w.canonical → e.noArithTraps →
    o.ty.intWidth = some wd → o.rm ≠ .sr →
    (o.src.toNat = 12 ∧ f = specF16 ∨ o.src.toNat = 13 ∧ f = specBf16 ∨ o.src.toNat = 14 ∧ f = specF32 ∨
      o.src.toNat = 15 ∧ f = specF64) →
    e.usable [useD o.d (regsOf wd), o.a.use (regsOf f.regWidth) 35] →
    ∃ w', exec (.fcvti o) s = .next (e.retired s w') ∧
      e.w.wrote w' (e.g o.g) o.d wd (fun l => match e.fval f o.a l 0 with
        | .nan => 0
        | .inf n => satInt o.ty.isSigned wd (if n then -(2 ^ 64) else 2 ^ 64)
        | x => toInt o.rm o.ty.isSigned wd x)) ∧
  (∀ (s : State) (e : Env) (o : OpCvt1) (f : FSpec) (ws : Nat) (sg : Bool), s.executes e → e.w.canonical → e.noArithTraps →
    floatSpec o.ty f → o.rm ≠ .sr →
    (o.src.toNat = 2 ∧ ws = 32 ∧ sg = false ∨ o.src.toNat = 3 ∧ ws = 64 ∧ sg = false ∨ o.src.toNat = 6 ∧ ws = 32 ∧ sg = true ∨
      o.src.toNat = 7 ∧ ws = 64 ∧ sg = true) →
    e.usable [useD o.d (regsOf f.regWidth), o.a.use (regsOf ws) 35] →
    ∃ w', exec (.icvtf o) s = .next (e.retired s w') ∧
      e.w.wrote w' (e.g o.g) o.d f.regWidth (fun l =>
        (floatRes f o.rm e.flush (.ofInt (readInt sg ws (e.w.elem o.a ws l)), false)).1))

/-- Element `i` after `s` stages of the transform of R124 on the f32 codes `x`: stage s takes the pairs i, i + 2^s. -/
def hadValue (flush : Bool) (x : Nat → Nat) : Nat → Nat → Nat
  | 0, i => x i
  | s + 1, i =>
    let v := fun j => specF32.input flush (hadValue flush x s j)
    (floatRes specF32 .rne flush
      (if bit i s then addX .rne (v (i - 2 ^ s)) (v i).flip else addX .rne (v i) (v (i + 2 ^ s)))).1

/-- R124: the factor of the normalised transform, by LEN. -/
def hadFactor (len : Nat) : XVal :=
  if len = 0 then specF32.value 0x3E3504F3 else if len = 1 then .fin false 1 (-3)
  else if len = 2 then specF32.value 0x3DB504F3 else .fin false 1 (-4)

/-- R124, R187 to R191: FDOT2, CMUL, HAD, QNT and DQNT with their values. -/
def Obligations.FloatGroups : Prop :=
  (∀ (s : State) (e : Env) (o : OpF4) (f : FSpec), s.executes e → e.w.canonical → e.noArithTraps → o.rm ≠ .sr →
    (o.ty = .f16 ∧ f = specF16 ∨ o.ty = .bf16 ∧ f = specBf16) →
    e.usable [useD o.d 1, o.a.use 1 35, o.b.use 1 27, o.c.use 1 19] →
    ∃ w', exec (.fdot2 o) s = .next (e.retired s w') ∧
      e.w.wrote w' (e.g o.g) o.d 32 (fun l =>
        (floatRes specF32 o.rm e.flush (sumTerms o.rm [mulX (e.fval f o.a l 0) (e.fval f o.b l 0),
          mulX (e.fval f o.a l 1) (e.fval f o.b l 1), (e.fval specF32 o.c l 0, false)])).1)) ∧
  (∀ (s : State) (e : Env) (o : OpCMul) (f : FSpec), s.executes e → e.w.canonical → e.noArithTraps → o.rm ≠ .sr →
    (o.ty = .c64 ∧ f = specF32 ∨ o.ty = .c128 ∧ f = specF64) →
    let n := 2 * regsOf f.regWidth
    e.usable ([useD o.d n, o.a.use n 35, o.b.use n 27] ++ (match o.c with | some c => [c.use n 19] | none => [])) →
    ∃ w', exec (.cmul o) s = .next (e.retired s w') ∧ e.w.onlyVec w' (e.g o.g) (regsAt o.d.toNat n) ∧
      ∀ l, l < 32 → (e.g o.g).getLsbD l = true →
        let a := fun i => e.cpart f o.a i l
        let b := fun i => if i = 1 ∧ o.cj = true then (e.cpart f o.b i l).flip else e.cpart f o.b i l
        let c := fun i => match o.c with | some c => e.cpart f c i l | none => XVal.zero false
        let less := mulX (a 1) (b 1)
        let re := (floatRes f o.rm e.flush (sumTerms o.rm [mulX (a 0) (b 0), (less.1.flip, less.2), (c 0, false)])).1
        let im := (floatRes f o.rm e.flush (sumTerms o.rm [mulX (a 0) (b 1), mulX (a 1) (b 0), (c 1, false)])).1
        ∀ j, j < n → (w'.v (o.d.toNat + j) l).toNat =
          (if j < n / 2 then re / 2 ^ (32 * j) else im / 2 ^ (32 * (j - n / 2))) % 2 ^ 32) ∧
  (∀ (s : State) (e : Env) (o : OpHad), s.executes e → e.w.canonical → e.noArithTraps → o.rm = .rne →
    (o.ty = .f32 ∨ o.ty = .f16 ∨ o.ty = .bf16) →
    let n := 2 ^ o.len.toNat
    o.d.toNat % n = 0 → o.a.toNat % n = 0 →
    (o.a.toNat = o.d.toNat ∨ o.d.toNat + n ≤ o.a.toNat ∨ o.a.toNat + n ≤ o.d.toNat) →
    e.usable [.v o.d.toNat n 1 43, .v o.a.toNat n 1 35] →
    ∃ w', exec (.had o) s = .next (e.retired s w') ∧ e.w.onlyVec w' (e.g o.g) (regsAt o.d.toNat n) ∧
      ∀ f, o.ty.fspec = some f →
        let x := fun i => (floatRes specF32 .rne e.flush
          (f.input e.flush ((e.w.v (o.a.toNat + i / 32) (i % 32)).toNat % 2 ^ f.width), false)).1
        ∀ l, l < 32 → (e.g o.g).getLsbD l = true → ∀ j, j < n →
          let y := hadValue e.flush x (5 + o.len.toNat) (32 * j + l)
          (w'.v (o.d.toNat + j) l).toNat = (if o.nrm = true
            then (floatRes specF32 .rne e.flush (mulX (specF32.input e.flush y) (hadFactor o.len.toNat))).1 else y) % 2 ^ 32) ∧
  (∀ (s : State) (e : Env) (o : OpQnt) (bits : Nat), s.executes e → e.w.canonical → o.rm ≠ .sr →
    (o.ty = .i4 ∧ bits = 4 ∨ o.ty = .i8 ∧ bits = 8) →
    e.usable [useD o.d 1, .v o.a.toNat (32 / bits) 1 35, o.b.use 1 27] →
    ∃ w', exec (.qnt o) s = .next (e.retired s w') ∧ e.w.onlyVec w' (e.g o.g) (regsAt o.d.toNat 1) ∧
      ∀ l, l < 32 → (e.g o.g).getLsbD l = true → ∀ k, k < 32 / bits →
        let x := specF32.input e.flush (e.w.v (o.a.toNat + k) l).toNat
        (w'.v o.d.toNat l).toNat / 2 ^ (bits * k) % 2 ^ bits =
          if x.isNan then 0 else modW bits (toInt o.rm true bits (mulX x (e.fval specF32 o.b l 0)).1)) ∧
  (∀ (s : State) (e : Env) (o : OpF3) (bits : Nat), s.executes e → e.w.canonical → e.noArithTraps → o.rm ≠ .sr →
    (o.ty = .i4 ∧ bits = 4 ∨ o.ty = .i8 ∧ bits = 8) →
    e.usable [.v o.d.toNat (32 / bits) 1 43, o.a.use 1 35, o.b.use 1 27] →
    ∃ w', exec (.dqnt o) s = .next (e.retired s w') ∧ e.w.onlyVec w' (e.g o.g) (regsAt o.d.toNat (32 / bits)) ∧
      ∀ l, l < 32 → (e.g o.g).getLsbD l = true → ∀ k, k < 32 / bits →
        (w'.v (o.d.toNat + k) l).toNat =
          (floatRes specF32 o.rm e.flush (mulX (.ofInt (signedOf bits ((e.w.src o.a l).toNat / 2 ^ (bits * k) % 2 ^ bits)))
            (e.fval specF32 o.b l 0))).1 % 2 ^ 32)

/-- R113: with a trap enabled in the mode that the word was dispatched under, a condition that it enables in some lane of g ends the
word in warp trap 11 with these lanes in %trfmask and every condition that arose in them in %trinfo; no destination is written.
Stated for FADD, FSUB and FMUL. -/
def arithmeticTrapRule : Prop :=
  ∀ (s : State) (e : Env) (o : OpF3) (f : FSpec), s.executes e → floatSpec o.ty f → o.rm ≠ .sr →
    e.usable [useD o.d (regsOf f.regWidth), o.a.use (regsOf f.regWidth) 35, o.b.use (regsOf f.regWidth) 27] →
    ∀ p ∈ ([(.fadd, fun a b => addX o.rm a b), (.fsub, fun a b => addX o.rm a b.flip), (.fmul, fun a b => mulX a b)] :
      List ((OpF3 → Instr) × (XVal → XVal → XVal × Bool))),
      let cond := fun l => (List.range f.lanes).foldl (fun c k =>
        Conds.or c (floatRes f o.rm e.flush (p.2 (e.fval f o.a l k) (e.fval f o.b l k))).2) {}
      let hit := (lanesOf (e.g o.g)).filter (fun l => (cond l).enabled e.c.mode != 0)
      hit ≠ [] →
      ∃ info, exec (p.1 o) s = .next (e.trapped s ⟨11, maskOf hit, info, []⟩) ∧
        ∀ b, b < 3 → info.testBit b = hit.any (fun l => (cond l).bits.testBit b)

/-! ## Special registers (R18, R41, R163 to R165, R309, R310) -/

/-- R18, R163, R164: SRD writes the register it names: the whole value under .n64, its low word under .n32, its high word with HI.
The table names what the numbered registers hold.
Rests on log entries 7, 78. -/
def Obligations.SpecialRead : Prop :=
  ∀ (s : State) (e : Env) (o : OpSRd) (i : SpecInfo), s.executes e → e.w.canonical → o.ty = .n32 ∨ o.ty = .n64 →
    specInfo o.x.toNat = some i → (128 ≤ o.x.toNat → e.x.priv = true) →
    (o.hi = true → o.ty = .n32 ∧ i.wide = true) → (∀ d, o.d = .s d → i.perLane = false) →
    let wd := if o.ty = .n64 then 64 else 32
    e.usable [o.d.use (regsOf wd)] →
    (∃ w', exec (.srd o) s = .next (e.retired s w') ∧
      e.w.wroteDst w' (e.g o.g) o.d wd (fun l =>
        ((if o.hi then e.special s o.x.toNat l / 2 ^ 32 else e.special s o.x.toNat l : Nat) : Int))) ∧
    ∀ l, ∀ p ∈ ([(0, e.wg.base.toNat + 32 * e.w.widx + l), (1, l), (2, e.w.widx), (3, e.wg.wg.toNat), (4, e.w.lmask.toNat),
        (5, e.c.core), (6, e.c.core / 8), (8, s.rank), (9, s.clk % 2 ^ 64),
        (32, e.w.trcause.toNat), (33, e.w.tramask.toNat), (34, e.w.trfmask.toNat), (35, e.w.trpc.toNat),
        (36, (Tbl.get 0 e.w.trpcv l).toNat), (37, (Tbl.get 0 e.w.traddr l).toNat), (38, e.w.trinfo.toNat),
        (49, e.w.rngSeed.toNat), (128, e.x.key % 8 + if e.x.priv then 8 else 0), (129, e.x.mode.toNat), (130, e.x.hand.toNat),
        (131, e.x.save.toNat), (132, e.x.stopa.toNat), (133, e.x.pool.toNat)] : List (Nat × Nat)),
      e.special s p.1 l = p.2

/-- R110, R165, R309: SWR of %rngseed reseeds every launched lane's generator; SWR of %trpcv, in the handler, gives each lane of g
its own value; in a privileged context SWR of a setting gives it a legal value. -/
def specialWriteRule : Prop :=
  (∀ (s : State) (e : Env) (o : OpSWr), s.executes e → e.w.canonical → o.x.toNat = 49 → o.ty = .n32 → e.usable [o.a.use 1 35] →
    e.g o.g ≠ 0 →
    ∃ w', exec (.swr o) s = .next (e.retired s w') ∧ { w' with rngSeed := e.w.rngSeed, rng := e.w.rng } = e.w ∧
      w'.rngSeed = e.w.src o.a (lowest (e.g o.g)) ∧
      ∀ l, l < 32 → Tbl.get 0 w'.rng l = if e.w.lmask.getLsbD l then seedState w'.rngSeed (e.wid l) else Tbl.get 0 e.w.rng l) ∧
  (∀ (s : State) (e : Env) (o : OpSWr), s.executes e → Tbl.wf 0 e.w.trpcv = true → e.w.inHandler = true → o.x.toNat = 36 →
    o.ty = .n64 → e.usable [o.a.use 2 35] →
    ∃ w', exec (.swr o) s = .next (e.retired s w') ∧ { w' with trpcv := e.w.trpcv, arrSaved := e.w.arrSaved } = e.w ∧
      ∀ l, l < 32 → Tbl.get 0 w'.trpcv l = if (e.g o.g).getLsbD l then e.w.src64 o.a l else Tbl.get 0 e.w.trpcv l) ∧
  (∀ (s : State) (e : Env) (o : OpSWr) (wd : Nat), s.executes e → e.x.priv = true → e.g o.g ≠ 0 →
    (o.x.toNat = 129 ∧ wd = 32 ∧ o.ty = .n32 ∨ o.x.toNat = 133 ∧ wd = 32 ∧ o.ty = .n32 ∨
      (o.x.toNat = 130 ∨ o.x.toNat = 131 ∨ o.x.toNat = 132) ∧ wd = 64 ∧ o.ty = .n64) →
    e.usable [o.a.use (regsOf wd) 35] →
    let v := e.w.elem o.a wd (lowest (e.g o.g))
    settingBad o.x.toNat v = false →
    exec (.swr o) s = .next (e.retired (s.modCtx e.x.key (fun x => x.setting o.x.toNat v)) e.w))

/-- R163, R165, R306, R310: in a user context, SRD and SWR of a privileged register take the privilege trap, cause 2, with the
opcode and the register's number in %trinfo, and write nothing. -/
def privilegedRule : Prop :=
  (∀ (s : State) (e : Env) (o : OpSRd), s.executes e → e.x.priv = false → 128 ≤ o.x.toNat → (o.ty = .n32 ∨ o.ty = .n64) →
    (specInfo o.x.toNat).all (fun i => !(o.hi && (o.ty == .n64 || !i.wide))) = true →
    [o.d.use (if o.ty = .n64 then 2 else 1)].findSome? Use.misaligned = none →
    exec (.srd o) s = .next (e.trapped s ⟨2, e.c.mask, 0x45 + o.x.toNat * 256, []⟩)) ∧
  (∀ (s : State) (e : Env) (o : OpSWr), s.executes e → e.x.priv = false → 128 ≤ o.x.toNat → (o.ty = .n32 ∨ o.ty = .n64) →
    (swrWidth o.x.toNat).all (fun wd => o.ty == if wd = 64 then .n64 else .n32) = true →
    [o.a.use (if o.ty = .n64 then 2 else 1) 35].findSome? Use.misaligned = none →
    exec (.swr o) s = .next (e.trapped s ⟨2, e.c.mask, 0x46 + o.x.toNat * 256, []⟩))

/-- R110, R163, R165, R306, R309, R310: writes of special registers, and the privileged ones in a user context. -/
def Obligations.SpecialWrites : Prop := specialWriteRule ∧ privilegedRule

/-! ## Control (R193 to R216) -/

/-- R136, R195 to R198: BRA, CALL, RET and BRX send each lane of g to its target and the rest of the group to the next word. CALL
leaves the address of the next word in the pair D. An entry that has resolved keeps the targets it resolved to.
Rests on log entries 22, 70. -/
def Obligations.ControlTransfers : Prop :=
  (∀ (s : State) (e : Env) (o : OpBra), s.executes e → Tbl.wf 0 e.w.pcs = true →
    let to' := e.c.pc + 8 * BitVec.signExtend 64 o.offw
    (∀ t, e.resolved = some t → t = allTo (e.g o.g) to') →
    ∃ w', exec (.bra o) s = .next { s.setWarp e.c.core e.c.slot w' with cur := none } ∧
      e.sent e.w w' (fun l => if (e.g o.g).getLsbD l then to' else e.c.pc + 8)) ∧
  (∀ (s : State) (e : Env) (o : OpCall), s.executes e → e.w.canonical → Tbl.wf 0 e.w.pcs = true → e.usable [useD o.d 2] →
    let to' := e.c.pc + 8 * BitVec.signExtend 64 o.offw
    (∀ t, e.resolved = some t → t = allTo (e.g o.g) to') →
    ∃ v w', exec (.call o) s = .next { s.setWarp e.c.core e.c.slot w' with cur := none } ∧
      e.w.wrote v (e.g o.g) o.d 64 (fun _ => (e.c.pc + 8).toNat) ∧
      e.sent v w' (fun l => if (e.g o.g).getLsbD l then to' else e.c.pc + 8)) ∧
  (∀ (s : State) (e : Env) (o : OpRet), s.executes e → Tbl.wf 0 e.w.pcs = true → e.usable [o.a.use 2 35] → e.resolved = none →
    ∃ w', exec (.ret o) s = .next { s.setWarp e.c.core e.c.slot w' with cur := none } ∧
      e.sent e.w w' (fun l => if (e.g o.g).getLsbD l then e.w.src64 o.a l else e.c.pc + 8)) ∧
  (∀ (s : State) (e : Env) (o : OpBrx), s.executes e → e.recordUsable o.rk.toNat → e.usable [o.a.use 1 35] → s.poison = [] →
    let r := recOf e.w.s o.rk.toNat
    let sz := if r.fmt = .i32 then 4 else 8
    let offs := (lanesOf (e.g o.g)).map (fun l => (l, (((e.w.src o.a l).toNat * sz : Nat) : Int)))
    (r.fmt = .i32 ∨ r.fmt = .n64) → (∀ l ∈ lanesOf (e.g o.g), (e.w.src o.a l).toNat < r.extOf 0) →
    e.reaches s r .read sz offs → e.owes s (e.g o.g) true = false → e.permitsLoads s r sz offs = true →
    ∃ ps t out, e.plan s r .read 0 sz offs = .ok ps ∧ e.loadLanes s ps true r.cpol .relaxed .none = .ok (t, out) ∧
      exec (.brx o) s = .next (e.finish s (.jump t (out.foldl (fun t p => Tbl.put t p.1
        (if r.fmt = .i32 then e.c.pc + 8 * BitVec.signExtend 64 (BitVec.ofNat 32 (leNat p.2)) else BitVec.ofNat 64 (leNat p.2))) []))))

/-- The count of BSYNC and BARV is the live threads, or a scalar's low 11 bits, from 1 to 1,024 (R206). -/
def countIs (e : Env) (cnt : Option SReg) (n : Option Nat) : Prop :=
  match cnt with
  | none => n = none
  | some i => ∃ k, n = some k ∧ k = (e.w.s i.toNat).toNat % 2 ^ 11 ∧ 1 ≤ k ∧ k ≤ 1024

/-- R199, R207 to R209, R212, R216: the words that wait, with some lane's guard true. The threads of g stand at the word in the wait
that it names, and the rest of the group goes on. BSYNC and CBAR first make the arrivals that the threads have not made yet. -/
def waitsRule : Prop :=
  (∀ (s : State) (e : Env) (o : OpWsync), s.executes e → e.g o.g ≠ 0 →
    e.usable (match o.m with | some i => [useS i 1 35] | none => []) →
    let m := match o.m with | some i => e.w.s i.toNat | none => 0xFFFFFFFF
    ((∃ l, l < 32 ∧ e.w.live.getLsbD l = true ∧ (e.g o.g).getLsbD l = false ∧ ∀ k, e.w.wait l ≠ .wsync k) ∨
      (e.w.live &&& e.g o.g ≠ 0 ∧ e.w.live &&& m &&& ~~~e.g o.g = 0 ∧ Tbl.wf 0 e.w.pcs = true ∧
        ∀ l, l < 32 → (e.g o.g).getLsbD l = true → e.w.pc l = e.c.pc)) →
    exec (.wsync o) s = .next (e.parked s (e.w.waitIn (lanesOf (e.g o.g)) (fun _ => .wsync m)) (e.g o.g))) ∧
  (∀ (s : State) (e : Env) (o : OpBsync) (n : Option Nat), s.executes e → e.g o.g ≠ 0 → e.usable (useBar o.b o.cnt) →
    countIs e o.cnt n → e.settled s (e.g o.g) →
    let r := s.arriveLanes e.wg.id e.w.widx o.b.toNat n (e.fresh (e.g o.g))
    let w := e.w.arrivedIn r.2
    exec (.bsync o) s =
      .next (e.parked r.1 (w.waitIn (lanesOf (e.g o.g)) (fun l => .bsync o.b.toNat (Tbl.get 0 w.phases l))) (e.g o.g))) ∧
  (∀ (s : State) (e : Env) (o : OpBwait), s.executes e → e.g o.g ≠ 0 → e.usable [.b o.b.toNat, o.ph.use 1 27] →
    exec (.bwait o) s =
      .next (e.parked s (e.w.waitIn (lanesOf (e.g o.g)) (fun l => .bwait o.b.toNat (e.w.src o.ph l))) (e.g o.g))) ∧
  (∀ (s : State) (e : Env) (o : OpCbar), s.executes e → e.g o.g ≠ 0 → o.mode.toNat = 0 → e.settled s (e.g o.g) →
    let r := s.cbarArrive e.wg e.w.widx (e.fresh (e.g o.g))
    let w := e.w.arrivedIn r.2
    exec (.cbar o) s = .next (e.parked r.1 (w.waitIn (lanesOf (e.g o.g)) (fun l => .cbar (Tbl.get 0 w.phases l))) (e.g o.g))) ∧
  (∀ (s : State) (e : Env) (o : OpCbar), s.executes e → e.g o.g ≠ 0 → o.mode.toNat = 2 →
    let new := e.fresh (e.g o.g)
    (∀ l ∈ new, e.w.cbarRec.getLsbD l = true) →
    let w := e.w.arrivedIn (new.map (fun l => (l, Tbl.get 0 e.w.cbarPh l)))
    exec (.cbar o) s = .next (e.parked s
      ({ w with cbarRec := w.cbarRec &&& ~~~maskOf new }.waitIn (lanesOf (e.g o.g)) (fun l => .cbar (Tbl.get 0 w.phases l))) (e.g o.g))) ∧
  (∀ (s : State) (e : Env) (o : OpZ), s.executes e → e.g o.g ≠ 0 →
    exec (.waitpred o) s = .next (e.parked s (e.w.waitIn (lanesOf (e.g o.g)) (fun _ => .waitpred)) (e.g o.g)) ∧
    exec (.rdv o) s = .next (e.parked s (e.w.waitIn (lanesOf (e.g o.g)) (fun _ => .rdv)) (e.g o.g)))

/-- R206 to R208: BARV makes an arrival for each lane of g and gives it the phase it entered; BEXPECT adds its count to the
balance; CBAR in mode 1 records the arrivals it makes. None of them waits. -/
def arrivalsRule : Prop :=
  (∀ (s : State) (e : Env) (o : OpBarv) (n : Option Nat), s.executes e → e.w.canonical → e.g o.g ≠ 0 →
    e.usable ((match o.d with | some d => [useD d 1] | none => []) ++ useBar o.b o.cnt) → countIs e o.cnt n → e.settled s (e.g o.g) →
    let r := s.arriveLanes e.wg.id e.w.widx o.b.toNat n (lanesOf (e.g o.g))
    ∃ w', exec (.barv o) s = .next (e.retired r.1 w') ∧
      (match o.d with
        | some d => e.w.wrote w' (e.g o.g) d 32 (fun l => ((r.2.find? (fun p => p.1 == l)).map (·.2.toNat)).getD 0)
        | none => w' = e.w)) ∧
  (∀ (s : State) (e : Env) (o : OpBexpect), s.executes e → e.g o.g ≠ 0 → e.usable [.b o.b.toNat, useS o.n 1 27] →
    exec (.bexpect o) s = .next (e.retired
      (s.modBar e.wg.id o.b.toNat (fun b => { b with bal := b.bal + e.w.s o.n.toNat }.settle (!s.wgEvicted e.wg.id))) e.w)) ∧
  (∀ (s : State) (e : Env) (o : OpCbar), s.executes e → e.g o.g ≠ 0 → o.mode.toNat = 1 → Tbl.wf 0 e.w.cbarPh = true →
    e.settled s (e.g o.g) →
    let r := s.cbarArrive e.wg e.w.widx (lanesOf (e.g o.g))
    ∃ w', exec (.cbar o) s = .next (e.retired r.1 w') ∧ { w' with cbarRec := e.w.cbarRec, cbarPh := e.w.cbarPh } = e.w ∧
      ∀ p ∈ r.2, w'.cbarRec.getLsbD p.1 = true) ∧
  (∀ (s : State) (e : Env), s.executes e →
    (∀ o : OpWsync, e.g o.g = 0 → e.usable (match o.m with | some i => [useS i 1 35] | none => []) →
      exec (.wsync o) s = .next (e.retired s e.w)) ∧
    (∀ o : OpBsync, e.g o.g = 0 → e.usable (useBar o.b o.cnt) → exec (.bsync o) s = .next (e.retired s e.w)) ∧
    (∀ o : OpBarv, e.g o.g = 0 → e.usable ((match o.d with | some d => [useD d 1] | none => []) ++ useBar o.b o.cnt) →
      exec (.barv o) s = .next (e.retired s e.w)) ∧
    (∀ o : OpBwait, e.g o.g = 0 → e.usable [.b o.b.toNat, o.ph.use 1 27] → exec (.bwait o) s = .next (e.retired s e.w)) ∧
    (∀ o : OpBexpect, e.g o.g = 0 → e.usable [.b o.b.toNat, useS o.n 1 27] → exec (.bexpect o) s = .next (e.retired s e.w)) ∧
    (∀ o : OpCbar, e.g o.g = 0 → exec (.cbar o) s = .next (e.retired s e.w)) ∧
    (∀ o : OpZ, e.g o.g = 0 → exec (.waitpred o) s = .next (e.retired s e.w) ∧ exec (.rdv o) s = .next (e.retired s e.w)))

/-- R206, R207: one barrier. The first arrival of a phase fixes its target; when the arrivals reach it with a zero balance the
phase advances and the barrier is fresh; with a balance left it does not advance. -/
def barrierPhasesRule : Prop :=
  (∀ (b : Barrier) (range thread live : Nat) (count : Option Nat), b.arr + 1 < range → b.bal = 0 →
    let n := count.getD live
    let ended : Barrier :=
      ⟨b.phase + 1, 0, none, false, 0, false, b.engines.filter (· != b.phase) ++ (if b.engine then [b.phase] else []), []⟩
    (b.tgt = none →
      (n ≤ b.arr + 1 → b.arrive range thread count live true = ended) ∧
      (b.arr + 1 < n → b.arrive range thread count live true =
        ⟨b.phase, b.arr + 1, some n, count.isNone, 0, b.engine, b.engines, b.who ++ [thread]⟩)) ∧
    (∀ t, b.tgt = some t →
      (t ≤ b.arr + 1 → b.arrive range thread count live true = ended) ∧
      (b.arr + 1 < t → b.arrive range thread count live true =
        ⟨b.phase, b.arr + 1, some t, b.dflt, 0, b.engine, b.engines, b.who ++ [thread]⟩))) ∧
  (∀ (b : Barrier) (range thread live : Nat) (count : Option Nat), b.bal ≠ 0 →
    (b.arrive range thread count live true).phase = b.phase)

/-- The condition that ends the wait of a lane, for each wait that a retired word leaves (R194, R199, R207, R209, R212, R216, R244,
R250). -/
def waitHolds (s : State) (g : Wg) (l : Launch) (w : Warp) (lane : Nat) : Prop :=
  let passed := fun (b : Barrier) (p : Word) => b.phase ≠ p ∧ (b.phase - p).toNat < 2 ^ 31
  match w.wait lane with
  | .wsync m => ∀ k, k < 32 → w.live.getLsbD k = true → m.getLsbD k = true → (∃ n, w.wait k = .wsync n) ∧ w.pc k = w.pc lane
  | .bsync b p | .bwait b p => passed (g.bar b) p
  | .cbar p => ∃ c, s.cgOf g = some c ∧ passed c.bar p
  | .waitpred => s.predDone l = true
  | .rdv => ∀ f ∈ w.forks, s.progDone f = true
  | .cqwait q t => (BitVec.ofNat 32 (Tbl.get 0 g.done q) - t).toNat < 2 ^ 31
  | .cwait t => ∃ x, s.ctx? l.ctx = some x ∧ s.ticketDone x t = true
  | .ready | .ldfe _ | .cvld _ | .qmapRd .. | .tinv _ => False

/-- R194, R199, R207, R209, R212, R216, R244, R250: before a step, a thread whose wait's condition holds becomes ready at the next word;
any other stays where it is. -/
def waitEndsRule : Prop :=
  ∀ (s : State) (core slot lane : Nat) (w : Warp) (g : Wg) (l : Launch), slot < 32 → Tbl.risingFrom none s.warps = true →
    Tbl.wf 0 w.pcs = true → Tbl.wf .ready w.waits = true → s.warp? core slot = some w → s.wg? w.wg = some g →
    s.launch? g.launch = some l → lane < 32 → w.live.getLsbD lane = true → s.haltedOn l.ctx (s.dieOf core) = false →
    ∃ w', s.tick.warp? core slot = some w' ∧ w'.vregs = w.vregs ∧ w'.sregs = w.sregs ∧ w'.preds = w.preds ∧
      (waitHolds s g l w lane → w'.wait lane = .ready ∧ w'.pc lane = w.pc lane + 8) ∧
      (¬ waitHolds s g l w lane → w'.wait lane = w.wait lane ∧ w'.pc lane = w.pc lane)

/-- R194, R199, R206 to R209, R212, R216, R244, R250: the words that wait, the words that arrive, and the end of a wait.
Rests on log entries 20, 28. -/
def Obligations.Waiting : Prop := waitsRule ∧ arrivalsRule ∧ barrierPhasesRule ∧ waitEndsRule

/-- R202, R203, R28: NOP does nothing; PAUSE demotes the warp for 64 cycles; TRAP and BKPT retire and then take warp traps 13 and
12 with the lanes of g and their number. With g empty each of them retires with no effect. -/
def plainControlRule : Prop :=
  ∀ (s : State) (e : Env), s.executes e →
    (∀ o : OpZ, exec (.nop o) s = .next (e.retired s e.w)) ∧
    (∀ o : OpZ, exec (.pause o) s =
      .next (e.retired s (if e.g o.g = 0 then e.w else { e.w with demoted := some (s.clk + 64) }))) ∧
    (∀ o : OpK, (e.g o.g = 0 → exec (.trap o) s = .next (e.retired s e.w) ∧ exec (.bkpt o) s = .next (e.retired s e.w)) ∧
      (e.g o.g ≠ 0 →
        let t := s.setWarp e.c.core e.c.slot (e.w.advance e.c.pc (lanesOf e.c.mask))
        exec (.trap o) s = .next (e.trapped t ⟨13, e.g o.g, o.n.toNat, []⟩) ∧
        exec (.bkpt o) s = .next (e.trapped t ⟨12, e.g o.g, o.n.toNat, []⟩)))

/-- R201: EXIT marks the lanes of g as exited and takes them out of the barriers; the last threads of a warp free it. -/
def exitRule : Prop :=
  ∀ (s : State) (e : Env) (o : OpZ), s.executes e → e.g o.g ≠ 0 → e.w.bankCount = 0 →
    let t := (s.setWarp e.c.core e.c.slot { e.w with exited := e.w.exited ||| e.g o.g }).leaveBarriers e.wg e.w.widx (lanesOf (e.g o.g))
    (e.w.live &&& ~~~e.g o.g ≠ 0 →
      (∀ v, (e.finish s (.ok t)).warp? e.c.core e.c.slot = some v → v.stuck = false) →
      exec (.exit o) s = .next (e.finish s (.ok t))) ∧
    (e.w.live &&& ~~~e.g o.g = 0 → ¬ (e.wg.exitedWarps + 1 = e.wg.warps ∧ s.wgBusy e.wg = true) →
      exec (.exit o) s = .next (e.finish s (.ok (t.retireWarp e.c.core e.c.slot ((t.wg? e.w.wg).getD e.wg)))))

/-- R28, R201 to R203: the plain control words and EXIT. -/
def Obligations.PlainControl : Prop := plainControlRule ∧ exitRule

/-- R40, R41, R45: taking a warp trap. With a handler, the trap registers receive the cause, the lanes, the word's address, each
live thread's own next address, the addresses and the information, and every live thread stands at the handler; without one the
context halts with cause 39, and inside the handler with cause 38. -/
def takesTrapRule : Prop :=
  ∀ (s : State) (e : Env) (t : Trap), s.executes e →
    (e.w.inHandler = false → e.x.hand ≠ 0 → Tbl.wf 0 e.w.pcs = true →
      ∃ w', e.takeTrap s t = s.setWarp e.c.core e.c.slot w' ∧ w'.inHandler = true ∧ w'.trcause = BitVec.ofNat 32 t.cause ∧
        w'.tramask = e.c.mask ∧ w'.trfmask = t.fmask ∧ w'.trpc = e.c.pc ∧ w'.traddr = t.addr ∧ w'.trinfo = BitVec.ofNat 32 t.info ∧
        w'.waits = [] ∧ w'.rob = [] ∧ w'.arrSaved = e.w.arrived ∧ w'.phSaved = e.w.phases ∧
        w'.vregs = e.w.vregs ∧ w'.sregs = e.w.sregs ∧ w'.preds = e.w.preds ∧
        (∀ l, l < 32 → e.w.live.getLsbD l = true → w'.pc l = e.x.hand ∧ Tbl.get 0 w'.trpcv l = e.w.pc l) ∧
        (∀ l, l < 32 → e.w.live.getLsbD l = false → w'.pc l = e.w.pc l)) ∧
    (e.w.inHandler = false → e.x.hand = 0 → e.takeTrap s t = e.halted s { cause := 39, lmask := t.fmask, tcause := t.cause, va := t.va }) ∧
    (e.w.inHandler = true → e.takeTrap s t = e.halted s { cause := 38, lmask := t.fmask, tcause := t.cause, va := t.va } ∧
      ∀ o : OpK, e.g o.g ≠ 0 →
        let u := s.setWarp e.c.core e.c.slot (e.w.advance e.c.pc (lanesOf e.c.mask))
        exec (.trap o) s = .next { e.halted u { cause := 38, lmask := e.g o.g, tcause := 13 } with cur := none } ∧
        exec (.bkpt o) s = .next { e.halted u { cause := 38, lmask := e.g o.g, tcause := 12 } with cur := none })

/-- R44, R204: RFE, with every live thread of the warp in the handler and its guard true, sends each to its %trpcv entry; the trap
registers keep their values. With a live thread elsewhere it is illegal convergence, which in the handler halts the context. Outside the
handler it is an illegal instruction. -/
def trapReturnRule : Prop :=
  ∀ (s : State) (e : Env) (o : OpZ), s.executes e →
    (e.w.inHandler = true → e.w.live &&& ~~~e.c.mask = 0 → e.w.live &&& ~~~e.g o.g = 0 → Tbl.wf 0 e.w.pcs = true →
      ∃ w', exec (.rfe o) s = .next { s.setWarp e.c.core e.c.slot w' with cur := none } ∧ w'.inHandler = false ∧
        w'.arrived = e.w.arrSaved ∧ w'.phases = e.w.phSaved ∧ w'.trcause = e.w.trcause ∧ w'.tramask = e.w.tramask ∧
        w'.trfmask = e.w.trfmask ∧ w'.trpc = e.w.trpc ∧ w'.trpcv = e.w.trpcv ∧ w'.traddr = e.w.traddr ∧ w'.trinfo = e.w.trinfo ∧
        w'.vregs = e.w.vregs ∧ w'.sregs = e.w.sregs ∧ w'.preds = e.w.preds ∧
        ∀ l, l < 32 → w'.pc l = if e.w.live.getLsbD l then Tbl.get 0 e.w.trpcv l else e.w.pc l) ∧
    (e.w.inHandler = true → (e.w.live &&& ~~~e.c.mask ≠ 0 ∨ e.w.live &&& ~~~e.g o.g ≠ 0) →
      exec (.rfe o) s = .next { e.halted s { cause := 38, lmask := e.c.mask, tcause := 3 } with cur := none }) ∧
    (e.w.inHandler = false → exec (.rfe o) s = .next (e.trapped s ⟨1, e.c.mask, 0, []⟩))

/-- R40, R41, R44, R45, R204: taking a warp trap and returning from it. -/
def Obligations.Traps : Prop := takesTrapRule ∧ trapReturnRule

/-- R211, R213, R214: HINTNEXT counts the workgroup once; FORK starts the program on a sequencer that runs none; the
words of engine programs are illegal in a warp. -/
def Obligations.EnginePrograms : Prop :=
  ∀ (s : State) (e : Env), s.executes e →
    (∀ o : OpZ, e.g o.g ≠ 0 → e.wg.hinted = false →
      exec (.hintnext o) s = .next (e.retired ((s.modWg e.wg.id (fun g => { g with hinted := true })).modLaunch e.l.id
        (fun l => { l with hints := l.hints + 1 })) e.w)) ∧
    (∀ o : OpFork, o.q.toNat < 10 → e.g o.g ≠ 0 →
      s.seqrs.any (fun q => q.core == e.c.core && q.mat == decide (8 ≤ o.q.toNat)) = false →
      ∃ q : Seqr, exec (.fork o) s = .next (e.retired { s with nextId := s.nextId + 1, seqrs := s.seqrs ++ [q] }
          { e.w with forks := e.w.forks ++ [s.nextId] }) ∧
        q.id = s.nextId ∧ q.core = e.c.core ∧ q.mat = decide (8 ≤ o.q.toNat) ∧
        q.pc = e.c.pc + 8 * BitVec.signExtend 64 o.offw ∧ q.nsc = e.l.pk.scal ∧ q.shape = e.w.shape ∧ q.handles = e.w.handles ∧
        q.loops = [] ∧ ∀ i, i < e.l.pk.scal → Tbl.wf 0 e.w.sregs = true → Tbl.get 0 q.sregs i = e.w.s i) ∧
    (∀ o : OpLoop, exec (.loop o) s = .next (e.trapped s ⟨1, e.c.mask, 0, []⟩)) ∧
    (∀ o : OpZ, exec (.endl o) s = .next (e.trapped s ⟨1, e.c.mask, 0, []⟩) ∧
      exec (.endp o) s = .next (e.trapped s ⟨1, e.c.mask, 0, []⟩))

/-! ## Loads, stores, atomics and fences (R218 to R235, R245) -/

/-- Instruction `i` loads: its lanes' accesses `offs` are planned and performed, each lane of the plan receives its bytes, and the group
goes on, with `after` done to the warp. -/
def loadsThrough (s : State) (e : Env) (i : Instr) (r : Rec) (d : VReg) (n : Nat) (sg cached : Bool) (ord : Ord) (scp : Scope)
    (offs : List (Nat × Int)) (after : State → Warp → Warp) : Prop :=
  ∃ ps t out, e.plan s r .read 0 n offs = .ok ps ∧ e.loadLanes s ps cached r.cpol ord scp = .ok (t, out) ∧
    out.map (·.1) = offs.map (·.1) ∧ exec i s = .next (e.finish s (.ok (e.upd (e.landLanes t d sg out) (after t))))

/-- Instruction `i` stores: its lanes' accesses `offs` are planned and performed, and the group goes on. -/
def storesThrough (s : State) (e : Env) (i : Instr) (r : Rec) (n : Nat) (data : Nat → List Byte) (ord : Ord) (scp : Scope)
    (offs : List (Nat × Int)) : Prop :=
  ∃ ps, e.plan s r .write 1 n offs = .ok ps ∧ ps.map (·.1) = offs.map (·.1) ∧
    exec i s = .next (e.finish s (.ok (e.storeLanes s ps data ord scp)))

/-- R222 to R224, R343: LD, LDW, CVLD, ST and STW complete when the record and the registers are usable, every lane may access its bytes
and finds the permits of an access that is made at its home, the lanes of the tile forms make one aligned block, and CVLD may read in its
convoy or its hold has expired. -/
def recordLanesRule : Prop :=
  ∀ (s : State) (e : Env) (o : OpMem) (n : Nat) (sg : Bool), s.executes e → e.recordUsable o.rk.toNat →
    let r := recOf e.w.s o.rk.toNat
    e.memWidth o.w r = .ok (n, sg) → e.usable (useMem o.d o.a n) →
    let offs := e.offsets (lanesOf (e.g o.g)) o.a o.off.toInt
    let block := e.whole o.g ∧ e.w.lmask.getLsbD 0 = true ∧
      ∃ a, a % (32 * n) = 0 ∧ ∀ p ∈ offs, r.addr p.2 = (a + n * p.1) % 2 ^ 64
    (s.poison = [] → e.reaches s r .read n offs → e.owes s (e.g o.g) true = false → e.permitsLoads s r n offs = true →
      loadsThrough s e (.ld o) r o.d n sg true o.ord o.scp offs (fun _ w => w) ∧
      (block → loadsThrough s e (.ldw o) r o.d n sg true o.ord o.scp offs (fun _ w => w)) ∧
      (e.g o.g ≠ 0 → e.w.cvPass = true ∨ s.cvMayRead (s.dieOf e.c.core) e.l.id e.w r.base = true →
        loadsThrough s e (.cvld o) r o.d n sg false .relaxed .none offs
          (fun t w => { w with assoc := t.cvAdvance (s.dieOf e.c.core) e.l.id w r.base }))) ∧
    (e.reaches s r .write n offs → e.settled s (e.g o.g) → e.permitsStores s r n offs = true →
      storesThrough s e (.st o) r n (fun l => e.w.storeData o.d n l) o.ord o.scp offs ∧
      (block → storesThrough s e (.stw o) r n (fun l => e.w.storeData o.d n l) o.ord o.scp offs))

/-- R235, R343: RECLD and RECST complete, with some lane's guard true, when the record and the scalars are usable and the lowest lane may
access the 32 bytes at an address that is a multiple of 32, and finds their permits. RECLD writes the eight scalars of its destination and no other. -/
def recordMovesRule : Prop :=
  ∀ (s : State) (e : Env) (o : OpRec), s.executes e → e.w.canonical → e.g o.g ≠ 0 → e.recordUsable o.rk.toNat →
    e.usable ([.s (8 * o.d.toNat) 8 1 43] ++ (match o.a with | some i => [useS i 1 35] | none => [])) →
    let r := recOf e.w.s o.rk.toNat
    let off : Int := (match o.a with | some i => ((e.w.s i.toNat).toNat : Int) | none => 0) + o.off.toInt
    let offs := [(lowest (e.g o.g), off)]
    r.addr off % 32 = 0 →
    (s.poison = [] → e.reaches s r .read 32 offs → e.owes s (e.g o.g) true = false → e.permitsLoads s r 32 offs = true →
      ∃ ps t l bs w', e.plan s r .read 0 32 offs = .ok ps ∧ e.loadLanes s ps true r.cpol o.ord o.scp = .ok (t, [(l, bs)]) ∧
        exec (.recld o) s = .next (e.retired t w') ∧ e.w.onlyScal w' (regsAt (8 * o.d.toNat) 8) ∧
        ∀ j, j < 8 → w'.s (8 * o.d.toNat + j) = BitVec.ofNat 32 (leNat ((bs.drop (4 * j)).take 4))) ∧
    (e.reaches s r .write 32 offs → e.settled s (e.g o.g) → e.permitsStores s r 32 offs = true →
      storesThrough s e (.recst o) r 32 (fun _ => leBytes 32 (wordsAt e.w.s (8 * o.d.toNat) 8)) o.ord o.scp offs)

/-- R222 to R224, R235: the loads and stores through a record complete where their lanes may access their addresses. What a load reads and
what a store leaves are the subject of two further statements.
Rests on log entries 15, 16, 18, 22, 68, 70. -/
def Obligations.RecordAccesses : Prop := recordLanesRule ∧ recordMovesRule

/-- R222, R223, R235: a load leaves every memory as it was: package memory and the writes on their way, host memory, peer packages and
the scratchpads. (No line has an uncorrectable error: R75 repairs one.) -/
def loadFrameRule : Prop :=
  ∀ (s s' : State) (e : Env) (ps : List (Nat × LaneAcc)) (cached : Bool) (cpol : Nat) (ord : Ord) (scp : Scope)
    (out : List (Nat × List Byte)), s.poison = [] → e.loadLanes s ps cached cpol ord scp = .ok (s', out) →
    s'.mem = s.mem ∧ s'.writes = s.writes ∧ s'.hostMem = s.hostMem ∧ s'.peerMem = s.peerMem ∧ s'.scr = s.scr ∧ s'.fe = s.fe ∧
      s'.tiles = s.tiles ∧ s'.banks = s.banks ∧ s'.warps = s.warps ∧ s'.wgs = s.wgs ∧ s'.ctxs = s.ctxs ∧
      out.map (·.1) = ps.map (·.1)

/-- R95, R96: a load at a scope of .cl or wider reads, in each lane, what its die's agents read at the lane's address: the home copy
with the die's own writes over it. -/
def loadValueRule : Prop :=
  ∀ (s s' : State) (e : Env) (ps : List (Nat × LaneAcc)) (cpol : Nat) (ord : Ord) (scp : Scope) (out : List (Nat × List Byte)),
    s.poison = [] → scp.wide = true → e.loadLanes s ps true cpol ord scp = .ok (s', out) →
    out = ps.map (fun p => (p.1, match p.2 with
      | .fill bs => bs
      | .go cs => cs.flatMap (fun c => match c.pl with
        | .dram pa _ _ => s.dieBytes (s.dieOf e.c.core) pa c.n
        | .host p a _ => s.hostBytes p a c.n
        | .peer r x va _ => s.peerBytes (peerKey r x) va c.n)))

/-- R95, R96, R222, R223, R235: what a load leaves and what it reads.
Rests on log entries 15, 16, 18. -/
def Obligations.Loads : Prop := loadFrameRule ∧ loadValueRule

/-- R73, R96, R222, R223: a store changes no byte but those its lanes store to: for every physical address outside the chunks that the
plan gives the store, and outside their mirrors, the die reads what it read before; so do host memory and peer packages, and
the scratchpads keep every byte.
Rests on log entry 16. -/
def Obligations.StoreFrame : Prop :=
  ∀ (s : State) (e : Env) (ps : List (Nat × LaneAcc)) (data : Nat → List Byte) (ord : Ord) (scp : Scope),
    Memory.wf s.mem = true → (∀ w ∈ s.writes, ∀ m, w.mir = some m → w.pa + w.bytes.length ≤ m ∨ m + w.bytes.length ≤ w.pa) →
    (∀ p ∈ ps, ∀ cs, p.2 = .go cs → (data p.1).length = (cs.map (·.n)).sum) →
    let t := e.storeLanes s ps data ord scp
    let cs := planChunks ps
    (∀ pa, outsideChunks cs pa → t.viewed (s.dieOf e.c.core) pa = s.viewed (s.dieOf e.c.core) pa) ∧
    (∀ port a, (∀ c ∈ cs, ∀ p b k, c.pl = .host p b k → ¬ (p * 2 ^ 64 + b ≤ port * 2 ^ 64 + a ∧ port * 2 ^ 64 + a < p * 2 ^ 64 + b + c.n)) →
      Memory.wf s.hostMem = true → t.hostBytes port a 1 = s.hostBytes port a 1) ∧
    (∀ key a, (∀ c ∈ cs, ∀ p x b k, c.pl = .peer p x b k →
        ¬ (peerKey p x * 2 ^ 64 + b ≤ key * 2 ^ 64 + a ∧ key * 2 ^ 64 + a < peerKey p x * 2 ^ 64 + b + c.n)) →
      Memory.wf s.peerMem = true → t.peerBytes key a 1 = s.peerBytes key a 1) ∧
    t.scr = s.scr ∧ t.fe = s.fe ∧ t.tiles = s.tiles ∧ t.banks = s.banks ∧ t.warps = s.warps ∧ t.wgs = s.wgs ∧ t.ctxs = s.ctxs

/-- R48 to R51, R225 to R227: the scratchpad words. Loads write the bytes at the lane's address and leave the scratchpad; stores write
the lane's bytes there, the highest lane last, and nothing else; STF also sets the full-empty bits it covers. LDFE, while a granule that
a lane needs is empty, leaves that lane waiting for it and takes nothing; when all are full it loads, and LDFE.c empties them. -/
def scratchpadRule : Prop :=
  ∀ (s : State) (e : Env) (o : OpSpad), s.executes e → e.w.canonical → Memory.wf s.scr = true → Tbl.wf false s.fe = true →
    e.wg.core = e.c.core →
    let n := (scrWidth o.w o.nw).1
    let sg := (scrWidth o.w o.nw).2
    let off := o.off.toInt
    let grs := fun l => granules (e.wg.scrBase + (e.scrAddr o.a off l).toNat) n
    e.usable (useMem o.d o.a n) → e.scrInside (e.g o.g) o.a off n →
    (∃ u w', exec (.lds o) s = .next (e.retired u w') ∧ s.onlyScr u ∧ u.scr = s.scr ∧ u.fe = s.fe ∧
      e.w.loaded w' (e.g o.g) o.d n sg (fun l => s.scrBytes e.c.core (e.wg.scrBase + (e.scrAddr o.a off l).toNat) n)) ∧
    ((∀ l ∈ lanesOf (e.g o.g), ∀ k ∈ grs l, s.feGet e.c.core k = true) →
      ∃ u w', exec (.ldfe o) s = .next (e.retired u w') ∧ s.onlyScr u ∧ u.scr = s.scr ∧
        (∀ k, k < 65536 → u.feGet e.c.core k =
          if o.ord = .na ∧ ∃ l ∈ lanesOf (e.g o.g), k ∈ grs l then false else s.feGet e.c.core k) ∧
        e.w.loaded w' (e.g o.g) o.d n sg (fun l => s.scrBytes e.c.core (e.wg.scrBase + (e.scrAddr o.a off l).toNat) n)) ∧
    ((∃ l ∈ lanesOf (e.g o.g), ∃ k ∈ grs l, s.feGet e.c.core k = false) → Tbl.risingFrom none e.w.waits = true →
      ∃ w', exec (.ldfe o) s = .next (e.finish s (.hold (e.upd s (fun _ => w')))) ∧ { w' with waits := e.w.waits } = e.w ∧
        ∀ l, w'.wait l = if l ∈ lanesOf (e.g o.g) ∧ ∃ k ∈ grs l, s.feGet e.c.core k = false
          then .ldfe ((grs l).filter (fun k => !s.feGet e.c.core k)) else e.w.wait l) ∧
    (e.settled s (e.g o.g) → ∀ p ∈ ([(.sts, false), (.stf, true)] : List ((OpSpad → Instr) × Bool)),
      ∃ u, exec (p.1 o) s = .next (e.retired u e.w) ∧ s.onlyScr u ∧
        (∀ a, (∀ l ∈ lanesOf (e.g o.g), ¬ (e.scrKey e.wg o.a off l ≤ a ∧ a < e.scrKey e.wg o.a off l + n)) →
          Tbl.get 0 u.scr a = Tbl.get 0 s.scr a) ∧
        (∀ l ∈ lanesOf (e.g o.g), ∀ i, i < n →
          (∀ k ∈ lanesOf (e.g o.g), l < k → ¬ (e.scrKey e.wg o.a off k ≤ e.scrKey e.wg o.a off l + i ∧
            e.scrKey e.wg o.a off l + i < e.scrKey e.wg o.a off k + n)) →
          Tbl.get 0 u.scr (e.scrKey e.wg o.a off l + i) = (e.w.storeData o.d n l).getD i 0) ∧
        (∀ k, k < 65536 → u.feGet e.c.core k =
          if p.2 = true ∧ ∃ l ∈ lanesOf (e.g o.g), k ∈ grs l then true else s.feGet e.c.core k))

/-- R48: a scratchpad access outside the workgroup's declaration is warp trap 5 with the lanes outside it and their addresses; no
byte is read or written. -/
def scratchpadBoundsRule : Prop :=
  ∀ (s : State) (e : Env) (o : OpSpad), s.executes e →
    let n := (scrWidth o.w o.nw).1
    let bad := (lanesOf (e.g o.g)).filter (fun l => decide (e.scrAddr o.a o.off.toInt l < 0) ||
      decide (e.l.pk.scr < (e.scrAddr o.a o.off.toInt l).toNat + n))
    e.usable (useMem o.d o.a n) → bad ≠ [] →
    ∀ i ∈ ([.lds, .sts, .ldfe, .stf] : List (OpSpad → Instr)),
      ∃ ad, exec (i o) s = .next (e.trapped s ⟨5, maskOf bad, 2 ^ 31, ad⟩) ∧
        (Tbl.wf 0 ad = true ∧ ∀ l ∈ bad, Tbl.get 0 ad l = BitVec.ofInt 64 (e.scrAddr o.a o.off.toInt l))

/-- R48 to R51, R225 to R227: the scratchpad words, inside the declaration and outside it.
Rests on log entries 26, 74. -/
def Obligations.Scratchpad : Prop := scratchpadRule ∧ scratchpadBoundsRule

/-- R50, R227: FEINIT, with some lane's guard true, empties the granules it names and changes nothing else. -/
def feinitRule : Prop :=
  ∀ (s : State) (e : Env) (o : OpFeinit), s.executes e → e.g o.g ≠ 0 → o.cnt.toNat ≠ 0 → Tbl.wf false s.fe = true →
    e.usable (match o.a with | some i => [useS i 1 35] | none => []) →
    let a := match o.a with | some i => (e.w.s i.toNat).toNat | none => 0
    let lo := a + 16 * o.addr.toNat
    a % 16 = 0 → lo + 16 * o.cnt.toNat ≤ e.l.pk.scr →
    ∃ u, exec (.feinit o) s = .next (e.retired u e.w) ∧ { u with fe := s.fe } = s ∧
      ∀ k, u.feGet e.c.core k =
        if (e.wg.scrBase + lo) / 16 ≤ k ∧ k < (e.wg.scrBase + lo) / 16 + o.cnt.toNat then false else s.feGet e.c.core k

/-- R50, R67, R228: CMCAST, with some lane's guard true, stores each lane's bytes at its address in the scratchpad of every workgroup
that the mask names, the highest lane last, sets the full-empty bits that the bytes cover, and changes no other byte or bit. -/
def cmcastRule : Prop :=
  ∀ (s : State) (e : Env) (o : OpCmcast), s.executes e → e.g o.g ≠ 0 → o.mask.toNat ≠ 0 → e.l.badRanks e.wg.cg o.mask.toNat = false →
    Memory.wf s.scr = true → Tbl.wf false s.fe = true → e.settled s (e.g o.g) →
    let n := (scrWidth o.w o.nw).1
    let off := o.off.toInt
    let names := s.named e.wg o.mask.toNat
    let covers := fun (g : Wg) (l a : Nat) => e.scrKey g o.a off l ≤ a ∧ a < e.scrKey g o.a off l + n
    e.usable (useMem o.d o.a n) → e.scrInside (e.g o.g) o.a off n → (∀ g ∈ names, g.scrBase + e.l.pk.scr ≤ 2 ^ 20) →
    ∃ u, exec (.cmcast o) s = .next (e.retired u e.w) ∧ s.onlyScr u ∧
      (∀ a, (∀ g ∈ names, ∀ l ∈ lanesOf (e.g o.g), ¬ covers g l a) → Tbl.get 0 u.scr a = Tbl.get 0 s.scr a) ∧
      (∀ g ∈ names, ∀ l ∈ lanesOf (e.g o.g), ∀ i, i < n →
        (∀ h ∈ names, ∀ k ∈ lanesOf (e.g o.g), (h ≠ g ∨ l < k) → ¬ covers h k (e.scrKey g o.a off l + i)) →
        Tbl.get 0 u.scr (e.scrKey g o.a off l + i) = (e.w.storeData o.d n l).getD i 0) ∧
      ∀ core k, k < 65536 → u.feGet core k =
        if ∃ g ∈ names, g.core = core ∧ ∃ l ∈ lanesOf (e.g o.g), k ∈ granules (g.scrBase + (e.scrAddr o.a off l).toNat) n then true
        else s.feGet core k

/-- R50, R67, R227, R228: FEINIT and CMCAST.
Rests on log entry 31. -/
def Obligations.ScratchpadGroups : Prop := feinitRule ∧ cmcastRule

/-- R229, R230: the scratchpad atomics return the old value and store the new one. Stated for lanes whose elements do not overlap. -/
def Obligations.ScratchpadAtomics : Prop :=
  ∀ (s : State) (e : Env) (o : OpAtom) (n : Nat) (sg fl : Bool), s.executes e → e.w.canonical → Memory.wf s.scr = true →
    e.wg.core = e.c.core → atomType (atFmt o.sel.toNat) = some (n, sg, fl) → o.sel.toNat < 6 →
    e.usable [useD o.d (regsOfBytes n), .v o.a.toNat 1 1 35, .v o.b.toNat (regsOfBytes n) (regsOfBytes n) 24] →
    e.scrInside (e.g o.g) o.a o.off.toInt n →
    (∀ l ∈ lanesOf (e.g o.g), (e.scrAddr o.a o.off.toInt l).toNat % n = 0) →
    (∀ l ∈ lanesOf (e.g o.g), ∀ k ∈ lanesOf (e.g o.g), l ≠ k →
      (e.scrAddr o.a o.off.toInt l) ≠ (e.scrAddr o.a o.off.toInt k)) →
    (s.writes = [] ∨ o.scp.beyondDie = false) → e.settled s (e.g o.g) →
    let old := fun l => leNat (s.scrBytes e.c.core (e.wg.scrBase + (e.scrAddr o.a o.off.toInt l).toNat) n)
    ∀ p ∈ ([(.atoms, fun l => atomNew (atFmt o.sel.toNat) o.aop.toNat (old l) (e.w.elem (.v o.b) (8 * n) l)),
            (.cass, fun l => if old l = e.w.elem (.v o.d) (8 * n) l then e.w.elem (.v o.b) (8 * n) l else old l)] :
          List ((OpAtom → Instr) × (Nat → Nat))),
      (fl = true → 3 ≤ o.aop.toNat → o.aop.toNat ≤ 5 → False) →
      ∃ u w', exec (p.1 o) s = .next (e.retired u w') ∧ s.onlyScr u ∧ u.fe = s.fe ∧
        e.w.wrote w' (e.g o.g) o.d (8 * n) (fun l => old l) ∧
        (∀ l ∈ lanesOf (e.g o.g),
          u.scrBytes e.c.core (e.wg.scrBase + (e.scrAddr o.a o.off.toInt l).toNat) n = leBytes n (p.2 l)) ∧
        (∀ a, (∀ l ∈ lanesOf (e.g o.g), ¬ (e.scrKey e.wg o.a o.off.toInt l ≤ a ∧ a < e.scrKey e.wg o.a o.off.toInt l + n)) →
          Tbl.get 0 u.scr a = Tbl.get 0 s.scr a)

/-- R229, R230: ATOM and CAS complete when the record and the registers are usable, the type has the operation, every lane may write its
element at a multiple of its size, and they find their permits. One lane's element is read and written at its home, the old value comes back, and no other byte
changes. -/
def recordAtomicsRule : Prop :=
  ∀ (s : State) (e : Env) (o : OpAtom) (n : Nat) (sg fl : Bool), s.executes e → e.recordUsable o.sel.toNat → s.poison = [] →
    e.settled s (e.g o.g) →
    let r := recOf e.w.s o.sel.toNat
    let offs := e.offsets (lanesOf (e.g o.g)) o.a o.off.toInt
    atomType r.fmt = some (n, sg, fl) → (fl = true → o.aop.toNat < 3 ∨ 5 < o.aop.toNat) →
    e.usable [useD o.d (regsOfBytes n), .v o.a.toNat 1 1 35, .v o.b.toNat (regsOfBytes n) (regsOfBytes n) 24] →
    (∀ p ∈ offs, r.addr p.2 % n = 0) → e.reaches s r .write n offs → e.permitsAtomics s r n offs = true →
    (∀ i ∈ ([.atom, .cas] : List (OpAtom → Instr)),
      ∃ t, exec (i o) s = .next (e.finish s (.ok t)) ∧ t.scr = s.scr ∧ t.fe = s.fe ∧ t.wgs = s.wgs ∧ t.ctxs = s.ctxs ∧
        ∃ w', t.warp? e.c.core e.c.slot = some w' ∧ { w' with vregs := e.w.vregs } = e.w) ∧
    (∀ (l pa kind : Nat) (off : Int) (mir : Option Nat) (leaf : Nat × Nat), offs = [(l, off)] → l < 32 →
      r.bnd = 0 ∨ r.inBounds off n = true →
      r.peer? = none → s.translate (e.who s l) .write r.host (r.addr off) = .ok (.dram pa mir kind, leaf) →
      e.w.canonical → Memory.wf s.mem = true → s.writes = [] → (∀ m, mir = some m → pa + n ≤ m ∨ m + n ≤ pa) →
      let old := leNat (readBytes s.mem pa n)
      ∀ p ∈ ([(.atom, atomNew r.fmt o.aop.toNat old (e.w.elem (.v o.b) (8 * n) l)),
              (.cas, if old = e.w.elem (.v o.d) (8 * n) l then e.w.elem (.v o.b) (8 * n) l else old)] :
            List ((OpAtom → Instr) × Nat)),
        ∃ t w', exec (p.1 o) s = .next (e.finish s (.ok t)) ∧ t.warp? e.c.core e.c.slot = some w' ∧
          w'.elem (.v o.d) (8 * n) l = old ∧ readBytes t.mem pa n = leBytes n p.2 ∧
          ∀ a, ¬ (pa ≤ a ∧ a < pa + n) → (∀ m, mir = some m → ¬ (m ≤ a ∧ a < m + n)) → Tbl.get 0 t.mem a = Tbl.get 0 s.mem a)

/-- R231: ATOMO completes under the same conditions, with every key below the count; each lane that has a place sends one contribution
with its key, the count and its value. -/
def orderedAtomicsRule : Prop :=
  ∀ (s : State) (e : Env) (o : OpAtomo) (n : Nat) (sg fl : Bool), s.executes e → e.recordUsable o.rk.toNat → e.settled s (e.g o.g) →
    let r := recOf e.w.s o.rk.toNat
    let offs := e.offsets (lanesOf (e.g o.g)) o.a 0
    let cnt := (e.w.s o.sk.toNat).toNat
    atomType r.fmt = some (n, sg, fl) →
    e.usable [useD o.d (regsOfBytes n), .v o.a.toNat 1 1 35, .v o.b.toNat 1 1 24, useS o.sk 1 14] →
    cnt ≠ 0 → (∀ l ∈ lanesOf (e.g o.g), (e.w.v o.b.toNat l).toNat < cnt) →
    (∀ p ∈ offs, r.addr p.2 % n = 0) → e.reaches s r .write n offs →
    ∃ ps t new, e.plan s r .write 1 n offs = .ok ps ∧ exec (.atomo o) s = .next (e.finish s (.ok t)) ∧
      t.contribs = s.contribs ++ new ∧
      new.map (fun c => (c.lane, c.key, c.n, c.val)) = (ps.filterMap (fun p => match p.2 with
        | .go (_ :: _) => some (p.1, (e.w.v o.b.toNat p.1).toNat, cnt, e.w.elem (.v o.d) (8 * n) p.1)
        | _ => none))

/-- R229 to R231: the atomics through a record.
Rests on log entries 16, 19, 66, 70. -/
def Obligations.RecordAtomics : Prop := recordAtomicsRule ∧ orderedAtomicsRule

/-- R98, R101, R234: FENCE. A release at .dev or .sys takes the die's writes to their homes, an acquire at .cl or wider empties the
core's L1, and the word changes nothing else.
Rests on log entries 15, 17. -/
def Obligations.Fences : Prop :=
  ∀ (s : State) (e : Env) (o : OpFence), s.executes e → e.g o.g ≠ 0 →
    ∃ t, exec (.fence o) s = .next (e.retired t e.w) ∧
      (let u := if o.kind ≠ 0 ∧ o.scp.beyondDie = true then s.drainDie (s.dieOf e.c.core) else s
       t = if o.kind ≠ 1 ∧ o.scp.wide = true then u.l1Flush e.c.core else u) ∧
      (o.kind ≠ 0 → o.scp.beyondDie = true → ∀ w ∈ t.writes, w.die ≠ s.dieOf e.c.core) ∧
      (o.kind ≠ 1 → o.scp.wide = true → ∀ p ∈ t.l1, ¬ (e.c.core * 2 ^ 45 ≤ p.1 ∧ p.1 < (e.c.core + 1) * 2 ^ 45))

/-- R82, R83, R245: CVJOIN gives every lane of g the outcome and sets the warp's association; CVLEAVE ends the association with the
declaration it names, and no other. -/
def Obligations.ConvoyMembership : Prop :=
  (∀ (s : State) (e : Env) (o : OpCvjoin), s.executes e → e.w.canonical → e.g o.g ≠ 0 → o.k.toNat < e.l.convoys.length →
    let r := s.cvJoin (s.dieOf e.c.core) e.l.id o.k.toNat e.w
    ∃ u w', exec (.cvjoin o) s = .next (e.retired u w') ∧ { u with convoys := s.convoys } = s ∧
      w'.assoc = r.2.1 ∧ e.w.wrotePred { w' with assoc := e.w.assoc } (e.g o.g) o.d (fun _ => r.1)) ∧
  (∀ (s : State) (e : Env) (o : OpK), s.executes e → e.g o.g ≠ 0 → o.n.toNat < e.l.convoys.length →
    exec (.cvleave o) s = .next (e.retired s
      (if e.w.assoc.any (fun a => a.decl == o.n.toNat) then { e.w with assoc := none } else e.w)))

/-! ## Engine commands of a warp (R36, R60 to R63, R238 to R244) -/

/-- Reel instruction `i` enters the command `op` at the tail of reel queue `q`, to follow the commands that a QFENCE before it names, and
counts it for its workgroup; `cap` gives its pieces. No memory changes but the status list of CPIDX, whose 32 bytes become 0xFF (R72). -/
def entersReel (s : State) (e : Env) (i : Instr) (opc : Nat) (q : QCode) (op : ReelOp) (cap : Except Stop ReelCap) : Prop :=
  ∃ c cmd t, cap = .ok c ∧ exec i s = .next (e.retired t e.w) ∧ t.reelQ = s.reelQ ++ [cmd] ∧ cmd.id = s.nextId ∧
    cmd.core = e.c.core ∧ cmd.q = q.toNat ∧ cmd.op = op ∧ cmd.cuts = c.cuts ∧ cmd.started = false ∧ cmd.piece = 0 ∧
    cmd.by' = e.issuer opc ∧ cmd.after = s.fenceOf e.c.core q.toNat ∧ t.mem = s.mem ∧ t.hostMem = s.hostMem ∧
    t.peerMem = s.peerMem ∧ t.writes = s.writes ∧
    (match op with
      | .idx _ _ _ _ list _ => Memory.wf s.scr = true →
          let at' := e.c.core * 2 ^ 20 + (e.wg.scrBase + list)
          ∀ a, Tbl.get 0 t.scr a = if at' ≤ a ∧ a < at' + 32 then 0xFF else Tbl.get 0 s.scr a
      | _ => t.scr = s.scr) ∧
    t.wgs = updateWhere (·.id == e.wg.id)
      (fun g => { g with entered := Tbl.set 0 g.entered q.toNat ((Tbl.get 0 g.entered q.toNat + 1) % 2 ^ 32) }) s.wgs

/-- A reel instruction may enter its queue: the whole warp is there, the queue is one of the reel's and has a place (R36, R60). -/
def queueOpen (s : State) (e : Env) (g : Guard) (q : QCode) : Prop :=
  s.executes e ∧ e.whole g ∧ q.toNat < 8 ∧ s.reelDepth e.c.core q.toNat < 16

/-- The named barrier of a copy, if it has one, is declared. -/
def barUse (b : Option BarReg) : List Use := match b with | some b => [.b b.toNat] | none => []

/-- R63, R238 to R240: CPBOX and CPSTB enter their command when the record and the descriptor break no rule, the box has its geometry
and fits its scratchpad range, the mask names created workgroups, and the engine may access every unit of the box. -/
def boxCommandsRule : Prop :=
  (∀ (s : State) (e : Env) (o : OpBox), queueOpen s e o.g o.q → e.recordUsable o.rk.toNat →
    e.usable (.s o.b.toNat 8 1 27 :: barUse o.bar) →
    let r := recOf e.w.s o.rk.toNat
    let dw := wordsAt e.w.s o.b.toNat 8
    let d := BoxDesc.of dw
    let bar := o.bar.map (·.toNat)
    fld dw 30 2 = 0 → e.boxShape r d.org d.size d.saddr d.swz →
    ((if o.mc then d.mask ≠ 0 ∧ e.l.badRanks e.wg.cg d.mask = false else d.mask = 0) → e.boxFits s .read r d.org d.size →
      entersReel s e (.cpbox o) 0xA0 o.q (.box r d.saddr d.swz d.mask d.org d.size bar) (capBox o false e s)) ∧
    (d.mask = 0 → (o.op = 0 ∨ redFmt r.fmt = true) → e.boxFits s .write r d.org d.size →
      entersReel s e (.cpstb o) 0xA1 o.q (.stb r d.saddr d.swz o.op.toNat d.org d.size bar) (capBox o true e s))) ∧
  (∀ (s : State) (e : Env) (o : OpBoxS), queueOpen s e o.g o.q → e.recordUsable o.rk.toNat →
    let r := recOf e.w.s o.rk.toNat
    let org : List Int := [0, 0, 0, 0, 0]
    (∀ d, d < 3 → r.extOf d ≤ 65535) → r.extOf 3 ≤ 255 → r.extOf 4 ≤ 255 → e.boxShape r org r.ext (16 * o.imm.toNat) 0 →
    (e.boxFits s .read r org r.ext →
      entersReel s e (.cpboxImm o) 0xA0 o.q (.box r (16 * o.imm.toNat) 0 0 org r.ext none) (capWhole o false e s)) ∧
    (e.boxFits s .write r org r.ext →
      entersReel s e (.cpstbImm o) 0xA1 o.q (.stb r (16 * o.imm.toNat) 0 0 org r.ext none) (capWhole o true e s)))

/-- R63, R70, R241: CPIDX enters its command when its descriptor breaks no rule and its blocks fit, and writes 32 bytes 0xFF to its status list. -/
def indexCommandsRule : Prop :=
  (∀ (s : State) (e : Env) (o : OpIdx), queueOpen s e o.g o.q → e.recordUsable o.rk.toNat →
    let r := recOf e.w.s o.rk.toNat
    let c0 := (e.w.s o.c.toNat).toNat
    let c1 := (e.w.s (o.c.toNat + 1)).toNat
    let bar := if fld c1 20 7 = 0 then none else some (fld c1 20 7 - 1)
    e.usable [o.b.use 1 27, useS o.c 2 19] → fld c0 20 12 = 0 → fld c1 27 5 = 0 → fld c1 20 7 < 97 →
    e.usable (match bar with | some b => [.b b] | none => []) →
    e.blocksFit s r (fun l => (e.w.src o.b l).toNat) (fld c0 0 20) (fld c1 0 20) →
    entersReel s e (.cpidx o) 0xA2 o.q (.idx r ((List.range 32).map (fun l => (e.w.src o.b l).toNat)) e.w.lmask (fld c0 0 20)
      (fld c1 0 20) bar) (capIdx o e s)) ∧
  (∀ (s : State) (e : Env) (o : OpIdxS), queueOpen s e o.g o.q → e.recordUsable o.rk.toNat → e.usable [useD o.d 1] →
    let r := recOf e.w.s o.rk.toNat
    let blk := 16 * o.imm.toNat
    e.blocksFit s r (fun l => (e.w.v o.d.toNat l).toNat) blk (blk + 32 * r.blockPitch) →
    entersReel s e (.cpidxImm o) 0xA2 o.q (.idx r ((List.range 32).map (fun l => (e.w.v o.d.toNat l).toNat)) e.w.lmask blk
      (blk + 32 * r.blockPitch) none) (capIdxS o e s))

/-- R60, R63, R242: CPSS and CPFILL enter their command when the range fits and the mask names created workgroups. With the queue full a
CPFILL stays at the head. -/
def rangeCommandsRule : Prop :=
  (∀ (s : State) (e : Env) (o : OpSs), queueOpen s e o.g o.q →
    e.usable ([useS o.a 2 35, useS o.b 1 27] ++ barUse o.bar) →
    let addr := (e.w.s o.a.toNat).toNat
    let len := (e.w.s (o.a.toNat + 1)).toNat
    let mask := (e.w.s o.b.toNat).toNat
    e.rangeFits addr len → 0 < mask → mask < 256 → e.l.badRanks e.wg.cg mask = false →
    entersReel s e (.cpss o) 0xA3 o.q (.ss addr len mask (o.bar.map (·.toNat))) (capSs o e s)) ∧
  (∀ (s : State) (e : Env) (o : OpSsS), queueOpen s e o.g o.q → e.usable [useS o.a 2 35] →
    let addr := (e.w.s o.a.toNat).toNat
    let len := (e.w.s (o.a.toNat + 1)).toNat
    e.rangeFits addr len → 0 < o.mask.toNat → e.l.badRanks e.wg.cg o.mask.toNat = false →
    entersReel s e (.cpssImm o) 0xA3 o.q (.ss addr len o.mask.toNat none) (capSsS o e s)) ∧
  (∀ (s : State) (e : Env) (o : OpFill), s.executes e → e.whole o.g → o.q.toNat < 8 → e.usable [useS o.a 2 35, useS o.b 1 27] →
    let addr := (e.w.s o.a.toNat).toNat
    let len := (e.w.s (o.a.toNat + 1)).toNat
    e.rangeFits addr len →
    (s.reelDepth e.c.core o.q.toNat < 16 →
      entersReel s e (.cpfill o) 0xA4 o.q (.fill addr len (e.w.s o.b.toNat) o.fe)
        (capFill o.q o.a [useS o.b 1 27] (fun e => e.w.s o.b.toNat) o.fe e s)) ∧
    (16 ≤ s.reelDepth e.c.core o.q.toNat → exec (.cpfill o) s = .next (e.finish s (.hold s)))) ∧
  (∀ (s : State) (e : Env) (o : OpFillS), queueOpen s e o.g o.q → e.usable [useS o.a 2 35] →
    let addr := (e.w.s o.a.toNat).toNat
    let len := (e.w.s (o.a.toNat + 1)).toNat
    e.rangeFits addr len →
    entersReel s e (.cpfillImm o) 0xA4 o.q (.fill addr len (o.imm.signExtend 32) o.fe)
      (capFill o.q o.a [] (fun _ => o.imm.signExtend 32) o.fe e s))

/-- R103, R243, R244: QFENCE, with some lane's guard true, records the commands in the queues that it names, for which every later command
of these queues waits; CQWAIT parks the threads of g with the target that its scalar or the count of commands entered gives. -/
def queueWaitsRule : Prop :=
  (∀ (s : State) (e : Env) (o : OpQfence), s.executes e → o.qm ≠ 0 →
    (e.g o.g = 0 → exec (.qfence o) s = .next (e.retired s e.w)) ∧
    (e.g o.g ≠ 0 →
      ∃ t, exec (.qfence o) s = .next (e.retired t e.w) ∧ { t with qfences := s.qfences } = s ∧
        ∀ q, t.fenceOf e.c.core q = s.fenceOf e.c.core q ++ (if bit o.qm.toNat q then
          (s.reelQ.filter (fun c => c.core == e.c.core && bit o.qm.toNat c.q)).map (·.id) ++
            (s.matQ.filter (fun c => c.core == e.c.core && bit o.qm.toNat (8 + c.q))).map (·.id) else []))) ∧
  (∀ (s : State) (e : Env) (o : OpCqwait), s.executes e →
    e.usable (match o.t with | some i => [useS i 1 27] | none => []) →
    let t := match o.t with | some i => e.w.s i.toNat | none => BitVec.ofNat 32 (Tbl.get 0 e.wg.entered o.q.toNat)
    (e.g o.g = 0 → exec (.cqwait o) s = .next (e.retired s e.w)) ∧
    (e.g o.g ≠ 0 →
      exec (.cqwait o) s = .next (e.parked s (e.w.waitIn (lanesOf (e.g o.g)) (fun _ => .cqwait o.q.toNat t)) (e.g o.g))))

/-- R60 to R63, R70, R103, R238 to R244: the copy instructions, QFENCE and CQWAIT.
Rests on log entries 25, 29, 32, 75, 76. -/
def Obligations.ReelAndQueues : Prop := boxCommandsRule ∧ indexCommandsRule ∧ rangeCommandsRule ∧ queueWaitsRule

/-! ## The matrix engine and the reduction unit at issue (R252 to R265) -/

/-- Steps 1 and 2 of R253: a request is rounded up to the next value of its set, or to the set's largest. -/
def roundsUp (set : List Nat) (v r : Nat) : Prop :=
  r ∈ set ∧ (∀ x ∈ set, v ≤ x → r ≤ x) ∧ (r < v → ∀ x ∈ set, x ≤ r)

/-- Table 3 of the matrix chapter: a shape keeps within the operand capacities. -/
def withinCaps (bits spn : Nat) (x : Nat × Nat × Nat) : Prop :=
  x.1 * x.2.2 * bits ≤ 65536 ∧
    (if spn = 0 then x.2.1 * x.2.2 * bits ≤ 65536 else x.2.1 * (x.2.2 / 24) * groupBytes bits (keptOf spn) ≤ 2048)

/-- Step 3 of R253: K is halved above its least value; else the larger of M and N, M on a tie. -/
def halvedShape (kmin : Nat) (x : Nat × Nat × Nat) : Nat × Nat × Nat :=
  if kmin < x.2.2 then (x.1, x.2.1, x.2.2 / 2) else if x.2.1 ≤ x.1 then (x.1 / 2, x.2.1, x.2.2) else (x.1, x.2.1 / 2, x.2.2)

/-- R253: SHAPE grants a configuration: the extents asked for are rounded up in their sets, and the shape is halved as step 3 says while
it exceeds a capacity, and no longer; the warp holds what is granted, and the word of Table 4 goes to the scalar. -/
def Obligations.ShapeGrant : Prop :=
  (∀ (s : State) (e : Env) (o : OpShape) (bits : Nat) (sp : Bool), s.executes e → e.w.canonical → e.whole o.g →
    mmaFmt o.ty = some (bits, sp) → (o.spn.toNat ≠ 0 → sp = true) → e.usable [useS o.d 1 43] →
    fld o.imm.toNat 0 5 ≠ 0 → fld o.imm.toNat 5 5 ≠ 0 → fld o.imm.toNat 10 6 ≠ 0 →
    ∃ w' h, exec (.shape o) s = .next (e.retired s w') ∧ w'.shape = some h ∧
      h = grant o.ty bits o.spn.toNat (8 * fld o.imm.toNat 0 5) (8 * fld o.imm.toNat 5 5) (8 * fld o.imm.toNat 10 6) ∧
      e.w.onlyScal { w' with shape := e.w.shape } (regsAt o.d.toNat 1) ∧
      w'.s o.d.toNat = BitVec.ofNat 32 (h.m + h.n * 2 ^ 8 + h.k * 2 ^ 16 + o.ty.code * 2 ^ 25 + o.spn.toNat * 2 ^ 30)) ∧
  (∀ (fmt : Fmt) (bits spn m n k : Nat) (sp : Bool), mmaFmt fmt = some (bits, sp) → spn < 4 → (spn ≠ 0 → sp = true) →
    let h := grant fmt bits spn m n k
    let mns := [16, 32, 64, 128]
    let ks := if spn = 0 then [16, 32, 64, 128, 256] else [48, 96, 192]
    h.m ∈ mns ∧ h.n ∈ mns ∧ h.k ∈ ks ∧ withinCaps bits spn (h.m, h.n, h.k) ∧ h.fmt = fmt ∧ h.spn = spn ∧
      ∀ m0 n0 k0, roundsUp mns m m0 → roundsUp mns n n0 → roundsUp ks k k0 →
        ∃ j, (h.m, h.n, h.k) = (halvedShape (ks.headD 0))^[j] (m0, n0, k0) ∧
          ∀ i < j, ¬ withinCaps bits spn ((halvedShape (ks.headD 0))^[i] (m0, n0, k0)))

/-- R258 to R260: the handles. ABALLOC binds the lowest free banks and says so in its predicate, or binds none and says that; ABFREE gives them
back; ACCRD and ACCWR move one row of an accumulator.
Rests on log entries 10, 37, 38. -/
def Obligations.AccumulatorHandles : Prop :=
  (∀ (s : State) (e : Env) (o : OpAballoc), s.executes e → e.w.canonical → e.whole o.g → 1 ≤ o.n.toNat → o.n.toNat ≤ 32 →
    e.w.handle? o.a.toNat = none → e.w.bankCount + o.n.toNat ≤ e.l.pk.maxBanks →
    ((s.freeBanks e.c.core).length < o.n.toNat →
      ∃ w', exec (.aballoc o) s = .next (e.retired s w') ∧ e.w.wrotePred w' e.c.mask o.d (fun _ => false)) ∧
    (o.n.toNat ≤ (s.freeBanks e.c.core).length →
      ∃ t w' h, exec (.aballoc o) s = .next (e.retired t w') ∧
        e.w.wrotePred { w' with handles := e.w.handles } e.c.mask o.d (fun _ => true) ∧
        w'.handle? o.a.toNat = some h ∧ h.steps = 0 ∧ h.tag = none ∧ h.banks.length = o.n.toNat ∧
        h.banks.Pairwise (· < ·) ∧ (∀ b ∈ s.freeBanks e.c.core, b ∉ h.banks → ∀ x ∈ h.banks, x < b) ∧
        (∀ b ∈ h.banks, b ∈ s.freeBanks e.c.core ∧ Tbl.get 0 t.bankOf (256 * e.c.core + b) = e.c.slot + 1) ∧
        { t with banks := s.banks, bankOwner := s.bankOwner, bankOf := s.bankOf, free := s.free } = s)) ∧
  (∀ (s : State) (e : Env) (o : OpAbfree) (h : Handle), s.executes e → e.whole o.g → e.w.handle? o.a.toNat = some h →
    s.mxBusy e o.a.toNat = false →
    ∃ t, exec (.abfree o) s = .next (e.retired t { e.w with handles := Tbl.del e.w.handles o.a.toNat }) ∧
      { t with bankOf := s.bankOf } = s ∧
      (Tbl.wf 0 s.bankOf = true → ∀ k, Tbl.get 0 t.bankOf k =
        if ∃ b ∈ h.banks, k = 256 * e.c.core + b then 0 else Tbl.get 0 s.bankOf k)) ∧
  (∀ (s : State) (e : Env) (o : OpAcc) (h : Handle) (sh : Shape), s.executes e → e.w.canonical → e.whole o.g →
    s.mxBusy e o.h.toNat = false → h.banks.length ≤ 32 → e.w.handle? o.h.toNat = some h → e.w.shape = some sh →
    let row := (e.accSel o.row).1
    let cb := (e.accSel o.row).2
    let sel := match o.row with | .scalar i => [useS i 1 27] | .const _ _ => []
    let fits := fun (l : Nat) => 32 * cb + l < sh.n → row * sh.n + (32 * cb + l) < 512 * h.banks.length
    32 * cb < sh.n →
    (e.usable ([useD o.v 1] ++ sel) → (row = 255 ∨ row < sh.m ∧ ∀ l, l < 32 → fits l) →
      ∃ u w', exec (.accrd o) s = .next (e.retired u w') ∧ { u with ret := s.ret, segAccess := s.segAccess } = s ∧
        e.w.wrote w' (e.g o.g) o.v 32 (fun l =>
          if row = 255 then (if l = 0 then h.steps.toNat else if l = 1 then h.banks.length else 0)
          else if 32 * cb + l < sh.n then s.accGet e.c.core h.banks (row * sh.n + (32 * cb + l)) else 0)) ∧
    (e.usable ([.v o.v.toNat 1 1 35] ++ sel) → row < sh.m → (∀ l ∈ lanesOf (e.g o.g), fits l) → Memory.wf s.banks = true →
      h.banks.Nodup →
      ∃ t, exec (.accwr o) s = .next (e.finish s (.ok t)) ∧ t.mem = s.mem ∧ t.scr = s.scr ∧ t.tiles = s.tiles ∧
        (∀ l ∈ lanesOf (e.g o.g), 32 * cb + l < sh.n →
          t.accGet e.c.core h.banks (row * sh.n + (32 * cb + l)) = (e.w.v o.v.toNat l).toNat) ∧
        (∃ w' h', t.warp? e.c.core e.c.slot = some w' ∧ w'.handle? o.h.toNat = some h' ∧ h'.banks = h.banks ∧
          h'.steps = h.steps + 1 ∧ h'.tag = none)))

/-- Matrix instruction `i` enters the command `op` at the tail of matrix queue `mq`, with the configuration held and to follow the commands
that a QFENCE before it names. No memory changes. -/
def entersMatrix (s : State) (e : Env) (i : Instr) (opc : Nat) (mq : Bool) (op : MatOp) : Prop :=
  let q := if mq then 1 else 0
  ∃ cmd t, exec i s = .next (e.finish s (.ok t)) ∧ t.matQ = s.matQ ++ [cmd] ∧ cmd.id = s.nextId ∧ cmd.core = e.c.core ∧ cmd.q = q ∧
    cmd.op = op ∧ cmd.shape = e.w.shape ∧ cmd.started = false ∧ cmd.piece = 0 ∧ cmd.by' = e.issuer opc ∧
    cmd.after = s.fenceOf e.c.core (8 + q) ∧ t.mem = s.mem ∧ t.writes = s.writes ∧ t.scr = s.scr ∧ t.tiles = s.tiles ∧ t.banks = s.banks

/-- A matrix instruction may enter its queue: the whole warp is there and the queue has a place (R36, R261). -/
def matrixOpen (s : State) (e : Env) (g : Guard) (mq : Bool) : Prop :=
  s.executes e ∧ e.whole g ∧ s.matDepth e.c.core (if mq then 1 else 0) < 16

/-- The second record of a tile command is a usable one of bytes. -/
def scaleRecord (e : Env) (o : OpTile) : Prop := e.recordUsable (o.rk.toNat + 1) ∧ (recOf e.w.s (o.rk.toNat + 1)).fmt = .n8

/-- R252, R255 to R257: TLD, TST and WBLD enter their command when a configuration is held, the modifiers and the record agree with it, the
registers are usable and the engine may access the boxes. -/
def tileCommandsRule : Prop :=
  ∀ (s : State) (e : Env) (o : OpTile) (sh : Shape), matrixOpen s e o.g o.mq → e.w.shape = some sh → e.recordUsable o.rk.toNat →
    e.usable (tileUses o) → (o.rk = 7 → o.sc = false ∧ o.mx = false) →
    let r := recOf e.w.s o.rk.toNat
    let q := recOf e.w.s (o.rk.toNat + 1)
    let rows := if o.rb then sh.n else sh.m
    let o0 := (e.tileOrg o).1
    let o1 := (e.tileOrg o).2
    let sc := if o.sc then some q else none
    (o.mx = false → r.fmt = sh.fmt → (o.sc = true → sh.fmt = .f4 ∧ o0 % 8 = 0 ∧ r.pair = false ∧ scaleRecord e o) →
      (r.nib = true → o0 % 2 = 0) →
      (e.tileFits s .read (tileBoxes sh r sc rows false o0 o1) →
        entersMatrix s e (.tld o) 0xC1 o.mq (.tld r sc o.t.toNat rows false o0 o1)) ∧
      (e.tileFits s .write (tileBoxes sh r sc rows false o0 o1) →
        entersMatrix s e (.tst o) 0xC2 o.mq (.tst r sc o.t.toNat rows o0 o1))) ∧
    (o.mx = true → o.sc = false → o.rb = false → (sh.fmt = .bf16 ∨ sh.fmt = .f16) → r.fmt ∈ ([.f8e4, .f8e5, .f4, .i8] : List Fmt) →
      o0 % 32 = 0 → scaleRecord e o → e.tileFits s .read (tileBoxes sh r (some q) rows true o0 o1) →
      entersMatrix s e (.tld o) 0xC1 o.mq (.tld r (some q) o.t.toNat rows true o0 o1)) ∧
    (sh.spn ≠ 0 → r.fmt = .n8 → o0 % (groupBytes sh.fmt.bits (keptOf sh.spn) : Int) = 0 →
      (o.sc = true → sh.fmt = .f4 ∧ r.pair = false ∧ scaleRecord e o) → e.tileFits s .read (weightBoxes sh r sc o0 o1) →
      entersMatrix s e (.wbld o) 0xC3 o.mq (.wbld r sc o.t.toNat o0 o1))

/-- R258, R259, R262 to R264: MMA, SCACC and ACCZ enter their command when the handles are bound and, for MMA and SCACC, large enough for
the configuration held, whose format and sparsity MMA names; SCACC's second handle holds a plane tag or will. -/
def accumulatorCommandsRule : Prop :=
  (∀ (s : State) (e : Env) (o : OpMma) (sh : Shape) (h : Handle), matrixOpen s e o.g o.mq → e.w.shape = some sh → o.ty = sh.fmt →
    (o.wb = true ↔ sh.spn ≠ 0) → (sh.fmt = .f4 → o.blk.toNat < sh.k / 8) → e.w.handle? o.d.toNat = some h →
    sh.m * sh.n ≤ 512 * h.banks.length → e.usable [.t o.a.toNat, .t o.b.toNat] →
    entersMatrix s e (.mma o) 0xC4 o.mq (.mma o.d.toNat h.banks o.a.toNat o.b.toNat o.blk.toNat o.wb)) ∧
  (∀ (s : State) (e : Env) (o : OpScacc) (sh : Shape) (h x : Handle), matrixOpen s e o.g o.mq → o.d ≠ o.a → e.w.shape = some sh →
    e.w.handle? o.d.toNat = some h → sh.m * sh.n ≤ 512 * h.banks.length →
    e.w.handle? o.a.toNat = some x → sh.m * sh.n ≤ 512 * x.banks.length → x.tagRet = true → e.usable [useS o.b 1 27] →
    entersMatrix s e (.scacc o) 0xC5 o.mq (.scacc o.d.toNat h.banks o.a.toNat x.banks (e.w.s o.b.toNat))) ∧
  (∀ (s : State) (e : Env) (o : OpAccz) (h : Handle), matrixOpen s e o.g o.mq → e.w.handle? o.d.toNat = some h →
    entersMatrix s e (.accz o) 0xC8 o.mq (.accz o.d.toNat h.banks))

/-- R265, R266: CRED enters a reduction command when its descriptor breaks no rule, the list names created workgroups on distinct cores, the
ranges lie in the scratchpad and the unit's queue has a place. The command folds the listed allocations in the order of their cores. -/
def reductionCommandRule : Prop :=
  ∀ (s : State) (e : Env) (o : OpS), s.executes e → e.whole o.g → e.usable [useS o.a 4 35] →
    let d := wordsAt e.w.s o.a.toNat 4
    let rows := fld d 64 16
    let dcol := fld d 80 16
    let list := fld d 96 8
    let len := rows * (16 + 4 * dcol)
    let gs := s.listed e.wg list
    fld d 20 12 = 0 → fld d 52 12 = 0 → fld d 105 23 = 0 → fld d 0 20 % 16 = 0 → fld d 32 20 % 16 = 0 → 1 ≤ rows → rows ≤ 256 →
    dcol % 4 = 0 → 4 ≤ dcol → dcol ≤ 1024 → list ≠ 0 → e.l.badRanks e.wg.cg list = false →
    (∀ g ∈ gs, ∀ h ∈ gs, g.1 ≠ h.1 → g.2.1 ≠ h.2.1) →
    fld d 0 20 + len ≤ e.l.pk.scr → fld d 32 20 + len ≤ e.l.pk.scr → s.cruDepth (clusterOf e.c.core) < 8 →
    ∃ cmd, exec (.cred o) s = .next (e.retired { s with nextId := s.nextId + 1, cruQ := s.cruQ ++ [cmd] } e.w) ∧
      cmd.id = s.nextId ∧ cmd.cluster = e.c.core / 8 ∧ cmd.src = fld d 0 20 ∧ cmd.dst = fld d 32 20 ∧ cmd.rows = rows ∧ cmd.dcol = dcol ∧
      cmd.row = 0 ∧ cmd.fin = d.testBit 104 ∧ cmd.by' = e.issuer 0xCB ∧
      cmd.srcs = (List.range 8).filterMap (fun k => (gs.map (·.2)).find? (fun g => g.1 == 8 * (e.c.core / 8) + k))

/-- R252, R255 to R266: the commands of the matrix engine and of the reduction unit at issue.
Rests on log entries 25, 35, 39. -/
def Obligations.UnitCommands : Prop := tileCommandsRule ∧ accumulatorCommandsRule ∧ reductionCommandRule

/-! ## The amplitude engines, messages and collectives at issue (R246 to R250, R270 to R274, R279) -/

/-- The entry counts of a workgroup's queue after one more command (R61, R279). -/
def countedIn (s : State) (wg q : Nat) : List Wg :=
  updateWhere (·.id == wg) (fun g => { g with entered := Tbl.set 0 g.entered q ((Tbl.get 0 g.entered q + 1) % 2 ^ 32) }) s.wgs

/-- R271, R272, R274, R279: an amplitude command whose checks pass and whose queue has room enters at the tail of its queue; QMAP.rd,
once the commands its workgroup had entered have completed, writes where the qubit stands, and until then holds its lanes at its word.
Rests on log entry 44. -/
def Obligations.AmplitudeCommands : Prop :=
  (∀ (s : State) (e : Env) (o : OpQ), s.executes e → o.q.toNat ∈ [10, 11, 12, 13] → o.mode = 0 → o.ty = .c64 ∨ o.ty = .c128 →
    e.usable [useS o.a 8 35] → e.g o.g ≠ 0 → s.ampDepth (s.dieOf e.c.core) (o.q.toNat - 10) < 16 →
    let d := wordsAt e.w.s o.a.toNat 8
    let m : QMap := { base := fld d 0 64, l := fld d 64 6, db := fld d 72 2, rb := fld d 80 4, rbase := fld d 96 13,
                      c128 := o.ty == .c128, perm := List.range (fld d 64 6 + fld d 72 2 + fld d 80 4), seq := 0 }
    e.setOffence s d (o.ty == .c128) = none →
    e.regionReach s .write (m.va ((e.part s).pdie (s.dieOf e.c.core)) 0) (2 ^ m.l * m.es) = .ok () →
    ∃ (c : AmpCmd) (t : State), exec (.qmapSet o) s = .next (e.retired t e.w) ∧ t.ampQ = s.ampQ ++ [c] ∧ c.op = .setMap m ∧
        c.die = s.dieOf e.c.core ∧
      c.q = o.q.toNat - 10 ∧ c.stage = .waiting ∧ c.by' = e.issuer 0xCD ∧ t.qmaps = s.qmaps ∧
      t.wgs = countedIn s e.wg.id o.q.toNat ∧ t.mem = s.mem ∧ t.writes = s.writes) ∧
  (∀ (s : State) (e : Env) (o : OpQ) (m : QMap), s.executes e → o.q.toNat ∈ [10, 11, 12, 13] → o.mode.toNat < 5 →
    e.usable [useS o.a 8 35] → e.g o.g ≠ 0 → s.ampDepth (s.dieOf e.c.core) (o.q.toNat - 10) < 16 →
    let d := wordsAt e.w.s o.a.toNat 8
    let mode := o.mode.toNat
    let kt := fld d 64 3
    let qs := (gateQubits d kt (fld d 67 3)).map (·.2)
    s.qmapAhead e.x.key (s.dieOf e.c.core) = some m → o.ty = (if m.c128 then Fmt.c128 else Fmt.c64) → gateOffence d mode m.n = none →
    ((mode = 0 ∨ mode = 2) → (exchAll (qs.take kt) (qs.drop kt) 5 m).isSome) →
    (mode = 4 → e.regionReach s .write (fld d 0 64) 8 = .ok ()) →
    (mode < 3 → e.regionReach s .read (fld d 0 64) (gateElems mode kt * m.es) = .ok ()) →
    ∃ (c : AmpCmd) (t : State), exec (.qgate o) s = .next (e.retired t e.w) ∧ t.ampQ = s.ampQ ++ [c] ∧
      c.op = .gate mode (fld d 0 64) (qs.take kt) (qs.drop kt) (fld d 192 5) (fld d 200 5) m.c128 ∧ c.die = s.dieOf e.c.core ∧
      c.q = o.q.toNat - 10 ∧ c.stage = .waiting ∧ t.qmaps = s.qmaps ∧ t.wgs = countedIn s e.wg.id o.q.toNat ∧
      t.mem = s.mem ∧ t.writes = s.writes) ∧
  (∀ (s : State) (e : Env) (o : OpQ), s.executes e → o.q.toNat ∈ [10, 11, 12, 13] → o.mode.toNat < 5 →
    o.ty = .c64 ∨ o.ty = .c128 → e.usable [useS o.a 8 35] → e.g o.g ≠ 0 → s.qmapAhead e.x.key (s.dieOf e.c.core) = none →
    exec (.qgate o) s = .next (e.trapped s ⟨1, e.c.mask, 0xFFFE, []⟩)) ∧
  (∀ (s : State) (e : Env) (o : OpQrd), s.executes e → e.w.canonical → o.q.toNat ∈ [10, 11, 12, 13] → o.ty = .n8 →
    e.usable [useS o.d 1 43] → e.g o.g ≠ 0 → e.w.wait (lowest e.c.mask) = .ready →
    (Tbl.get 0 e.wg.done o.q.toNat + 2 ^ 32 - Tbl.get 0 e.wg.entered o.q.toNat) % 2 ^ 32 < 2 ^ 31 →
    let k := o.k.toNat
    ∃ (w' : Warp), exec (.qmapRd o) s = .next (e.retired (s.l1Flush e.c.core) w') ∧ e.w.onlyScal w' (regsAt o.d.toNat 1) ∧
      w'.s o.d.toNat = BitVec.ofNat 32 (match s.qmap? e.x.key (s.dieOf e.c.core) with
        | none => if k = 255 then 0 else 2 ^ 32 - 1
        | some m =>
          if k = 255 then m.n + m.l * 2 ^ 8 + m.db * 2 ^ 16 + m.rb * 2 ^ 20 + (if m.c128 then 2 ^ 30 else 0) + 2 ^ 31
          else if m.n ≤ k then 2 ^ 32 - 1
          else m.pos k + 2 ^ 6 * (if m.pos k < m.l then 0 else if m.pos k < m.l + m.db then 1 else 2))) ∧
  (∀ (s : State) (e : Env) (o : OpQrd) (n : Nat), s.executes e → o.q.toNat ∈ [10, 11, 12, 13] → o.ty = .n8 →
    e.usable [useS o.d 1 43] → e.g o.g ≠ 0 →
    (e.w.wait (lowest e.c.mask) = .ready ∧ n = Tbl.get 0 e.wg.entered o.q.toNat ∨ e.w.wait (lowest e.c.mask) = .qmapRd o.q.toNat n) →
    2 ^ 31 ≤ (Tbl.get 0 e.wg.done o.q.toNat + 2 ^ 32 - n) % 2 ^ 32 →
    exec (.qmapRd o) s = .next (e.finish s (.hold
      (e.upd s (fun w => w.waitIn (lanesOf e.c.mask) (fun _ => .qmapRd o.q.toNat n))))))

/-- R246, R348: MSEND to one cluster takes a send entry, sends the message with its generation and the time, and writes its handle, once
what its threads contributed has been applied; with 64 entries in use it writes all ones and sends nothing; a multicast to no cluster or
to one outside the partition takes the message-destination trap. -/
def messageSendRule : Prop :=
  (∀ (s : State) (e : Env) (o : OpMsend), s.executes e → e.w.canonical → o.mc = false → e.g o.g ≠ 0 →
    let b := (e.w.s o.b.toNat).toNat
    let n := (e.w.s o.c.toNat).toNat
    e.usable [useS o.d 1 43, useS o.b 1 27, useS o.c 1 19,
      match o.a with
      | .v i => Use.v i.toNat (if 128 < n then 2 else 1) 1 35
      | .s i => Use.s i.toNat (if 128 < n then 2 else 1) 1 35] →
    n % 4 = 0 → n ≤ 256 → b / 2 ^ 16 < 2 ^ 6 → b / 2 ^ 16 < (s.logical (e.part s)).length →
    ((s.sends.filter (·.core == e.c.core)).length < 64 → e.settled s (e.g o.g) →
      ∃ (ent : SendEnt) (p : TagPkt) (t : State) (w' : Warp), exec (.msend o) s = .next (e.retired t w') ∧ e.w.onlyScal w' (regsAt o.d.toNat 1) ∧
        w'.s o.d.toNat = ent.handle ∧ ent.handle.toNat < 2 ^ 23 ∧ ent.handle.toNat % 2 ^ 8 < 64 ∧
        (∀ x ∈ s.sends, x.core = e.c.core → x.handle.toNat % 2 ^ 8 ≠ ent.handle.toNat % 2 ^ 8) ∧
        (s.usedHandles.length < 2 ^ 15 → (2 * e.c.core, ent.handle) ∉ s.usedHandles) ∧
        t.sends = s.sends ++ [ent] ∧ ent.core = e.c.core ∧ ent.ctx = e.x.key ∧ ent.wg = e.wg.id ∧ ent.left = 1 ∧ ent.stale = false ∧
        t.pkts = s.pkts ++ [p] ∧ p.send = ent.id ∧ p.ctx = e.x.key ∧ p.tag = b % 2 ^ 16 ∧
        (s.logical (e.part s))[b / 2 ^ 16]? = some p.dst ∧ p.sentAt = s.time ∧
        p.data = (List.range (n / 4)).flatMap (fun i => leBytes 4 (e.w.srcAt o.a (i / 32) (i % 32)).toNat) ∧
        p.stamp = s.genOf (s.dieOf e.c.core) e.x.key p.dst ∧ ∀ x ∈ t.writes, x.die ≠ s.dieOf e.c.core) ∧
    (64 ≤ (s.sends.filter (·.core == e.c.core)).length →
      ∃ (w' : Warp), exec (.msend o) s = .next (e.retired s w') ∧ e.w.onlyScal w' (regsAt o.d.toNat 1) ∧ w'.s o.d.toNat = 0xFFFFFFFF)) ∧
  (∀ (s : State) (e : Env) (o : OpMsend), s.executes e → o.mc = true → e.g o.g ≠ 0 →
    let n := (e.w.s o.c.toNat).toNat
    e.usable [useS o.d 1 43, useS o.b 1 27, useS o.c 1 19, .s (o.b.toNat + 1) 2 2 27,
      match o.a with
      | .v i => Use.v i.toNat (if 128 < n then 2 else 1) 1 35
      | .s i => Use.s i.toNat (if 128 < n then 2 else 1) 1 35] →
    n % 4 = 0 → n ≤ 256 → (e.w.s o.b.toNat).toNat < 2 ^ 16 →
    let mask := (e.w.s64 (o.b.toNat + 1)).toNat
    mask = 0 ∨ 2 ^ s.partClusters (e.part s) ≤ mask →
    exec (.msend o) s = .next (e.trapped s ⟨7, e.c.mask, if mask = 0 then 256 else mask % 256, []⟩))

/-- A receive is taken off its list. -/
def dropRecv (h : Word) (m : MsgState) : MsgState := { m with recvs := m.recvs.filter (fun x => x.handle != h) }

/-- R247 to R249: MRECV posts a receive, or takes the oldest message of the overflow queue that matches; MTEST gives a handle's status
and frees what is done; MCANCEL removes a pending receive. -/
def messageReceiveRule : Prop :=
  (∀ (s : State) (e : Env) (o : OpSSSS) (m : MsgState), s.executes e → e.w.canonical → e.g o.g ≠ 0 →
    e.usable [useS o.d 1 43, useS o.a 1 35, useS o.b 1 27, useS o.c 1 19] →
    let a := (e.w.s o.a.toNat).toNat % 2 ^ 20
    a % 4 = 0 → a + 256 ≤ e.l.pk.scr → s.msg? e.x.key (clusterOf e.c.core) = some m →
    (128 ≤ m.recvs.length →
      ∃ (w' : Warp), exec (.mrecv o) s = .next (e.retired s w') ∧ e.w.onlyScal w' (regsAt o.d.toNat 1) ∧ w'.s o.d.toNat = 0xFFFFFFFF) ∧
    (m.recvs.length < 128 →
      ∃ (r : Recv) (t : State) (w' : Warp) (m' : MsgState), exec (.mrecv o) s = .next (e.retired t w') ∧
        e.w.onlyScal w' (regsAt o.d.toNat 1) ∧ w'.s o.d.toNat = r.handle ∧
        2 ^ 31 ≤ r.handle.toNat ∧ r.handle.toNat < 2 ^ 31 + 2 ^ 23 ∧ r.handle.toNat % 2 ^ 8 < 128 ∧
        (∀ x ∈ m.recvs, x.handle.toNat % 2 ^ 8 ≠ r.handle.toNat % 2 ^ 8) ∧
        (s.usedHandles.length < 2 ^ 15 → (2 * (64 * e.x.key + clusterOf e.c.core) + 1, r.handle) ∉ s.usedHandles) ∧ r.wg = e.wg.id ∧ r.addr = a ∧
        r.tag = (e.w.s o.b.toNat).toNat % 2 ^ 16 ∧ r.src = (e.w.s o.b.toNat).toNat / 2 ^ 16 ∧
        r.tmask = (e.w.s o.c.toNat).toNat % 2 ^ 16 ∧ r.smask = (e.w.s o.c.toNat).toNat / 2 ^ 16 ∧
        t.msg? e.x.key (clusterOf e.c.core) = some m' ∧ m'.recvs = m.recvs ++ [r] ∧ t.mem = s.mem ∧ t.fe = s.fe ∧
        ((∀ v ∈ m.ovf, r.accepts v.tag v.src = false) → r.done = none ∧ m'.ovf = m.ovf ∧ t.scr = s.scr) ∧
        (∀ (xs : List OvMsg) (v : OvMsg) (ys : List OvMsg), m.ovf = xs ++ v :: ys → (∀ x ∈ xs, r.accepts x.tag x.src = false) → r.accepts v.tag v.src = true →
          r.done = some (v.data.length, v.tag, v.src) ∧ m'.ovf = xs ++ ys ∧
          t.scr = (s.scrWrite e.wg.core (e.wg.scrBase + a) v.data).scr))) ∧
  (∀ (s : State) (e : Env) (o : OpSS), s.executes e → e.w.canonical → e.g o.g ≠ 0 → e.usable [useS o.d 2 43, useS o.a 1 35] →
    let h := e.w.s o.a.toNat
    let cl := clusterOf e.c.core
    let reads := fun (t : State) (st len tag src : Nat) =>
      ∃ (w' : Warp), exec (.mtest o) s = .next (e.retired t w') ∧ e.w.onlyScal w' (regsAt o.d.toNat 2) ∧
        w'.s o.d.toNat = BitVec.ofNat 32 (st + len * 2 ^ 16) ∧ w'.s (o.d.toNat + 1) = BitVec.ofNat 32 (tag + src * 2 ^ 16)
    (∀ x : SendEnt, s.sends.find? (fun x => x.core == e.c.core && x.ctx == e.x.key && x.handle == h) = some x →
      let gone := { s with sends := s.sends.filter (·.id != x.id) }
      (x.stale = true → reads gone 2 0 0 0) ∧ (x.stale = false → x.left = 0 → reads gone 1 0 0 0) ∧
      (x.stale = false → x.left ≠ 0 → reads s 0 0 0 0)) ∧
    (s.sends.find? (fun x => x.core == e.c.core && x.ctx == e.x.key && x.handle == h) = none →
      (s.msg? e.x.key cl = none → reads s 4 0 0 0) ∧
      (∀ m : MsgState, s.msg? e.x.key cl = some m →
        (m.recvs.find? (fun r => r.handle == h) = none → reads s 4 0 0 0) ∧
        (∀ r : Recv, m.recvs.find? (fun r => r.handle == h) = some r → r.done = none → reads s 0 0 0 0) ∧
        (∀ (r : Recv) (len tag src : Nat), m.recvs.find? (fun r => r.handle == h) = some r → r.done = some (len, tag, src) →
          reads ((s.modMsg e.x.key cl (dropRecv h)).l1Flush e.c.core)
            1 len tag src)))) ∧
  (∀ (s : State) (e : Env) (o : OpPS), s.executes e → e.g o.g = 0 → e.usable [useS o.a 1 35] →
    exec (.mcancel o) s = .next (e.retired s e.w)) ∧
  (∀ (s : State) (e : Env) (o : OpPS), s.executes e → e.w.canonical → e.g o.g ≠ 0 → e.usable [useS o.a 1 35] →
    let h := e.w.s o.a.toNat
    let cl := clusterOf e.c.core
    (∀ (m : MsgState) (r : Recv), s.msg? e.x.key cl = some m → r ∈ m.recvs → r.handle = h → r.done = none →
      ∃ (w' : Warp), exec (.mcancel o) s = .next (e.retired (s.modMsg e.x.key cl (dropRecv h)) w') ∧ e.w.wrotePred w' (e.g o.g) o.d (fun _ => true)) ∧
    ((∀ m : MsgState, s.msg? e.x.key cl = some m → ∀ r ∈ m.recvs, r.handle = h → r.done ≠ none) →
      ∃ (w' : Warp), exec (.mcancel o) s = .next (e.retired s w') ∧ e.w.wrotePred w' (e.g o.g) o.d (fun _ => false)))

/-- R246 to R249: sending, receiving, testing and cancelling messages.
Rests on log entries 12, 41. -/
def Obligations.Messages : Prop := messageSendRule ∧ messageReceiveRule

/-- R250, R358 to R360: COLL queues a collective under the context's next ticket, counts it for its group word, and is a release at .sys;
COLL is refused without a rank or with a program that is no multiple of 8; CWAIT parks the threads in a wait for their ticket.
Rests on log entry 17. -/
def Obligations.CollectiveIssue : Prop :=
  (∀ (s : State) (e : Env) (o : OpColl), s.executes e → e.w.canonical → e.g o.g ≠ 0 →
    e.usable [useS o.d 1 43, useS o.a 2 35, .s (8 * o.rk.toNat) 8 1 27, useS o.c 1 19] →
    let prog := (e.w.s64 o.a.toNat).toNat
    let gw := (e.w.s o.c.toNat).toNat
    let r := wordsAt e.w.s (8 * o.rk.toNat) 8
    s.ranked = true → prog % 8 = 0 → collOffence s gw r = none → recOffence r o.rk.toNat = none → bit r 204 = false →
    (s.colls.filter (fun c => c.ctx == e.x.key && !c.running)).length < 16 → e.settled s (e.g o.g) →
    let n := s.collCount e.x.key (gw % 2 ^ 13) (gw / 2 ^ 13 % 2 ^ 13 + 1) + 1
    ∃ (c : Coll) (t : State) (w' : Warp), exec (.coll o) s = .next (e.retired t w') ∧ e.w.onlyScal w' (regsAt o.d.toNat 1) ∧
      w'.s o.d.toNat = e.x.ticket + 1 ∧ t.colls = s.colls ++ [c] ∧ c.ticket = e.x.ticket + 1 ∧ c.prog = prog ∧
      c.base = fld r 0 64 ∧ c.ext0 = fld r 64 32 ∧ c.nch = max 1 (fld r 96 32) ∧ c.gbase = gw % 2 ^ 13 ∧
      c.g = gw / 2 ^ 13 % 2 ^ 13 + 1 ∧ c.res = 0 ∧ c.flagA = 0 ∧ c.running = false ∧
      c.ord = n ∧ t.ctxs = updateWhere (·.key == e.x.key) (fun x => { x with
        ticket := e.x.ticket + 1
        colled := Tbl.set 0 x.colled (groupKey (gw % 2 ^ 13) (gw / 2 ^ 13 % 2 ^ 13 + 1)) n }) s.ctxs ∧
      ∀ x ∈ t.writes, x.die ≠ s.dieOf e.c.core) ∧
  (∀ (s : State) (e : Env) (o : OpColl), s.executes e → e.g o.g ≠ 0 →
    e.usable [useS o.d 1 43, useS o.a 2 35, .s (8 * o.rk.toNat) 8 1 27, useS o.c 1 19] →
    (s.ranked = true → (e.w.s64 o.a.toNat).toNat % 8 ≠ 0 → exec (.coll o) s = .next (e.trapped s ⟨1, e.c.mask, 35, []⟩)) ∧
    (s.ranked = false → exec (.coll o) s = .next (e.trapped s ⟨1, e.c.mask, 768, []⟩))) ∧
  (∀ (s : State) (e : Env) (o : OpS), s.executes e → e.g o.g ≠ 0 → e.usable [useS o.a 1 35] →
    exec (.cwait o) s = .next (e.parked s (e.w.waitIn (lanesOf (e.g o.g)) (fun _ => .cwait (e.w.s o.a.toNat))) (e.g o.g)))

/-- R210, R236, R237: LAUNCH enters a packet into the system channel and gives its sequence number; MIGRQ gives each lane the state of
its page; TINV with nothing to shoot down writes 0. -/
def Obligations.LaunchAndPages : Prop :=
  (∀ (s : State) (e : Env) (o : OpLaunch) (p : Part), s.executes e → e.w.canonical → e.g o.g ≠ 0 → o.a.toNat % 8 = 0 → o.a.toNat ≤ 32 →
    e.usable [useS o.d 2 43, .s o.a.toNat 32 1 35] → s.part? e.l.part = some p → s.channelRoom p = true → e.settled s (e.g o.g) →
    ∃ (l : Launch) (t : State) (w' : Warp), exec (.launch o) s = .next (e.retired t w') ∧ e.w.onlyScal w' (regsAt o.d.toNat 2) ∧
      w'.s64 o.d.toNat = BitVec.ofNat 64 p.nextSeq ∧ t.launches = s.launches ++ [l] ∧ l.seq = p.nextSeq ∧ l.part = p.num ∧
      l.ctx = e.x.key ∧ l.pk = Packet.ofBits (wordsAt e.w.s o.a.toNat 32) ∧
      t.parts = updateWhere (·.num == p.num) (fun p => { p with nextSeq := p.nextSeq + 1 }) s.parts ∧
      ∀ x ∈ t.writes, x.die ≠ s.dieOf e.c.core) ∧
  (∀ (s : State) (e : Env) (o : OpLaunch), s.executes e → o.d.toNat % 2 = 0 → o.a.toNat % 8 ≠ 0 ∨ 32 < o.a.toNat →
    exec (.launch o) s = .next (e.trapped s ⟨1, e.c.mask, 35, []⟩)) ∧
  (∀ (s : State) (e : Env) (o : OpMigrq), s.executes e → e.w.canonical → o.ctx = none →
    e.usable [useD o.d 1, o.a.use 2 35] →
    (∀ l ∈ lanesOf (e.g o.g), ∀ ls, s.pageState e.x (e.w.src64 o.a l).toNat = .absent ls →
      s.inLease e.x (e.w.src64 o.a l).toNat = false) →
    ∃ (w' : Warp), exec (.migrq o) s = .next (e.retired s w') ∧
      e.w.wrote w' (e.g o.g) o.d 32 (fun l =>
        if s.inLease e.x (e.w.src64 o.a l).toNat = false then 3
        else match s.pageState e.x (e.w.src64 o.a l).toNat with
          | .resident => 0
          | .absent _ => 1
          | .failed => 2
          | .refused => 3)) ∧
  (∀ (s : State) (e : Env) (o : OpMigrq) (l : Nat) (ls : Leaf), s.executes e → e.w.canonical → o.ctx = none →
    e.usable [useD o.d 1, o.a.use 2 35] → lanesOf (e.g o.g) = [l] → s.inLease e.x (e.w.src64 o.a l).toNat = true →
    s.pageState e.x (e.w.src64 o.a l).toNat = .absent ls →
    let u := (s.migrate e.x (e.w.src64 o.a l).toNat ls).1
    ∃ (w' : Warp), exec (.migrq o) s = .next (e.retired u w') ∧ e.w.wrote w' (e.g o.g) o.d 32 (fun _ => 1)) ∧
  (∀ (s : State) (e : Env) (o : OpTinv), s.executes e → e.w.canonical → e.g o.g ≠ 0 →
    e.usable [useS o.d 1 43, useS o.a 2 35, useS o.b 2 27, useS o.c 1 19] → (e.w.s o.c.toNat).toNat ≤ 7 →
    (e.x.priv = true → e.w.wait (lowest e.c.mask) = .ready →
      (e.w.s64 o.b.toNat).toNat = 0 ∨ s.ctx? (e.x.key / 8 * 8 + (e.w.s o.c.toNat).toNat) = none →
      ∃ (w' : Warp), exec (.tinv o) s = .next (e.retired s w') ∧ e.w.onlyScal w' (regsAt o.d.toNat 1) ∧ w'.s o.d.toNat = 0) ∧
    (e.x.priv = true → ∀ sd, e.w.wait (lowest e.c.mask) = .tinv sd.id → s.shoots.find? (·.id == sd.id) = some sd → sd.done = true →
      ∃ (w' : Warp), exec (.tinv o) s = .next (e.retired ({ s with shoots := s.shoots.filter (·.id != sd.id) }.l1Flush e.c.core) w') ∧
        e.w.onlyScal w' (regsAt o.d.toNat 1) ∧ w'.s o.d.toNat = if sd.fenced then 1 else 0) ∧
    (e.x.priv = false → ∃ (t : Trap), e.privilege 0x91 0 = .trap t ∧ t.cause = 2 ∧ exec (.tinv o) s = .next (e.trapped s t)))

/-! ## Pair words (R137 to R142, R251) -/

/-- The rows of Table 13 that are no control: short opcode, full form, the pair word it heads, and a condition under which its slot
performs. -/
def slotRows : List (Nat × (Slot → Instr) × (Slot → OtherSlot → Instr) × (State → Env → Slot → Prop)) :=
  let rr := fun (_ : State) (e : Env) (x : Slot) => e.usable [useD (slotV x.d) 1, (slotB x).use 1 27]
  let ri := fun (_ : State) (e : Env) (x : Slot) => e.usable [useD (slotV x.d) 1, (Src.v (slotV x.s)).use 1 35]
  let pc := fun (_ : State) (e : Env) (x : Slot) => e.usable [(Src.v (slotV x.s)).use 1 35]
  let mi := fun (_ : State) (e : Env) (x : Slot) => e.usable [useD (slotV x.d) 1]
  let scr := fun (f : Slot → OpSpad) (_ : State) (e : Env) (x : Slot) =>
    e.wg.core = e.c.core ∧ e.usable (useMem (f x).d (f x).a 4) ∧ e.scrInside (e.g (f x).g) (f x).a (f x).off.toInt 4
  let mr := fun (need : Need) (s : State) (e : Env) (x : Slot) =>
    e.recordUsable (slotMr x).rk.toNat ∧ e.usable (useMem (slotMr x).d (slotMr x).a 4) ∧
      e.reaches s (recOf e.w.s (slotMr x).rk.toNat) need 4 (e.offsets (lanesOf (e.g (slotMr x).g)) (slotMr x).a (slotMr x).off.toInt)
  [(0, fun x => .iadd (slotRr x), .pairIaddRr, rr), (1, fun x => .iaddImm (slotRi x), .pairIaddRi, ri),
   (2, fun x => .isub (slotRr x), .pairIsubRr, rr), (3, fun x => .imul (slotRr x), .pairImulRr, rr),
   (4, fun x => .imulImm (slotRi x), .pairImulRi, ri), (5, fun x => .iminI (slotRr x), .pairIminIRr, rr),
   (6, fun x => .imaxI (slotRr x), .pairImaxIRr, rr), (7, fun x => .iminN (slotRr x), .pairIminNRr, rr),
   (8, fun x => .imaxN (slotRr x), .pairImaxNRr, rr), (9, fun x => .and (slotRr x), .pairAndRr, rr),
   (10, fun x => .andImm (slotRi x), .pairAndRi, ri), (11, fun x => .or (slotRr x), .pairOrRr, rr),
   (12, fun x => .orImm (slotRi x), .pairOrRi, ri), (13, fun x => .xor (slotRr x), .pairXorRr, rr),
   (14, fun x => .xorImm (slotRi x), .pairXorRi, ri), (15, fun x => .andn (slotRr x), .pairAndnRr, rr),
   (16, fun x => .shlImm (slotRi x), .pairShlRi, ri), (17, fun x => .shrImm (slotRi x), .pairShrRi, ri),
   (18, fun x => .sarImm (slotRi x), .pairSarRi, ri), (19, fun x => .shl (slotRr x), .pairShlRr, rr),
   (20, fun x => .icmpImm (slotPc x), .pairIcmpPc, pc), (21, fun x => .popc (slotRm x), .pairPopcRm, ri),
   (22, fun x => .clz (slotRm x), .pairClzRm, ri), (23, fun x => .iabs (slotRm x), .pairIabsRm, ri),
   (24, fun x => .fadd (slotFr x), .pairFaddRr, rr), (25, fun x => .fsub (slotFr x), .pairFsubRr, rr),
   (26, fun x => .fmul (slotFr x), .pairFmulRr, rr), (27, fun x => .fmin (slotFr x), .pairFminRr, rr),
   (28, fun x => .fmax (slotFr x), .pairFmaxRr, rr), (29, fun x => .frcp (slotFm x), .pairFrcpRm, fun s e x => (slotFm x).rm ≠ .sr ∧ ri s e x),
   (30, fun x => .frsq (slotFm x), .pairFrsqRm, fun s e x => (slotFm x).rm = .rne ∧ ri s e x),
   (31, fun x => .fexp2 (slotFm x), .pairFexp2Rm, fun s e x => (slotFm x).rm = .rne ∧ ri s e x),
   (32, fun x => .flog2 (slotFm x), .pairFlog2Rm, fun s e x => (slotFm x).rm = .rne ∧ ri s e x),
   (33, fun x => .mov (slotRm x), .pairMovRm, ri), (34, fun x => .movi (slotMi x), .pairMoviMi, mi),
   (35, fun x => .isubImm (slotRi x), .pairIsubRi, ri), (36, fun x => .iadds (slotRr x), .pairIaddsRr, rr),
   (37, fun x => .ld (slotMr x), .pairLdMr, fun s e x => mr .read s e x ∧ s.poison = [] ∧ e.owes s (e.g (slotMr x).g) true = false ∧
      e.permitsLoads s (recOf e.w.s (slotMr x).rk.toNat) 4 (e.offsets (lanesOf (e.g (slotMr x).g)) (slotMr x).a (slotMr x).off.toInt) = true),
   (38, fun x => .st (slotMr x), .pairStMr, fun s e x => mr .write s e x ∧ e.settled s (e.g (slotMr x).g) ∧
      e.permitsStores s (recOf e.w.s (slotMr x).rk.toNat) 4 (e.offsets (lanesOf (e.g (slotMr x).g)) (slotMr x).a (slotMr x).off.toInt) = true),
   (39, fun x => .lds (slotMs x), .pairLdsMs, scr slotMs), (40, fun x => .sts (slotMs x), .pairStsMs, scr slotMs),
   (41, fun x => .ldfe (slotMf x), .pairLdfeMf, fun s e x => scr slotMf s e x ∧
      ∀ l ∈ lanesOf (e.g (slotMf x).g),
        ∀ k ∈ granules (e.wg.scrBase + (e.scrAddr (slotMf x).a (slotMf x).off.toInt l).toNat) 4, s.feGet e.c.core k = true)]

/-- `w'` holds what `w0` and `w1` changed of `w`, which read the same sources. -/
def mergedFrom (w w0 w1 w' : Warp) : Prop :=
  { w' with vregs := w.vregs, preds := w.preds } = w ∧
    (∀ r l, l < 32 → w'.v r l = if w1.v r l = w.v r l then w0.v r l else w1.v r l) ∧
    ∀ p l, p < 8 → l < 32 → w'.p p l = if w1.p p l = w.p p l then w0.p p l else w1.p p l

/-- R137 to R140, R251: a pair word whose slots perform has the effects of the two full forms that its slots expand to, each computed
from the registers before the word; slot 1 may also be the one that accesses memory.
Rests on log entries 26, 70. -/
def Obligations.PairWords : Prop :=
  ∀ (s : State) (e : Env) (own : Slot) (other : OtherSlot), s.executes e → e.w.canonical → e.noArithTraps →
    e.c.mask &&& e.w.arrived = 0 → Memory.wf s.scr = true → Tbl.wf false s.fe = true →
    ∀ p ∈ slotRows, okPair p.1 own other = true → p.2.2.2 s e own →
      ∃ (u : State) (w0 : Warp), exec (p.2.1 own) s = .next (e.retired u w0) ∧
        (∀ q ∈ slotRows, q.1 = other.sop.toNat → q.1 < 37 → q.2.2.2 s e other.slot →
          ∃ (w1 : Warp) (w' : Warp), exec (q.2.1 other.slot) s = .next (e.retired s w1) ∧
            exec (p.2.2.1 own other) s = .next (e.retired u w') ∧ mergedFrom e.w w0 w1 w') ∧
        (∀ a b, 37 ≤ other.sop.toNat → slotOp other.sop.toNat other.slot e s = .ok a →
          slotOp other.sop.toNat other.slot e (u.setWarp e.c.core e.c.slot w0) = .ok b →
          exec (p.2.2.1 own other) s = .next (e.finish s (.ok b)))

/-- R140, R142, R43, R196, R199 to R202, R207: a pair word with a control slot performs slot 0, then the control; a thread that waits in
slot 1 has performed slot 0 already.
Rests on log entry 26. -/
def Obligations.PairControl : Prop :=
  ∀ (s : State) (e : Env) (own : Slot) (other : OtherSlot), s.executes e → e.w.canonical → e.noArithTraps →
    Tbl.wf 0 e.w.pcs = true → e.c.mask &&& e.w.arrived = 0 → Memory.wf s.scr = true → Tbl.wf false s.fe = true →
    ∀ q ∈ slotRows, q.1 = other.sop.toNat → q.2.2.2 s e other.slot →
      ∃ (u : State) (w0 : Warp), exec (q.2.1 other.slot) s = .next (e.retired u w0) ∧
        (let g := e.g (slotGuard own)
         let wait := fun (w : Warp) (f : Nat → Wait) => { w with arrived := w.arrived ||| g }.waitIn (lanesOf g) f
         (okPair 44 own other = true → exec (.pairNopZ own other) s = .next (e.retired u w0)) ∧
         (okPair 45 own other = true → g ≠ 0 →
           exec (.pairPauseZ own other) s = .next (e.retired u { w0 with demoted := some (s.clk + 64) })) ∧
         (okPair 42 own other = true →
           let to' := e.c.pc + 8 * BitVec.signExtend 64 (own.d ++ own.s ++ own.imm)
           (∀ t, e.resolved = some t → t = allTo g to') →
           ∃ (w' : Warp), exec (.pairBraBr own other) s = .next { u.setWarp e.c.core e.c.slot w' with cur := none } ∧
             e.sent w0 w' (fun l => if g.getLsbD l then to' else e.c.pc + 8)) ∧
         (okPair 43 own other = true → g ≠ 0 → e.w.bankCount = 0 →
           let t := (u.setWarp e.c.core e.c.slot { w0 with exited := w0.exited ||| g }).leaveBarriers e.wg e.w.widx (lanesOf g)
           (e.w.live &&& ~~~g ≠ 0 → (∀ v, (e.finish s (.ok t)).warp? e.c.core e.c.slot = some v → v.stuck = false) →
             exec (.pairExitZ own other) s = .next (e.finish s (.ok t))) ∧
           (e.w.live &&& ~~~g = 0 → e.wg.exitedWarps + 1 ≠ e.wg.warps →
             exec (.pairExitZ own other) s =
               .next (e.finish s (.ok (t.retireWarp e.c.core e.c.slot ((t.wg? e.w.wg).getD e.wg)))))) ∧
         (okPair 46 own other = true → g ≠ 0 →
           let w := wait w0 (fun _ => .wsync 0xFFFFFFFF)
           ((∃ l, l < 32 ∧ e.w.live.getLsbD l = true ∧ g.getLsbD l = false ∧ ∀ k, e.w.wait l ≠ .wsync k) ∨
             (e.w.live &&& g ≠ 0 ∧ e.w.live &&& ~~~g = 0 ∧ ∀ l, l < 32 → g.getLsbD l = true → e.w.pc l = e.c.pc)) →
           exec (.pairWsyncZ own other) s = .next (e.parked u w g)) ∧
         (okPair 47 own other = true → g ≠ 0 → e.usable [.b (own.imm.toNat % 128)] → e.settled s g →
           let b := own.imm.toNat % 128
           let t := u.setWarp e.c.core e.c.slot { w0 with arrived := w0.arrived ||| g }
           let r := t.arriveLanes e.wg.id e.w.widx b none (lanesOf g)
           let w := ({ w0 with arrived := w0.arrived ||| g } : Warp).arrivedIn r.2
           exec (.pairBsyncZb own other) s =
             .next (e.parked r.1 (w.waitIn (lanesOf g) (fun l => .bsync b (Tbl.get 0 w.phases l))) g)))

/-! ## Events: the pipelines and the memory slices -/

/-- R20 to R28, R162, R163, R195, R309: a selection dispatches one word of the group that the partition picks, with the mode of that
moment, or holds the fault of its fetch; entries issue, a BRA resolves, entries retire; a demotion ends after its time.
Rests on log entries 8, 21, 22, 23. -/
def Obligations.PipelineEvents : Prop :=
  (∀ (s : State) (p : Pick) (e : Env), s.pickIn (4 * s.ev.a + s.ev.b % 4) = some p →
    let t := { s.count p with cur := some (s.picked p) }
    let add := fun (u : State) (r : RobEntry) =>
      { u.modWarp p.core p.slot (fun v => { v with rob := v.rob ++ [r] }) with cur := none }
    t.env? = some e →
    (∀ (u : State) (w : DWord), e.fetch t = .word u w →
      ∃ next : Option (Tbl DWord), exec .warpSelection s =
          .next (add u ⟨p.pc, w, p.mask, false, next, s.modeOf p.core p.slot, none⟩) ∧
        ∀ o, decode w = .ok (.bra o) → o.g = ⟨7, false⟩ →
          next = some (allTo p.mask (p.pc + 8 * BitVec.signExtend 64 o.offw))) ∧
    (∀ st : Stop, e.fetch t = .ends st →
      exec .warpSelection s = .next (add t ⟨p.pc, 0, p.mask, false, none, s.modeOf p.core p.slot, some st⟩))) ∧
  (∀ (s : State) (w : Warp) (xs ys : List RobEntry) (r : RobEntry), s.warp? s.ev.a s.ev.b = some w → w.rob = xs ++ r :: ys →
    s.ev.c = xs.length → r.issued = false → issueOrder w.rob xs.length r = true → s.running s.ev.a w = true →
    ∃ t : State, exec .entryIssue s = .next t ∧ t = { s.setWarp s.ev.a s.ev.b { w with rob := xs ++ { r with issued := true } :: ys } with
      ret := t.ret, segAccess := t.segAccess }) ∧
  (∀ (s : State) (e : Env) (r : RobEntry) (rest : List RobEntry) (o : OpBra),
    ({ s with cur := some (r.cur s.ev.a s.ev.b) } : State).executes e → e.w.rob = r :: rest → r.issued = true → r.next = none →
    r.fault = none → s.running s.ev.a e.w = true → decode r.word = .ok (.bra o) →
    ∃ nx : Tbl DWord, exec .controlTransferResolve s =
        .next (s.setWarp s.ev.a s.ev.b { e.w with rob := { r with next := some nx } :: rest }) ∧
      ∀ l ∈ lanesOf r.mask, Tbl.find? nx l =
        some (if e.w.guard o.g l then r.pc + 8 * BitVec.signExtend 64 o.offw else r.pc + 8)) ∧
  (∀ (s : State) (w : Warp) (r : RobEntry) (rest : List RobEntry), s.warp? s.ev.a s.ev.b = some w → w.rob = r :: rest →
    r.issued = true → s.running s.ev.a w = true →
    exec .retirement s = .next { s with cur := some (r.cur s.ev.a s.ev.b) }) ∧
  (∀ (s : State) (w : Warp) (t : Nat), s.warp? s.ev.a s.ev.b = some w → w.demoted = some t → t ≤ s.clk →
    exec .pauseDemotionExpiry s = .next (s.setWarp s.ev.a s.ev.b { w with demoted := none }))

/-- R73, R75 to R78, R85, R93, R96, R231 to R233, R313, R343 to R345: reads are served by one pending access for each line and wait in
the slice while all are in use; writes reach their homes; an ordered contribution is added at key 0, waits for its turn, is discarded
after a halt, or halts its context; a unit arrives whole; what goes to another die arrives after it has crossed the bridges; a reply
follows those made before it; an expired hold drops the quorum; an error is found or halts a context. -/
def memoryEventsRule : Prop :=
  (∀ (s : State) (r : ReadReq), s.reads.find? (·.id == s.ev.a) = some r → s.ev.c ≠ 1 → s.requestOver r = false →
    exec .mergeReadArrival s = .refused (.notEnabled "MERGE_READ_ARRIVAL")) ∧
  (∀ (s : State) (r : ReadReq), s.reads.find? (·.id == s.ev.a) = some r → s.ev.c ≠ 1 → r.acc = none → s.readHolds r = true →
    s.readBehind r = false → s.requestOver r = true →
    (∀ p : Pending, s.pending.find? (fun p => p.joinable r.line) = some p →
      ∃ t : State, exec .mergeReadArrival s = .next t ∧ t.mem = s.mem ∧
        t.pending = updateWhere (·.id == p.id) (fun q => { q with reqs := q.reqs ++ [r.id] }) s.pending ∧
        t.reads = updateWhere (·.id == r.id) (fun q => { q with sent := true, acc := some p.id }) s.reads) ∧
    (s.pending.find? (fun p => p.joinable r.line) = none →
      (s.pending.filter (fun p => sliceOf p.line == sliceOf r.line)).length < 256 →
      ∃ t : State, exec .mergeReadArrival s = .next t ∧ t.mem = s.mem ∧
        t.pending = s.pending ++ [⟨s.nextId, r.line, [r.id], false⟩] ∧
        t.reads = updateWhere (·.id == r.id) (fun q => { q with sent := true, acc := some s.nextId }) s.reads) ∧
    (s.pending.find? (fun p => p.joinable r.line) = none →
      256 ≤ (s.pending.filter (fun p => sliceOf p.line == sliceOf r.line)).length → r.sent = false →
      exec .mergeReadArrival s =
        .next { s with reads := updateWhere (·.id == r.id) (fun q => { q with sent := true }) s.reads })) ∧
  (∀ (s : State) (p : Pending), s.pending.find? (·.id == s.ev.a) = some p →
    ∃ t : State, exec .pendingAccessReturn s = .next t ∧ t.mem = s.mem ∧ t.pending = s.pending.filter (·.id != p.id) ∧
      t.reads.map (·.id) = s.reads.map (·.id) ∧
      ∀ r ∈ t.reads, (r.id ∈ p.reqs → r.replied.isSome = true) ∧ (r.id ∉ p.reqs → r ∈ s.reads)) ∧
  (∀ (s : State) (r : ReadReq) (turn : Nat), s.reads.find? (·.id == s.ev.a) = some r → s.ev.c ≠ 1 → r.replied = some turn →
    ((∀ q ∈ s.reads, q.agent = r.agent → sliceOf q.line = sliceOf r.line → ∀ k, q.replied = some k → turn ≤ k) → s.replyOver r = true →
      exec .replyArrival s = .next { s with reads := s.reads.filter (·.id != r.id) }) ∧
    (∀ q ∈ s.reads, q.agent = r.agent → sliceOf q.line = sliceOf r.line → ∀ k, q.replied = some k → k < turn →
      exec .replyArrival s = .refused (.notEnabled "REPLY_ARRIVAL"))) ∧
  (∀ (s : State) (q : PeerReq), s.peerReqs.find? (·.id == s.ev.a) = some q → s.ev.c = 1 → q.sent = true →
    s.carries s.ev.d = true → s.peerReqs.filter (fun r => r.core == q.core && r.write == q.write && !r.sent) = [] →
    exec .replyArrival s = .next { s with peerReqs := s.peerReqs.filter (·.id != q.id) }) ∧
  (∀ (s : State) (xs ys : List InFlight) (w : InFlight), s.ev.c = 0 → s.writes = xs ++ w :: ys → w.id = s.ev.a →
    w.pa = s.ev.b → w.unit = false → s.writeOver w = true →
    writesAhead xs w.agent w.die (lineOf w.pa) + s.contribsAhead w.agent w.die (lineOf w.pa) w.id
      < permitsOf w.agent (homeDie (lineOf w.pa) == w.die) true →
    (∀ v ∈ xs, ¬ (v.id = s.ev.a ∧ v.pa = s.ev.b) ∧ (v.die = w.die → v.clashes w = false ∧
      ¬ (v.agent = w.agent ∧ sliceOf (lineOf v.pa) = sliceOf (lineOf w.pa)))) → Memory.wf s.mem = true →
    (∀ m, w.mir = some m → w.pa + w.bytes.length ≤ m ∨ m + w.bytes.length ≤ w.pa) →
    ∃ t : State, exec .sliceWriteArrival s = .next t ∧ t.writes = xs ++ ys ∧ readBytes t.mem w.pa w.bytes.length = w.bytes ∧
      (∀ m, w.mir = some m → readBytes t.mem m w.bytes.length = w.bytes) ∧
      ∀ a, ¬ (w.pa ≤ a ∧ a < w.pa + w.bytes.length) → (∀ m, w.mir = some m → ¬ (m ≤ a ∧ a < m + w.bytes.length)) →
        Tbl.get 0 t.mem a = Tbl.get 0 s.mem a) ∧
  (∀ (s : State) (w : InFlight), s.ev.c = 0 → s.writes.find? (fun v => v.id == s.ev.a && v.pa == s.ev.b) = some w → w.unit = true →
    let whole := fun (v : InFlight) => v.unit && v.id == w.id
    let ahead := s.writes.takeWhile (fun v => !whole v)
    (∀ v ∈ s.writes, whole v = true → v.follows ahead = false ∧ s.writeHolds v ahead = true ∧ s.writeOver v = true) →
    exec .sliceWriteArrival s =
      .next { (s.writes.filter whole).foldl State.commit s with writes := s.writes.filter (fun v => !whole v) }) ∧
  (∀ (s : State) (c : Contrib), s.contribs.find? (fun c => c.id == s.ev.a && !c.waiting) = some c →
    (∀ (x : Ctx) (h : Halt), s.ctx? c.by'.ctx = some x → x.halt = some h → c.home ∈ h.dies →
      ∃ t : State, exec .orderedContributionArrival s = .next t ∧ t.contribs = s.contribs.filter (·.id != c.id) ∧ t.mem = s.mem ∧
        t.seqs = s.seqs) ∧
    (∀ x : Ctx, s.ctx? c.by'.ctx = some x → x.halt = none → s.contribHolds c = true → s.contribMute c = false →
      s.contribBehind c = false → s.over 3 c.id c.die c.home = true →
      (s.seqAt c.pa = none → (s.seqs.filter (fun q => sliceOf (lineOf q.pa) == c.slice)).length < 32 →
        (c.key ≠ 0 → s.placeLeft c = true → exec .orderedContributionArrival s = .next { s with
          seqs := s.seqs ++ [⟨c.pa, c.home, c.by'.ctx, 0, c.n⟩]
          contribs := updateWhere (·.id == c.id) (fun x => { x with waiting := true }) s.contribs }) ∧
        (c.key = 0 → c.pa < 2 ^ 80 → c.mir = none → s.writes = [] → s.poison = [] → Memory.wf s.mem = true → 1 < c.n →
          ∃ t : State, exec .orderedContributionArrival s = .next t ∧ t.contribs = s.contribs.filter (·.id != c.id) ∧
            t.seqs = s.seqs ++ [⟨c.pa, c.home, c.by'.ctx, 1, c.n⟩] ∧
            readBytes t.mem c.pa (orderedSize c.fmt) =
              leBytes (orderedSize c.fmt) (orderedAdd c.fmt (leNat (readBytes s.mem c.pa (orderedSize c.fmt))) c.val))) ∧
      (∀ q : OpenSeq, s.seqAt c.pa = some q →
        (c.n ≠ q.n ∨ c.key < q.next →
          ∃ (t : State) (y : Ctx) (h : Halt), exec .orderedContributionArrival s = .next t ∧ t.mem = s.mem ∧
            t.contribs = s.contribs.filter (·.id != c.id) ∧ t.ctx? c.by'.ctx = some y ∧ y.halt = some h ∧ h.cause = 40 ∧ h.dies = []) ∧
        (c.n = q.n → q.next < c.key → s.placeLeft c = true →
          (∀ x ∈ s.contribs, x.waiting = true → x.pa = c.pa → x.key ≠ c.key) →
          exec .orderedContributionArrival s = .next { s with
            contribs := updateWhere (·.id == c.id) (fun x => { x with waiting := true }) s.contribs })))) ∧
  (∀ (s : State) (w : Warp) (t0 l : Nat) (m : Assoc) (c : Convoy), s.warp? s.ev.a s.ev.b = some w → w.cvSince = some t0 →
    w.assoc = some m → s.launchOf w = some l → s.convoy? (s.dieOf s.ev.a) l m.decl = some c → w.cvPass = false →
    t0 + c.holdCycles ≤ s.clk →
    exec .convoyHoldExpiry s = .next (s.cvExpire c s.ev.a s.ev.b m.pos) ∧
    ∀ v, (s.cvExpire c s.ev.a s.ev.b m.pos).warp? s.ev.a s.ev.b = some v → v.cvPass = true) ∧
  (∀ s : State, (s.ev.a = 1 → s.poison.contains (lineOf s.ev.b) = false →
      exec .uncorrectableError s = .next { s with poison := s.poison ++ [lineOf s.ev.b] }) ∧
    (s.ev.a = 0 → s.ev.b < 8 * s.clusters → (s.ctx? s.ev.c).isSome → ∀ (slot seq : Nat) (mask : LaneMask) (pc wg : DWord),
      s.errOrigin s.ev.b s.ev.e s.ev.c s.ev.d = some (slot, mask, pc, seq, wg) →
      exec .uncorrectableError s =
        .next (s.raiseHalt s.ev.c (s.dieOf s.ev.b) s.ev.b slot pc seq wg { cause := 33, src := s.ev.d, lmask := mask })))

/-- R74, R396: a free segment, or with policy 2 one that no access has touched for 4,096 cycles, enters retention in 48 cycles when the
policy asks for it, and leaves it in 64. -/
def retentionEventsRule : Prop :=
  ∀ s : State, s.ev.b < 1408 → s.ev.a < 8 * s.clusters →
    let k := 2048 * s.ev.a + s.ev.b
    (Tbl.find? s.ret k = none → s.retPol ≠ 0 →
      s.segFree s.ev.a s.ev.b = true ∨ s.retPol = 2 ∧ s.segLast s.ev.a s.ev.b + 4096 ≤ s.clk →
      exec .retentionEntry s = .next { s with ret := Tbl.put s.ret k (.entering s.clk) }) ∧
    (∀ t, Tbl.find? s.ret k = some (.entering t) →
      (t + 48 ≤ s.clk → exec .retentionEntry s = .next { s with ret := Tbl.put s.ret k .held }) ∧
      (s.retPol = 0 → exec .retentionTimeoutExit s = .next { s with ret := Tbl.put s.ret k (.leaving (max s.clk (t + 48))) })) ∧
    (Tbl.find? s.ret k = some .held → s.retPol = 0 →
      exec .retentionTimeoutExit s = .next { s with ret := Tbl.put s.ret k (.leaving s.clk) }) ∧
    (∀ t, Tbl.find? s.ret k = some (.leaving t) →
      (t + 64 ≤ s.clk → exec .retentionExit s = .next { s with ret := Tbl.del s.ret k }) ∧
      (s.clk < t + 64 → exec .retentionExit s = .refused (.notEnabled "RETENTION_EXIT")))

/-- R73 to R78, R85, R93, R96, R231, R232, R396: the memory slices, convoys, errors and retention.
Rests on log entries 8, 14, 16, 19, 34, 61, 65, 70, 77. -/
def Obligations.MemoryEvents : Prop := memoryEventsRule ∧ retentionEventsRule

/-! ## Events: the engines -/

/-- R61, R66, R69, R71, R103: a reel command starts once nothing it follows is left; a piece lands or halts the context; a deferred
block that a refused page ends is recorded as failed; completion counts the command and takes the die's writes to their homes.
Rests on log entries 8, 20, 32, 70. -/
def Obligations.ReelEvents : Prop :=
  ∀ (s : State) (c : ReelCmd), s.reelHead s.ev.a s.ev.b = some c → s.engLive c.by' = true →
    (c.started = false → c.after = [] → exec .reelCommandStart s = .next (s.setReel c.id (fun c => { c with started := true }))) ∧
    (∀ (x : EngCtx) (addr len : Nat) (pat : Word), s.engCtx c.by' = some x → c.started = true → c.piece < c.cuts.length →
      c.op = .fill addr len pat false → Memory.wf s.scr = true →
      let lo := c.cuts.getD c.piece len
      let hi := c.cuts.getD (c.piece + 1) len
      ∃ t : State, exec .reelPieceComplete s = .next t ∧ t.mem = s.mem ∧ t.writes = s.writes ∧
        t.reelQ = updateWhere (·.id == c.id) (fun c => { c with piece := c.piece + 1 }) s.reelQ ∧
        (∀ i, i < hi - lo → t.scrBytes x.g.core (x.g.scrBase + addr + lo + i) 1 = [BitVec.ofNat 8 (pat.toNat / 2 ^ (8 * (i % 4)) % 256)]) ∧
        ∀ a, ¬ (x.g.core * 2 ^ 20 + (x.g.scrBase + addr + lo) ≤ a ∧ a < x.g.core * 2 ^ 20 + (x.g.scrBase + addr + lo) + (hi - lo)) →
          Tbl.get 0 t.scr a = Tbl.get 0 s.scr a) ∧
    (∀ (x : EngCtx) (r : Rec) (saddr swz mask : Nat) (org : List Int) (size : List Nat) (bar : Option Nat), s.engCtx c.by' = some x →
      c.started = true → c.piece < c.cuts.length → c.op = .box r saddr swz mask org size bar → s.reelMute c = false →
      s.reelFull c x = false →
      (∀ t : State, s.boxPiece c x r saddr swz mask org size bar = .ok t →
        exec .reelPieceComplete s = .next (t.setReel c.id (fun c => { c with piece := c.piece + 1 }))) ∧
      (∀ h : CFault, s.boxPiece c x r saddr swz mask org size bar = .error h →
        exec .reelPieceComplete s = .next (s.engHalt c.by' 2 h))) ∧
    (∀ (x : EngCtx) (r : Rec) (idxs : List Nat) (lanes : LaneMask) (blk list : Nat) (bar : Option Nat), s.engCtx c.by' = some x →
      c.started = true → c.op = .idx r idxs lanes blk list bar → s.reelMute c = false →
      (c.walk ≠ [] → s.reelFull c x = false → ∀ h : CFault, s.idxPiece c x r idxs blk list bar = .error h →
        exec .reelPieceComplete s = .next (s.engHalt c.by' 2 h)) ∧
      (∀ ps, c.walk = [] → c.deferred.find? (·.1 == s.ev.c) = some (s.ev.c, ps) →
        (∀ va ∈ r.partVas (idxs.getD s.ev.c 0) ps, s.migOf x.x.key va = none ∧ s.shooting x.x.key va = false) →
        s.engFull x.who c.core false false r ((r.partVas (idxs.getD s.ev.c 0) ps).map (·, r.unit)) = false →
        (match s.blockState x r (r.partVas (idxs.getD s.ev.c 0) ps) with
          | .failed => True
          | _ => False) →
        exec .cpidxDeferredFetch s = .next (s.setReel c.id (fun c =>
          { c with deferred := c.deferred.filter (·.1 != s.ev.c), status := Tbl.set 0 c.status s.ev.c 2 })))) ∧
    (c.started = true → c.cuts.length ≤ c.piece → c.deferred = [] → (∀ r idxs lanes blk list bar, c.op ≠ .idx r idxs lanes blk list bar) →
      ∃ t : State, exec .reelCommandComplete s = .next t ∧ t.scr = s.scr ∧
        t.reelQ = (s.reelQ.filter (·.id != c.id)).map (fun d => { d with after := d.after.filter (· != c.id) }) ∧
        (∀ w ∈ t.writes, w.die ≠ s.dieOf c.core) ∧
        t.wgs = updateWhere (·.id == c.by'.wg) (fun g => { g with done := Tbl.set 0 g.done c.q ((Tbl.get 0 g.done c.q + 1) % 2 ^ 32) })
          s.wgs)

/-- R257, R261, R264: a matrix command starts once nothing it follows is left; ACCZ clears every byte of its accumulator's banks; a piece
whose accesses are refused halts the context; completion counts the command and takes the die's writes to their homes. -/
def matrixEventsRule : Prop :=
  ∀ (s : State) (c : MatCmd), s.matHead s.ev.a s.ev.b = some c → s.engLive c.by' = true →
    (c.started = false → s.matMayStart c = true → exec .matrixCommandStart s = .next { s with
      matQ := updateWhere (·.id == c.id) (fun (c : MatCmd) => { c with started := true }) s.matQ }) ∧
    (∀ x : EngCtx, s.engCtx c.by' = some x → c.started = true → c.piece < c.cuts.length → s.matMute c = false →
      (∀ h : CFault, s.matFull c x = false → s.matRun c x = .error h → exec .matrixCommandStart s = .next (s.engHalt c.by' 3 h)) ∧
      (∀ (k : Nat) (bs : List Nat), c.op = .accz k bs → Memory.wf s.banks = true →
        ∃ t : State, exec .matrixCommandStart s = .next t ∧ t.scr = s.scr ∧ t.tiles = s.tiles ∧ t.mem = s.mem ∧ t.writes = s.writes ∧
          t.matQ = updateWhere (·.id == c.id) (fun (c : MatCmd) => { c with piece := c.piece + 1 }) s.matQ ∧
          ∀ a, Tbl.get 0 t.banks a = if ∃ b ∈ bs, a / 2048 = 256 * c.core + b then 0 else Tbl.get 0 s.banks a)) ∧
    (c.started = true → c.cuts.length ≤ c.piece →
      ∃ t : State, exec .matrixCommandComplete s = .next t ∧ t.scr = s.scr ∧ t.tiles = s.tiles ∧ t.banks = s.banks ∧
        t.matQ = (s.matQ.filter (·.id != c.id)).map (fun d => { d with after := d.after.filter (· != c.id) }) ∧
        (∀ w ∈ t.writes, w.die ≠ s.dieOf c.core) ∧
        t.wgs = updateWhere (·.id == c.by'.wg)
          (fun g => { g with done := Tbl.set 0 g.done (8 + c.q) ((Tbl.get 0 g.done (8 + c.q) + 1) % 2 ^ 32) }) s.wgs)

/-- R213, R215, R266: a reduction row is read, folded and written; a word of an engine program is performed, or the program's context
halts with cause 41. -/
def programEventsRule : Prop :=
  (∀ (s : State) (c : CruCmd) (x : EngCtx), s.cruHead s.ev.a = some c → s.engCtx c.by' = some x → s.engLive c.by' = true →
    ∃ t : State, exec .cruRowMerge s = .next t ∧ t.mem = s.mem ∧ t.writes = s.writes ∧ t.tiles = s.tiles ∧ t.banks = s.banks ∧
      t.cruQ = (if c.rows ≤ c.row + 1 then s.cruQ.filter (·.id != c.id)
        else updateWhere (·.id == c.id) (fun (c : CruCmd) => { c with row := c.row + 1 }) s.cruQ) ∧
      (let n := 16 + 4 * c.dcol
       ∀ t0 ts, c.srcs.map (fun g => Triple.ofBytes (s.scrBytes g.1 (g.2 + (c.src + c.row * n)) n) c.dcol) = t0 :: ts →
        Memory.wf s.scr = true →
        t.scrBytes x.g.core (x.g.scrBase + (c.dst + c.row * n)) n =
          ((ts.foldl (Triple.merge x.flush) t0).row x.flush c.fin).flatMap (leBytes 4))) ∧
  (∀ (s u : State) (q : Seqr) (x : EngCtx) (w : DWord), s.seqrs.find? (fun q => q.core == s.ev.a && q.mat == (s.ev.b != 0)) = some q →
    s.engCtx q.by' = some x → s.engLive q.by' = true → q.pc.toNat % 8 = 0 → s.fetchWord x.who q.pc = .ok (u, w) →
    (∀ o : OpZ, decode w = .ok (.nop o) → o.g = ⟨7, false⟩ →
      exec .sequencerWord s = .next (u.setSeq q.id (fun q' => { q' with pc := q.pc + 8 }))) ∧
    (∀ o : OpZ, decode w = .ok (.endp o) → o.g = ⟨7, false⟩ →
      exec .sequencerWord s = .next { u with seqrs := u.seqrs.filter (·.id != q.id) }) ∧
    (∀ r : Reject, decode w = .error r →
      exec .sequencerWord s = .next (s.engHalt { q.by' with pc := q.pc } 9 { cause := 41, lmask := 0 })))

/-- R213, R215, R261, R266: the matrix engines, the reduction units and the engine programs.
Rests on log entries 8, 35, 40, 70. -/
def Obligations.UnitEvents : Prop := matrixEventsRule ∧ programEventsRule

/-- R271, R274 to R278, R280, R123: an amplitude command sets the map, exchanges positions, or finds that the map has changed; exchanges
come from the partner; the sums are folded and written; completion counts the command.
Rests on log entries 8, 43, 44, 45, 70. -/
def Obligations.AmplitudeEvents : Prop :=
  ∀ (s : State) (c : AmpCmd), s.ampHead s.ev.a s.ev.b = some c → s.engLive c.by' = true →
    (∀ m : QMap, c.stage = .waiting → c.op = .setMap m →
      ∃ t : State, exec .ampCommandStart s = .next t ∧ t.qmap? c.by'.ctx c.die = some m ∧ t.mem = s.mem ∧ t.writes = s.writes) ∧
    (∀ (mode addr : Nat) (t c' : List Nat) (cv v : Nat) (c128 : Bool), c.stage = .waiting → c.op = .gate mode addr t c' cv v c128 →
      (s.qmap? c.by'.ctx c.die = none →
        ∃ u : State, exec .ampCommandStart s = .next u ∧ u.mem = s.mem ∧ u.qmaps = s.qmaps ∧
          ∀ x, s.ctx? c.by'.ctx = some x → x.halt = none →
            ∃ (y : Ctx) (h : Halt), u.ctx? c.by'.ctx = some y ∧ y.halt = some h ∧ h.cause = 42) ∧
      (∀ (m : QMap) (x : AmpCtx) (a b : Nat), s.qmap? c.by'.ctx c.die = some m → s.ampCtx c m = some x → mode = 3 → t = [a, b] → c' = [] →
        m.c128 = c128 → a < m.n → b < m.n →
        ∃ u : State, exec .ampCommandStart s = .next u ∧ u.mem = s.mem ∧ u.writes = s.writes ∧
          u.qmap? c.by'.ctx c.die = some { m with seq := (m.seq + 1) % 2 ^ 64, perm := swapPos m.perm a b })) ∧
    (∀ (mode addr : Nat) (t c' : List Nat) (cv v k p h sent got : Nat) (c128 : Bool) (m : QMap) (x : AmpCtx) (perm : List Nat),
      c.op = .gate mode addr t c' cv v c128 → c.map = some m → s.ampCtx c m = some x → nextExch m t c' = some (some (p, h, perm)) →
      (c.stage = .exchanging k sent got → m.l + m.db ≤ p →
        (s.ev.f = 1 → s.carries (s.ev.pairs.getD 1 (0, 0)).1 = true →
          exec .ampExchangeArrival s = .next (s.engHalt c.by' 4 { cause := 43 })) ∧
        (∀ (port idx : Nat), s.ev.f = 2 → s.ev.pairs = [(got, idx), (port, c.by'.ctx)] → s.carries port = true →
          (s.ctx? c.by'.ctx).isSome = true →
          (s.ev.c = c.seq → idx = k →
            exec .ampExchangeArrival s = .next (s.setAmp c.id (fun c => { c with grants := c.grants + s.ev.d }))) ∧
          (c.seq < s.ev.c ∨ s.ev.c = c.seq ∧ k < idx → exec .ampExchangeArrival s =
            .next { s with ampGrants := s.ampGrants ++ [⟨c.by'.ctx, s.ev.a, s.ev.b, s.ev.c, idx, s.ev.d⟩] }) ∧
          (s.ev.c < c.seq ∨ s.ev.c = c.seq ∧ idx < k → exec .ampExchangeArrival s = .next (s.ampMismatch x c m p))) ∧
        (∀ (port j ctx : Nat), s.ev.pairs = [(got, j), (port, ctx)] → s.carries port = true →
         (s.ev.f = 3 → exec .ampExchangeArrival s = .next (s.engHalt c.by' 4 { cause := 42 })) ∧
         (s.ev.f = 0 → s.ev.c ≠ c.seq → exec .ampExchangeArrival s = .next (s.ampMismatch x c m p)) ∧
         (s.ev.f = 0 → s.ev.c = c.seq → s.ev.d = (if m.c128 then 17 else 16) →
          s.ev.e = fingerprint m c.op → got < sent →
          let os := cutOf (exchPer m x p) got (leaving m x p h)
          s.ev.data.length = os.length * m.es → s.ampFull x c.die c.op m true os = false → ∀ u : State,
          ({ s with nextId := s.nextId + 1 } : State).ampPuts x s.nextId c m
              (os.zipIdx.map (fun q => (q.1, (s.ev.data.drop (q.2 * m.es)).take m.es))) = .ok u →
          ∃ t : State, exec .ampExchangeArrival s = .next t ∧ t.mem = u.mem ∧ t.writes = u.writes ∧ t.qmaps = u.qmaps ∧
            t.ampQ = updateWhere (·.id == c.id) (fun c => { c with stage := .exchanging k sent (got + 1) }) u.ampQ))) ∧
      (∀ cur : QMap, c.stage = .exchanging k (exchPieces m x p h) (exchPieces m x p h) → s.qmap? c.by'.ctx c.die = some cur →
        cur = { m with seq := cur.seq } → nextExch { m with perm := perm } t c' = none →
        ∃ u : State, exec .ampExchangeComplete s = .next u ∧ u.qmap? c.by'.ctx c.die = some { cur with perm := perm } ∧
          u.mem = s.mem ∧ u.writes = s.writes ∧ u.ampQ = updateWhere (·.id == c.id)
            (fun c => { c with map := some { m with perm := perm }, stage := .applying 0, grants := 0 }) s.ampQ)) ∧
    (∀ (mode addr : Nat) (t c' : List Nat) (cv v : Nat) (sum : DWord) (c128 : Bool) (m : QMap), c.op = .gate mode addr t c' cv v c128 →
      c.stage = .summed sum → c.map = some m → s.ev.f = 1 → 0 < m.rb →
      exec .ampProbFold s = .next (s.engHalt c.by' 4 { cause := 43 })) ∧
    (∀ (mode addr : Nat) (t c' : List Nat) (cv v : Nat) (sum : DWord) (c128 : Bool) (m : QMap) (x : AmpCtx) (p : Part),
      c.op = .gate mode addr t c' cv v c128 → c.stage = .summed sum → c.map = some m → s.part? (c.by'.ctx / 8) = some p →
      m.rb = 0 → m.db = 0 → p.dies = [c.die] → s.rank = m.rbase →
      s.probSums c.by'.ctx [c.die] c.seq = some [(c, sum.toNat)] → s.ampCtx c m = some x →
      (let so := s.ampSo x .write addr 8 || s.ampOrder x c.op m
       let v : State := { s.soDrain c.die so with nextId := s.nextId + 1 }
       v.engFull x.who (1000 + c.die) true so plainRec [(addr, 8)] = false →
       ∀ u : State, v.ampWrite x s.nextId c.die so addr (leBytes 8 sum.toNat) = .ok u →
        exec .ampProbFold s = .next ((u.drainDie c.die).setAmp c.id (fun c => { c with stage := .done })))) ∧
    (c.stage = .done →
      ∃ t : State, exec .ampCommandComplete s = .next t ∧ t.ampQ = s.ampQ.filter (·.id != c.id) ∧ t.qmaps = s.qmaps ∧
        (∀ w ∈ t.writes, w.die ≠ c.die) ∧
        t.wgs = updateWhere (·.id == c.by'.wg)
          (fun g => { g with done := Tbl.set 0 g.done (10 + c.q) ((Tbl.get 0 g.done (10 + c.q) + 1) % 2 ^ 32) }) s.wgs)

/-! ## Events: launches, contexts, migrations and shoot-downs -/

/-- R294 to R299, R301 to R305: a slot collects the bytes of its packet and commits it; a committed packet enters the channel; a
cluster-group is placed where it fits; warps leave and return with their registers; a launch completes on its last die.
Rests on log entries 8, 37, 48, 49, 50, 51. -/
def Obligations.LaunchEvents : Prop :=
  (∀ s : State, s.stt ≠ 2 → s.ev.a < s.ports.length → s.ev.data ≠ [] → s.ev.b % 128 + s.ev.data.length ≤ 128 → s.ev.b < 65536 →
    let i := s.ev.b / 128
    let x := (s.slot? s.ev.a i).getD (LSlot.new s.ev.a i)
    let y := { x with
      bytes := writeBytes x.bytes (s.ev.b % 128) s.ev.data
      written := x.written ++ ((List.range s.ev.data.length).map (· + s.ev.b % 128)).filter (fun k => !x.written.contains k) }
    (x.committed = true → exec .launchSlotWrite s = .next { s with slotErr := s.slotErr + 1 }) ∧
    (x.committed = false → y.full = false → exec .launchSlotWrite s = .next (s.putSlot y)) ∧
    (∀ (p : Port) (c : Ctx) (k : Nat), x.committed = false → y.full = true → s.stt = 1 → s.ports[s.ev.a]? = some p → p.bound = some k →
      s.ctx? k = some c → c.halt = none →
      exec .launchSlotWrite s = .next (s.putSlot { y with committed := true, bound := some c.key }))) ∧
  (∀ (s : State) (x : LSlot) (c : Ctx) (k : Nat) (p : Part), s.slot? s.ev.a s.ev.b = some x → x.bound = some k → s.ctx? k = some c →
    s.part? (c.key / 8) = some p → x.committed = true → s.channelRoom p = true →
    ∃ (t : State) (l : Launch), exec .systemChannelEntry s = .next t ∧ t.launches = s.launches ++ [l] ∧ l.seq = p.nextSeq ∧
      l.ctx = c.key ∧ l.src = .host s.ev.a ∧ l.pk = Packet.ofBits (leNat (readBytes x.bytes 0 128)) ∧
      t.slot? x.port x.idx = some { x.release with seq := some p.nextSeq }) ∧
  (∀ (s : State) (p : Part) (l : Launch) (x : Ctx) (rest : List Launch) (cl : Nat) (cls : List Nat) (at' : List (Nat × Nat × List Nat)),
    s.parts.find? (fun p => p.dies.contains s.ev.a) = some p → (∀ v ∈ s.evicted, s.dieOf v.core ≠ s.ev.a) →
    s.candidates p s.ev.a = l :: rest → s.ctx? l.ctx = some x → l.checked = true →
    let u := s.modLaunch l.id (fun l => { l with checked := true })
    let c := l.firstOf (p.pdie s.ev.a) p.dies.length + p.dies.length * Tbl.get 0 l.placed (p.pdie s.ev.a)
    (u.clustersOfDie s.ev.a).filter (fun cl => u.openTo p s.ev.a cl l) = cl :: cls →
    assign l.pk ((coresOf cl).map (fun k => u.roomOf k (fun _ => false) (fun _ => false))) (l.wgWarps c) = some at' →
    exec .placement s = .next (u.placeCg l p x s.ev.a cl c at')) ∧
  (∀ (s : State) (w : Warp) (lv : Leave) (l : Launch) (x : Ctx), s.warp? s.ev.a s.ev.b = some w →
    w.evicting = some lv → s.warpLaunch w = some l → s.ctx? l.ctx = some x → s.haltedOn l.ctx (s.dieOf s.ev.a) = false →
    w.rob = [] → s.quiet s.ev.a s.ev.b w = true → Tbl.risingFrom none s.warps = true →
    ∃ (t : State) (v : Evicted), exec .evictedWarpSave s = .next t ∧ t.warp? s.ev.a s.ev.b = none ∧ t.evicted = s.evicted ++ [v] ∧
      v.core = s.ev.a ∧ v.turn = lv.turn ∧ v.off = lv.off ∧ v.len = lv.len ∧ v.w.vregs = w.vregs ∧ v.w.sregs = w.sregs ∧ v.w.preds = w.preds ∧
      v.w.pcs = w.pcs ∧ v.w.waits = w.waits ∧ v.w.rob = [] ∧ v.w.handles = w.handles) ∧
  (∀ (s : State) (v : Evicted) (l : Launch) (slot : Nat), s.nextBack s.ev.a = some v → s.warpLaunch v.w = some l →
    s.resumeSlot v l = some slot →
    ∃ (t : State) (w : Warp), exec .warpResume s = .next t ∧ t.warp? s.ev.a slot = some w ∧ w.vregs = v.w.vregs ∧ w.sregs = v.w.sregs ∧
      w.preds = v.w.preds ∧ w.pcs = v.w.pcs ∧ w.waits = v.w.waits.filter (fun a => !a.2.held) ∧ v ∉ t.evicted) ∧
  (∀ (s : State) (p : Part) (l : Launch) (x : Ctx), s.part? s.ev.a = some p →
    s.launches.find? (fun l => l.part == s.ev.a && l.seq == s.ev.b) = some l → s.ctx? l.ctx = some x → x.halt = none → l.st = .queued →
    l.doneAll p = true → l.recorded = true →
    exec .launchCompletion s = .next ((s.drain (fun w => p.dies.contains w.die)).modLaunch l.id
      (fun l => { l with st := .completed, recorded := true }))) ∧
  (∀ (s : State) (p : Part), s.part? (s.ev.a / 8) = some p → s.ev.b ∈ p.dies →
    let i := p.pdie s.ev.b
    let hit := fun (l : Launch) => l.ctx == s.ev.a && l.pk.feeds && l.st == .queued
    s.feeding s.ev.a s.ev.b = (s.ev.c == 1) → (∃ l ∈ s.launches, hit l = true ∧ Tbl.get false l.raised i ≠ (s.ev.c == 1)) →
    ∃ t : State, exec .feedsRaise s = .next t ∧
      t.launches = updateWhere hit (fun l => { l with raised := Tbl.set false l.raised i (s.ev.c == 1) }) s.launches)

/-- R312 to R314, R385: a halt that reaches a die squashes the context's entries there; each agent then stops once and is recorded, the
origin of the halt last.
Rests on log entries 8, 52, 53, 54. -/
def Obligations.HaltEvents : Prop :=
  ∀ (s : State) (x : Ctx) (p : Part) (h : Halt), s.ctx? s.ev.a = some x → s.part? (s.ev.a / 8) = some p → x.halt = some h →
    (s.ev.b ∈ p.dies → s.ev.b ∉ h.dies →
      ∃ t : State, exec .haltArrival s = .next t ∧ t.mem = s.mem ∧
        t.ctx? s.ev.a = some { x with halt := some { h with dies := h.dies ++ [s.ev.b] } } ∧
        ∀ (core slot : Nat) (w : Warp), slot < 32 → s.warp? core slot = some w →
          if s.dieOf core = s.ev.b ∧ s.warpCtx w = some s.ev.a then
            ∃ v : Warp, t.warp? core slot = some v ∧ v.rob = [] ∧ v.vregs = w.vregs ∧ v.sregs = w.sregs ∧ v.preds = w.preds ∧ v.pcs = w.pcs
          else t.warp? core slot = some w) ∧
    (s.ev.b ∈ h.dies → s.ev.c < 813 → (s.ev.b, s.ev.c) ∉ h.stops →
      (s.ev.c ≠ 0 ∨ (h.stops.filter (fun e => e.1 == s.ev.b)).length = 812) →
      ∃ (t : State) (y : Ctx) (k : Halt), exec .agentStop s = .next t ∧ t.ctx? s.ev.a = some y ∧ y.halt = some k ∧
        k.stops = h.stops ++ [(s.ev.b, s.ev.c)] ∧ k.cause = h.cause ∧ k.dies = h.dies) ∧
    (s.ev.b ∈ h.dies → s.ev.c = 0 → (h.stops.filter (fun e => e.1 == s.ev.b)).length < 812 →
      exec .agentStop s = .refused (.notEnabled "AGENT_STOP"))

/-- R330: a piece whose checksum matches its tag is copied to its home; one that does not is copied again once, and then the page is
given up and its leaf says so; when every piece has matched, the leaf says that the page is resident. -/
def migrationEventsRule : Prop :=
  ∀ (s : State) (m : Migration), s.migs.find? (·.id == s.ev.a) = some m →
    let bs := readBytes s.hostMem (m.src + 4096 * m.piece) 4096
    let tag := readLe s.hostMem (m.src + m.size + 8 * m.piece) 8
    (m.piece * 4096 < m.size → s.ev.b ≠ 1 → crc64 bs = tag →
      ∃ t : State, exec .migrationPiece s = .next t ∧
        t.migs = updateWhere (·.id == m.id) (fun m => { m with piece := m.piece + 1, retried := false }) s.migs ∧
        t.hostMem = s.hostMem ∧
        (Memory.wf s.mem = true → s.writes = [] → ∀ p, s.part? (m.ctx / 8) = some p → (s.ctx? m.ctx).isSome →
          (homeOf p (m.leaf (s.migLeaf m)) m.size (m.va + 4096 * m.piece)).2 = none →
          readBytes t.mem (homeOf p (m.leaf (s.migLeaf m)) m.size (m.va + 4096 * m.piece)).1 4096 = bs)) ∧
    (m.piece * 4096 < m.size → (s.ev.b = 1 ∨ crc64 bs ≠ tag) → m.retried = false →
      exec .migrationPiece s = .next { s with
        migs := updateWhere (·.id == m.id) (fun m => { m with retried := true, anyRetry := true }) s.migs }) ∧
    (m.piece * 4096 < m.size → (s.ev.b = 1 ∨ crc64 bs ≠ tag) → m.retried = true →
      ∃ t : State, exec .migrationPiece s = .next t ∧ t.migs = s.migs.filter (·.id != m.id) ∧ t.hostMem = s.hostMem ∧
        (Memory.wf s.mem = true → s.writes = [] → readLe t.mem m.leafPa 8 = Nat.lor (s.migLeaf m) (2 ^ 8))) ∧
    (m.size ≤ m.piece * 4096 → Memory.wf s.mem = true → s.writes = [] →
      ∃ t : State, exec .migrationComplete s = .next t ∧ t.migs = s.migs.filter (·.id != m.id) ∧
        readBytes t.mem m.leafPa 8 = leBytes 8 (m.leaf (s.migLeaf m)))

/-- R331 to R335: a shoot-down sweeps each die's translations of its range, takes every acknowledgement once, the die of index 0 last,
fences the children that do not answer in time, and completes when all have answered. -/
def shootdownEventsRule : Prop :=
  ∀ (s : State) (sd : Shootdown) (p : Part), s.ev.a ≠ 0 → s.shoots.find? (·.id == s.ev.a) = some sd → s.part? (sd.ctx / 8) = some p →
    (s.ev.b ∈ p.dies → s.ev.b ∉ sd.swept → sd.done = false →
      ∃ t : State, exec .shootdownInvalidateArrival s = .next t ∧
        (∀ e ∈ t.tcache, ¬ (e.ctx = sd.ctx ∧ inRange sd.lo sd.hi e.vpn = true ∧ s.cacheDie e = s.ev.b)) ∧
        (∀ w ∈ t.writes, ¬ (w.die = s.ev.b ∧ w.ctx = sd.ctx)) ∧
        t.shoots = updateWhere (·.id == sd.id) (fun d => 
          { d with swept := d.swept ++ [s.ev.b], marks := Tbl.put d.marks s.ev.b s.nextId }) s.shoots) ∧
    (s.ev.b = 1 → s.ev.c ∈ sd.kids → s.carries s.ev.e = true →
      exec .shootdownAck s = .next (s.setShoot sd.id (fun d =>
        { d with kids := d.kids.filter (· != s.ev.c), fenced := d.fenced || s.ev.d == 1 }))) ∧
    (s.ev.b ≠ 1 → s.ev.c ∈ p.dies → s.sweepOpen sd s.ev.c = false → 4 + s.ev.c ∉ sd.swept → p.dies.head? ≠ some s.ev.c →
      exec .shootdownAck s = .next (s.setShoot sd.id (fun d => { d with swept := d.swept ++ [4 + s.ev.c] }))) ∧
    (∀ (d0 : Nat) (ds : List Nat), p.dies = d0 :: ds → s.ev.b ≠ 1 → s.ev.c = d0 → s.sweepOpen sd d0 = false → 4 + d0 ∉ sd.swept →
      (sd.kids ≠ [] ∨ (∃ d ∈ ds, 4 + d ∉ sd.swept) → exec .shootdownAck s = .refused (.notEnabled "SHOOTDOWN_ACK")) ∧
      (sd.kids = [] → (∀ d ∈ ds, 4 + d ∈ sd.swept) →
        exec .shootdownAck s = .next (s.setShoot sd.id (fun d => { d with swept := d.swept ++ [4 + d0] })))) ∧
    (sd.done = false → s.shootReady sd = false → sd.started + us p.timeout ≤ s.now (s.headDie sd.ctx) →
      (sd.kids = [] → sd.root = s.rank →
        exec .shootdownTimeout s = .next ((s.setShoot sd.id (fun d => { d with halted := true, done := true })).raiseHalt sd.by'
          (s.headDie sd.ctx) 0 0 0 0 0 { cause := 37, src := 7, info := s.rank })) ∧
      (sd.kids ≠ [] → ∃ t : State, exec .shootdownTimeout s = .next t ∧ t.fencedRanks = s.fencedRanks ++ sd.kids ∧ t.mem = s.mem)) ∧
    (sd.done = false → s.shootReady sd = true →
      (sd.root = s.rank → exec .shootdownComplete s = .next (s.setShoot sd.id (fun d => { d with done := true }))) ∧
      (sd.root ≠ s.rank → exec .shootdownComplete s =
        .next ({ s with shoots := s.shoots.filter (·.id != sd.id) }.tilic (s.headDie sd.ctx) sd.parent
          (.ack sd.parent sd.root sd.ctx sd.lo sd.hi sd.fenced))))

/-- R330 to R335: migrations and shoot-downs.
Rests on log entries 8, 33, 64. -/
def Obligations.PageEvents : Prop := migrationEventsRule ∧ shootdownEventsRule

/-! ## Events: messages and collectives -/

/-- R347 to R351, R355: a message of the current generation is matched with the first receive that accepts it, else kept while the
overflow queue has room; a stale one is counted and answered; every answer reaches its send; generations reach the dies.
Rests on log entries 8, 42, 67, 70. -/
def Obligations.MessageEvents : Prop :=
  (∀ (s : State) (p : TagPkt) (m : MsgState), s.pkts.find? (·.id == s.ev.a) = some p →
    (s.pkts.find? (fun q => q.src == p.src && q.dst == p.dst)).map (·.id) = some p.id →
    s.expired p = false → s.msg? p.ctx p.dst = some m → s.over 4 p.id (s.dieOfCluster p.src) (s.dieOfCluster p.dst) = true →
    let answered := fun (t : State) (stale : Bool) => (∃ core, t.replies = s.replies ++ [⟨s.nextId, p.send, stale, p.dst, core⟩]) ∧
      t.pkts = s.pkts.filter (·.id != p.id)
    (m.opened = false ∨ m.gen ≠ p.stamp →
      ∃ (t : State), exec .tagmsgArrival s = .next t ∧ answered t (!p.mc) ∧ t.scr = s.scr ∧
        t.msg? p.ctx p.dst = some { m with stale := m.stale + 1 }) ∧
    (m.opened = true → m.gen = p.stamp →
      (∀ (r : Recv) (g : Wg), m.recvs.find? (fun r => r.done.isNone && r.accepts p.tag p.src) = some r → s.wg? r.wg = some g →
        ∃ (t : State) (m' : MsgState), exec .tagmsgArrival s = .next t ∧ answered t false ∧ t.fe = s.fe ∧
          t.scr = (s.scrWrite g.core (g.scrBase + r.addr) p.data).scr ∧ t.msg? p.ctx p.dst = some m' ∧
          m'.recvs = m.recvs.map (fun x =>
            if x.handle = r.handle then { x with done := some (p.data.length, p.tag, p.src), late := [] } else x)) ∧
      (∀ r : Recv, m.recvs.find? (fun r => r.done.isNone && r.accepts p.tag p.src) = some r → s.wg? r.wg = none →
        ∃ t : State, exec .tagmsgArrival s = .next t ∧ answered t false ∧ t.scr = s.scr ∧
          t.msg? p.ctx p.dst = some { m with recvs := m.recvs.map (fun x =>
            if x.handle = r.handle then { x with done := some (p.data.length, p.tag, p.src), late := p.data } else x) }) ∧
      (m.recvs.find? (fun r => r.done.isNone && r.accepts p.tag p.src) = none →
        (m.ovf.length < 32 →
          ∃ (t : State), exec .tagmsgArrival s = .next t ∧ answered t false ∧ t.scr = s.scr ∧
            t.msg? p.ctx p.dst = some { m with ovf := m.ovf ++ [⟨p.src, p.tag, p.data⟩] }) ∧
        (32 ≤ m.ovf.length →
          ∃ (t : State), exec .tagmsgArrival s = .next t ∧ t.pkts = s.pkts.filter (·.id != p.id) ∧ t.replies = s.replies ∧
            ∀ x, s.ctx? p.ctx = some x → x.halt = none →
              ∃ (y : Ctx) (h : Halt), t.ctx? p.ctx = some y ∧ y.halt = some h ∧ h.cause = 34)))) ∧
  (∀ (s : State) (p : TagPkt), s.pkts.find? (·.id == s.ev.a) = some p → s.expired p = true →
    ∃ core : Nat, exec .tagmsgLifetimeDrop s = .next { s with nextId := s.nextId + 1
                                                              replies := s.replies ++ [⟨s.nextId, p.send, !p.mc, p.dst, core⟩]
                                                              pkts := s.pkts.filter (·.id != p.id) }) ∧
  (∀ (s : State) (r : TagReply), s.replies.find? (·.id == s.ev.a) = some r →
    (s.replies.find? (fun q => q.src == r.src && q.core == r.core)).map (·.id) = some r.id →
    s.over 5 r.id (s.dieOfCluster r.src) (s.dieOf r.core) = true →
    exec .sendReplyArrival s = .next { s with
      replies := s.replies.filter (·.id != r.id)
      sends := updateWhere (·.id == r.send) (fun (x : SendEnt) => { x with left := x.left - 1, stale := x.stale || r.stale }) s.sends }) ∧
  (∀ (s : State) (u : GenUpd), s.genUpds.find? (·.id == s.ev.a) = some u → Tbl.wf 0 s.genTab = true →
    (s.genUpds.find? (fun q => q.die == u.die && q.cluster == u.cluster)).map (·.id) = some u.id →
    s.over 6 u.id (s.dieOfCluster u.cluster) u.die = true →
    ∃ t : State, exec .generationUpdate s = .next t ∧ t.genUpds = s.genUpds.filter (·.id != u.id) ∧
      t.genOf u.die u.ctx u.cluster = u.gen) ∧
  (∀ (s : State) (m : MsgState) (p : Part), s.msg? s.ev.a s.ev.b = some m → s.part? (s.ev.a / 8) = some p → m.opening = true →
    s.reuseOver m = true →
    ∃ (t : State) (m' : MsgState), exec .generationReuseDelayExpiry s = .next t ∧ t.msg? s.ev.a s.ev.b = some m' ∧
      m'.opened = true ∧ m'.opening = false ∧ m'.gen = m.gen ∧ t.genUpds.length = s.genUpds.length + p.dies.length)

/-- R356, R360, R361, R366, R370 to R373: a collective starts by clearing its header, whose write may be made, and granting pieces ahead;
grants, pieces, tokens and losses that come through a port in service reach the collective that they name, a grant or piece for one that
is over is refused, a token waits for its COLL, and one for a collective that has ended is dropped; a spare takes the number of a winch that fails while it serves none. -/
def collectiveEventsRule : Prop :=
  (∀ (s u : State) (c : Coll) (x : CollCtx), (s.colls.filter (fun c => c.part == s.ev.a && c.running)).length < 4 →
    s.colls.find? (fun c => c.part == s.ev.a && !c.running && !s.saving c.ctx
      && !(s.ctx? c.ctx).any (fun x => x.saved || x.halt.isSome)) = some c →
    let v : State := { s with nextId := s.nextId + 1 }
    v.collCtx { c with began := s.nextId } = some x → v.winchWrite x 0 c.prog (List.replicate 32 0) = .ok u →
    exec .collectiveStart s = .next ((u.setColl c.id (fun c =>
      { c with running := true, began := s.nextId, winches := [x.port] })).giveGrants x c.id)) ∧
  (∀ s : State, (s.ctx? s.ev.a).isSome →
    let n := arrivalName s.ev
    (∀ c : Coll, s.colls.find? (·.name == n) = some c → s.collRefuses n = false →
      (s.ev.b < n.g → s.carries s.ev.d = true → exec .collGrantArrival s = .next (s.setColl c.id (fun c => { c with
        grants := Tbl.set 0 c.grants s.ev.b (Tbl.get 0 c.grants s.ev.b + s.ev.c) }))) ∧
      (∀ (gw : Nat × Nat) (nth qf port z : Nat), s.ev.pairs = [gw, (nth, qf), (port, z)] → s.ev.b < n.g →
        s.carries port = true → c.running = true →
        s.ev.b ≠ c.rank s → (c.staged.filter (·.peer == s.ev.b)).length < Tbl.get 0 c.ahead s.ev.b → s.winchFor c port = true →
        exec .collPieceArrival s = .next (s.setColl c.id (fun c =>
          { c with
            staged := c.staged ++ [⟨s.ev.b, nth, s.ev.c, s.ev.d, s.ev.e, qf, s.ev.f, port, s.ev.data⟩]
            winches := c.winches.filter (· != port) ++ [port] }))) ∧
      (s.carries s.ev.d = true → exec .signalTokenArrival s = .next (s.setColl c.id (fun c => { c with tokens := c.tokens + 1 }))) ∧
      (s.ev.b < n.g → s.ev.c ≠ 1 → s.carries s.ev.e = true → exec .peerLost s = .next (s.setColl c.id (fun c =>
        { c with lost := c.lost.filter (· != s.ev.b) ++ [s.ev.b] })))) ∧
    (s.collRefuses n = true → s.ev.b < n.g →
      (s.carries s.ev.d = true → exec .collGrantArrival s = .next (s.refuseFrom n s.ev.b)) ∧
      (∀ (gw tq : Nat × Nat) (port z : Nat), s.ev.pairs = [gw, tq, (port, z)] → s.carries port = true →
        exec .collPieceArrival s = .next (s.refuseFrom n s.ev.b))) ∧
    (s.colls.find? (·.name == n) = none → s.collCount n.ctx n.gbase n.g < n.ord → s.carries s.ev.d = true →
      exec .signalTokenArrival s = .next { s with
        collEarly := s.collEarly.filter (·.name != n) ++ [{ s.earlyOf n with tokens := (s.earlyOf n).tokens + 1 }] }) ∧
    (s.colls.find? (·.name == n) = none → n.ord ≤ s.collCount n.ctx n.gbase n.g → s.carries s.ev.d = true →
      exec .signalTokenArrival s = .next s)) ∧
  (∀ (s : State) (w : Winch), s.winches.find? (·.port == s.ev.a) = some w → w.active = true →
    (∀ c ∈ s.colls, c.running = false ∨ s.ev.a ∉ c.winches) →
    ∃ t : State, exec .winchFailure s = .next t ∧ t.spares = s.spares - 1 ∧ t.colls = s.colls ∧
      t.winches = updateWhere (·.port == s.ev.a) (fun (w : Winch) =>
        { w with failed := true, spare := if s.spares = 0 then none else some s.spares, since := s.nextId }) s.winches)

/-- R361 to R371: the step words. Each goes to the step that the rules name; a word that is no step, or breaks its own rule, ends the
collective with status 2, and END ends it with status 1. -/
def collectiveStepsRule : Prop :=
  ∀ (s u : State) (c : Coll) (x : CollCtx) (w : Nat), s.colls.find? (·.id == s.ev.a) = some c → s.collCtx c = some x →
    c.running = true → s.haltedOn c.ctx x.die = false → s.held c = false → c.ending = none → s.stepWord x c c.step = .ok (u, w) →
    let d := StepW.of w
    let stays := fun (i : Instr) (t : State) => exec i s = .next (t.giveGrants x c.id)
    let goes := fun (i : Instr) (t : State) (n : Nat) => stays i (t.collTo c.id n)
    let ends := fun (i : Instr) (code : Nat) => ∃ t : State, u.collEnd x c.id code = some t ∧ exec i s = .next t
    (stepBad w = false →
      (d.op = 1 → ∀ t : State,
        (u.sendPiece x c (c.dest u d) (c.chunkOf u d) none = .next t → goes .stepSend t (c.step + 1)) ∧
        (u.sendPiece x c (c.dest u d) (c.chunkOf u d) none = .stay t → stays .stepSend t)) ∧
      (d.op = 1 → c.gone u x.p (c.dest u d) = true → ends .stepSend 4) ∧
      (d.op = 2 → ∀ t : State,
        (u.takePiece x c (c.source u d) (c.chunkOf u d) d.rop = .next t → goes .stepRecv t (c.step + 1)) ∧
        (u.takePiece x c (c.source u d) (c.chunkOf u d) d.rop = .stay t → stays .stepRecv t)) ∧
      (d.op = 3 → c.phase = 0 → ∀ t : State,
        (u.takePiece x c (c.source u d) (c.chunkOf u d) d.rop = .next t →
          stays .stepRrs ((t.drainColl c.id).setColl c.id (fun c => { c with phase := 1, sent := 0 }))) ∧
        (u.takePiece x c (c.source u d) (c.chunkOf u d) d.rop = .stay t → stays .stepRrs t)) ∧
      (d.op = 3 → c.phase = 1 → ∀ t : State, u.sendPiece x c (c.dest u d) (c.chunkOf u d) none = .next t →
        goes .stepRrs t (c.step + 1)) ∧
      (d.op = 4 →
        let a := c.chunk (c.chunkOf u d)
        let b := c.chunk ((c.rank u + d.poff + c.iter d * d.pstr) % c.nch)
        (a.2 ≠ b.2 → ends .stepCopy 2) ∧
        (∀ (v t : State) (data : List Byte), a.2 = b.2 → u.winchRead x c.base (c.elemVa a.1) (a.2 * c.es) = .ok (v, data) →
          v.winchWrite x c.base (c.elemVa b.1) data = .ok t → goes .stepCopy t (c.step + 1))) ∧
      (d.op = 5 → d.src = false → d.low ≤ c.tokens → goes .stepWait u (c.step + 1)) ∧
      (d.op = 5 → d.src = true → c.flagA = 0 → ends .stepWait 2) ∧
      (d.op = 6 → c.gone u x.p (c.dest u d) = false →
        (c.dest u d = c.rank u → goes .stepSignal
          ((u.drainWinches c.ctx).setColl c.id (fun c => { c with tokens := c.tokens + 1 })) (c.step + 1)) ∧
        (c.dest u d ≠ c.rank u → goes .stepSignal
          ((u.drainWinches c.ctx).toMember x c (c.dest u d) (.token (c.gbase + c.dest u d) c.name)) (c.step + 1))) ∧
      (d.op = 7 → c.res = 0 → ends .stepQsend 2) ∧
      (d.op = 7 → c.res ≠ 0 → (c.fmt = .f32 ∨ c.fmt = .bf16) → ∀ t : State,
        u.sendPiece x c (c.dest u d) (c.chunkOf u d) (some d.qf) = .next t → goes .stepQsend t (c.step + 1)) ∧
      (d.op = 8 → d.low ≠ 0 → (∀ l ∈ c.loops, l.1 ≠ d.kk) → goes .stepLoop
        (u.setColl c.id (fun o => { o with loops := (d.kk, c.step, d.low) :: c.loops, k := c.k.set d.kk 0 })) (c.step + 1)) ∧
      (d.op = 9 → ∀ (at' left : Nat) (rest : List (Nat × Nat × Nat)), c.loops = (d.kk, at', left) :: rest →
        (left ≤ 1 → goes .stepEndl (u.setColl c.id (fun o => { o with loops := rest, k := c.k.set d.kk 0 })) (c.step + 1)) ∧
        (1 < left → goes .stepEndl (u.setColl c.id (fun o =>
          { o with loops := (d.kk, at', left - 1) :: rest, k := c.k.set d.kk (c.k.getD d.kk 0 + 1) })) (at' + 1))) ∧
      (d.op = 9 → c.loops = [] → ends .stepEndl 2) ∧
      (d.op = 10 → ends .stepEnd 1)) ∧
    (stepBad w = true → d.op = 0 ∨ 10 ≤ d.op → ends .stepEnd 2)

/-- R356, R357, R361 to R373: collectives and their steps.
Rests on log entries 8, 46, 53. -/
def Obligations.CollectiveEvents : Prop := collectiveEventsRule ∧ collectiveStepsRule

/-! ## Events: the host ports -/

/-- The state after a command is accepted: its serial number rises and it runs, with its outcome to come. -/
def accepted (s t : State) (code err result : Nat) (sd : Option Nat) : State :=
  { t with cstSer := (s.cstSer + 1) % 2 ^ 16, cmd := some ⟨s.ev.a, code, s.argOf 0, err, result, sd⟩ }

/-- The command events with their codes (Table 3 of the host chapter). -/
def hostCommands : List (Instr × Nat) :=
  [(.pcreate, 1), (.pdestroy, 2), (.ccreate, 3), (.cend, 4), (.cset, 5), (.croot, 6), (.cstand, 7), (.cpool, 8), (.cspan, 9), (.wbind, 10),
   (.sdtime, 11), (.shoot, 12), (.csave, 13), (.crest, 14), (.attest, 15), (.rank, 16), (.linkmap, 17)]

/-- R379, R380, R382, R383: a semaphore is taken by the read that finds it free and given up by its holder's write; a command is taken
from the holder of semaphore 0 while none runs, and refused with error 3 before the device is ready; any other is counted. -/
def hostAccessRule : Prop :=
  (∀ s : State, s.linked s.ev.a = true → s.ev.b < 64 →
    (s.ev.c ≠ 1 → s.holder s.ev.b = 0 → exec .semaphoreRead s = .next { s with
      sems := Tbl.set 0 s.sems s.ev.b (s.ev.a + 1), lastRead := Tbl.put s.lastRead s.ev.a 0 }) ∧
    (s.ev.c ≠ 1 → s.holder s.ev.b ≠ 0 →
      exec .semaphoreRead s = .next { s with lastRead := Tbl.put s.lastRead s.ev.a (1 + 2 * s.holder s.ev.b) }) ∧
    (s.holder s.ev.b = s.ev.a + 1 → exec .semaphoreWrite s = .next { s with sems := Tbl.set 0 s.sems s.ev.b 0 }) ∧
    (s.holder s.ev.b ≠ s.ev.a + 1 → exec .semaphoreWrite s = .next { s with semErr := s.semErr + 1 })) ∧
  (∀ s : State, s.linked s.ev.a = true → ∀ c ∈ hostCommands,
    (s.mayConfigure s.ev.a = false ∨ s.cmd.isSome = true → exec c.1 s = .next { s with cfgErr := s.cfgErr + 1 }) ∧
    (s.mayConfigure s.ev.a = true → s.cmd = none → s.stt ≠ 1 → exec c.1 s = .next (accepted s s c.2 3 0 none))) ∧
  (∀ s : State, s.linked s.ev.a = true → s.ev.b = 0 ∨ 17 < s.ev.b →
    (s.mayConfigure s.ev.a = false ∨ s.cmd.isSome = true → exec .unknownCommand s = .next { s with cfgErr := s.cfgErr + 1 }) ∧
    (s.mayConfigure s.ev.a = true → s.cmd = none → s.stt = 1 → exec .unknownCommand s = .next (accepted s s s.ev.b 1 0 none))) ∧
  (∀ (s : State) (c : CmdRun), s.cmd = some c →
    (c.err ≠ 0 → exec .commandCompletion s = .next { s with cmd := none, cstErr := c.err, cstRes := 0 }) ∧
    (c.err = 0 → c.code ∉ [4, 12, 13] →
      exec .commandCompletion s = .next { s with cmd := none, cstErr := 0, cstRes := BitVec.ofNat 32 c.result }) ∧
    (∀ (id : Nat) (d : Shootdown), c.err = 0 → c.code = 12 → c.sd = some id → s.shoots.find? (·.id == id) = some d →
      (d.done = true → exec .commandCompletion s = .next { s with
        shoots := s.shoots.filter (·.id != id), cmd := none, cstErr := 0
        cstRes := if d.halted then 2 else if d.fenced then 1 else 0 }) ∧
      (d.done = false → exec .commandCompletion s = .refused (.notEnabled "COMMAND_COMPLETION"))))

/-- R382 to R384, R297, R316, R320, R334, R391: what each command does when it is accepted, and an unreadable span list; what a report
holds beyond its nonce and what a restore reads are not said here. -/
def hostCommandsRule : Prop :=
  ∀ s : State, s.linked s.ev.a = true → s.mayConfigure s.ev.a = true → s.cmd = none → s.stt = 1 →
    let a := s.argOf
    let good := fun (i : Instr) (code result : Nat) (t : State) => exec i s = .next (accepted s t code 0 result none)
    (∀ n : Nat, let dies := (List.range 4).filter (bit (a 0))
      a 0 ∈ [1, 2, 4, 8, 3, 12, 5, 10, 15] → (∀ d ∈ dies, d < s.coreMap.length) → (∀ p ∈ s.parts, ∀ d ∈ p.dies, d ∉ dies) →
      n < 4 → s.part? n = none → (∀ k, k < n → s.part? k ≠ none) →
      good .pcreate 1 n { s with parts := s.parts ++ [⟨n, dies, 50, 0⟩] }) ∧
    (s.part? (a 0) ≠ none → (∀ x ∈ s.ctxs, x.key / 8 ≠ a 0) → good .pdestroy 2 0 { s with
      parts := s.parts.filter (·.num != a 0), launches := s.launches.filter (·.part != a 0) }) ∧
    (∀ k : Nat, s.part? (a 0) ≠ none → k < 8 → s.ctx? (8 * a 0 + k) = none → (∀ j, j < k → s.ctx? (8 * a 0 + j) ≠ none) →
      good .ccreate 3 (8 * a 0 + k) { s with ctxs := s.ctxs ++ [Ctx.new (8 * a 0 + k) (bit (a 1) 0)] }) ∧
    (∀ x : Ctx, s.ctx? (a 0) = some x →
      (∀ p, s.part? (x.key / 8) = some p →
        good .cend 4 0 (s.raiseHalt x.key (p.dies.getD 0 0) 0 0 0 0 0 { cause := 44, src := 10 })) ∧
      (129 ≤ a 1 → a 1 ≤ 133 → settingBad (a 1) (a 2) = false →
        good .cset 5 0 (s.modCtx x.key (fun x => x.setting (a 1) (a 2)))) ∧
      (a 1 % 2 ^ 18 = 0 → good .croot 6 0 (s.modCtx x.key (fun x => { x with root := a 1 }))) ∧
      (a 1 ≤ 15 → (Lease.ofEntry (a 2)).base + (Lease.ofEntry (a 2)).size ≤ 2 ^ 40 → (Lease.ofEntry (a 2)).size ≠ 0 →
        good .cstand 7 0 (s.modCtx x.key (fun x => { x with standing := Tbl.put x.standing (a 1) (Lease.ofEntry (a 2)) }))) ∧
      (∀ p, s.part? (x.key / 8) = some p → a 1 < p.dies.length → a 2 % 2 ^ 17 = 0 → (∀ m ∈ s.migs, m.ctx ≠ x.key) →
        good .cpool 8 0 (s.modCtx x.key (fun x => { x with pools := Tbl.put x.pools (a 1) ⟨a 2, a 3, []⟩ }))) ∧
      (s.ev.b = 1 → exec .cspan s = .next (accepted s s 9 2 0 none)) ∧
      (s.ev.b ≠ 1 → 1 ≤ a 2 → a 2 ≤ 8192 → good .cspan 9 0 (s.modCtx x.key (fun x => { x with
        span := (List.range (a 2)).map (fun i => recAt (s.hostBytes s.ev.a (a 1) (2 * a 2)) (2 * i) 2) }))) ∧
      (a 2 = 0 → good .shoot 12 0 s) ∧
      (a 2 ≠ 0 → exec .shoot s =
        .next (accepted s (s.startShoot x.key x.key s.rank s.rank (a 1) (a 2) true).2 12 0 0 (some s.nextId))) ∧
      (x.saved = false → good .csave 13 0 { s with
        colls := updateWhere (fun (c : Coll) => c.ctx == x.key) (fun c => { c with parked := false }) s.colls }) ∧
      (∀ (p : Part) (t : State), s.part? (x.key / 8) = some p →
        ({ s with cstSer := (s.cstSer + 1) % 2 ^ 16 } : State).restoreCtx x p (bit (a 1) 0) = .ok t →
        exec .crest s = .next { t with cmd := some ⟨s.ev.a, 14, a 0, 0, 0, none⟩ })) ∧
    (a 0 < s.ports.length → (a 1 = 0xFF ∨ s.ctx? (a 1) ≠ none) → good .wbind 10 0 { s with
      ports := s.ports.mapIdx (fun i q => if i = a 0 then { q with bound := if a 1 = 0xFF then none else some (a 1) } else q) }) ∧
    (s.part? (a 0) ≠ none → 1 ≤ a 1 → a 1 ≤ 65535 → good .sdtime 11 0 (s.modPart (a 0) (fun p => { p with timeout := a 1 }))) ∧
    (s.otsRem ≠ 0 → a 0 = 16384 →
      ∃ t : State, exec .attest s = .next t ∧ t.otsRem = s.otsRem - 1 ∧ t.cmd = some ⟨s.ev.a, 15, a 0, 0, 0, none⟩ ∧ t.mem = s.mem ∧
        ∀ p, s.ports[s.ev.a]? = some p →
          ∃ q : Port, t.ports[s.ev.a]? = some q ∧ q.report.take 32 = (List.range 32).map (fun i => Tbl.get 0 p.nonce i)) ∧
    (a 0 < a 1 → a 1 ≤ 8192 → s.ctxs = [] →
      ∃ t : State, exec .rank s = .next t ∧ t.rank = a 0 ∧ t.domain = a 1 ∧ t.ranked = true ∧ t.mem = s.mem ∧
        t.cmd = some ⟨s.ev.a, 16, a 0, 0, 0, none⟩ ∧
        t.tilicOut = s.tilicOut ++ ((List.range s.tports.length).filter (fun i =>
          (s.tports[i]?).any (fun p => p.up && !p.quarantined))).map (fun i => (i, .rankReport (a 0))) ∧
        ∀ (i : Nat) (p : TPort), s.tports[i]? = some p → ∃ q : TPort, t.tports[i]? = some q ∧ q.up = p.up ∧ q.far = p.far ∧
          q.quarantined = (p.quarantined || (p.up && p.far == some (a 0)))) ∧
    ((∀ d, d < s.coreMap.length → fld (a 2) (8 * d) 8 = 0xFF ∨
        (s.tports[fld (a 2) (8 * d) 8]?).any (fun t => t.up && !t.quarantined) = true) →
      a 0 + a 1 ≤ s.domain → ¬ (a 0 ≤ s.rank ∧ s.rank < a 0 + a 1) →
      ∃ t : State, exec .linkmap s = .next t ∧ t.cmd = some ⟨s.ev.a, 17, a 0, 0, 0, none⟩ ∧ { t with
          routes := s.routes, cmd := s.cmd, cstSer := s.cstSer } = s ∧
        (Tbl.wf 0 s.routes = true → a 0 + a 1 ≤ 8192 → ∀ d r, d < s.coreMap.length → r < 8192 →
          Tbl.get 0 t.routes (8192 * d + r) =
            if a 0 ≤ r ∧ r < a 0 + a 1 then (if fld (a 2) (8 * d) 8 = 0xFF then 0 else fld (a 2) (8 * d) 8 + 1)
            else Tbl.get 0 s.routes (8192 * d + r)))

/-- R379 to R384: the host ports and their commands.
Rests on log entries 5, 8, 57, 58. -/
def Obligations.HostPorts : Prop := hostAccessRule ∧ hostCommandsRule

/-! ## Events: the ports, start-up and the fleet -/

/-- R386 to R390, R397: a port reset gives up the port's semaphores, unread events and binding; the start steps run in order, step 4
replaces bad banks, step 5 notes the cores that fail and disables a cluster with a second one, a step whose images are not accepted fails,
and the ninth makes the device ready; step 3 has no alternative and stops in hard fault; power anew keeps the failed cores, the leaf
indices, the start record and the rows that are spared; ARG registers and the semaphore error register are written. -/
def startAndPortsRule : Prop :=
  (∀ s : State, s.linked s.ev.a = true → s.ev.b ≠ 1 →
    exec .portReset s = .next { s with
      sems := s.sems.filter (fun (e : Nat × Nat) => e.2 != s.ev.a + 1)
      ports := s.ports.mapIdx (fun i q => if i = s.ev.a then { q with rptr := q.wptr, events := [], bound := none } else q) }) ∧
  (∀ s : State, s.stt = 0 → s.ev.e ≠ 1 → s.ev.a = 0 →
    (s.step + 1 ∈ [3, 6] ∨ s.step + 1 ∈ [1, 7] ∧ s.accepted (s.step + 1) s.ev = true → exec .powerOnStart s = .next { s with
      step := s.step + 1, startRec := s.startRec.set s.step ⟨true, (s.startOf (s.step + 1)).alt, 0⟩ }) ∧
    (s.step = 3 → exec .powerOnStart s = .next (State.replaceBanks { s with
      step := 4, startRec := s.startRec.set 3 ⟨true, (s.startOf 4).alt, 0⟩ })) ∧
    (s.step + 1 ∈ [1, 7] → s.ev.b = 0 → s.accepted (s.step + 1) s.ev = false → exec .powerOnStart s =
      .next (s.stepFail (s.step + 1) ((s.startOf (s.step + 1)).alt + 1) ((s.startOf (s.step + 1)).alt < 3))) ∧
    (s.step = 1 → s.ev.b ≤ 1 → ∃ t : State, exec .powerOnStart s = .next t ∧ t.step = 2 ∧
      ∀ i q, t.ports[i]? = some q → q.linked = !s.downPorts.contains i) ∧
    (s.step = 4 → ∃ t : State, exec .powerOnStart s = .next t ∧ t.step = 5 ∧ t.marked = [] ∧
      (∀ p, p ∈ t.failedCores ↔ p ∈ s.failedCores ∨ p ∈ s.marked.map s.physCore ∨ p ∈ s.failing s.ev.pairs) ∧
      ∀ d c, c ∈ t.coreMap.getD d [] ↔ c ∈ s.coreMap.getD d [] ∧ (t.failedCores.filter (fun p => p / 8 == 10 * d + c)).length < 2) ∧
    (s.step = 8 → exec .powerOnStart s = .next { s with
      step := 9, stt := 1, startRec := s.startRec.set 8 ⟨true, (s.startOf 9).alt, 0⟩ })) ∧
  (∀ s : State, s.ev.e = 1 → ∃ t : State, exec .powerOnStart s = .next t ∧ t.step = 0 ∧ t.stt = 0 ∧ t.parts = [] ∧ t.ctxs = [] ∧
    t.coreMap = s.coreMap ∧ t.failedCores = s.failedCores ∧ t.marked = s.marked ∧ t.otsRem = s.otsRem ∧ t.startRec = s.startRec ∧
    t.badBanks = s.badBanks ∧ t.remapped = s.remapped) ∧
  (∀ s : State, s.stt = 0 → s.ev.e ≠ 1 → s.ev.a = 1 → s.step = 2 →
    ∃ t : State, exec .powerOnStart s = .next t ∧ t.stt = 2 ∧ t.step = 3 ∧ t.mem = s.mem) ∧
  (∀ (s : State) (v : Nat), s.linked s.ev.a = true → s.ev.b = 0 → v < 2 ^ 64 → s.ev.data = leBytes 8 v →
    (∀ i, i < 6 → s.ev.c = 0x108 + 8 * i →
      ∃ t : State, exec .registerWrite s = .next t ∧ { t with args := s.args } = s ∧
        (Tbl.wf 0 s.args = true → ∀ j, j < 6 → Tbl.get 0 t.args j = if j = i then BitVec.ofNat 64 v else Tbl.get 0 s.args j))) ∧
  (∀ (s : State) (v : Word), s.linked s.ev.a = true → s.ev.b = 0 → s.ev.data = leBytes 4 v.toNat → s.ev.c = 0x200 →
    exec .registerWrite s = .next { s with semErr := s.semErr &&& ~~~v })

/-- R393 to R396, R398 to R401: MODE, thresholds and counters are written by their ports; a die switches its envelope; a thermal step is
counted; a corrected error is counted and, at its limit, marks its core; a spared row is remapped; telemetry is shown, with the clock of
the envelope in force.
Rests on log entries 8, 14, 60, 63. -/
def Obligations.FleetEvents : Prop :=
  (∀ s : State, s.fleetPage s.ev.a = true → s.mayConfigure s.ev.a = true →
    (s.ev.b % 4 ≠ 3 → s.ev.b / 4 % 4 ≠ 3 → s.ev.b / 32 % 8 = 0 → s.ev.b / 1024 % 2 ^ 54 = 0 →
      exec .modeWrite s = .next (State.showEnv { s with
        env := s.ev.b % 4, retPol := s.ev.b / 4 % 4, refr := s.ev.b.testBit 4 || s.hot.any (·.2), envTarget := s.ev.b % 4 })) ∧
    (s.ev.b % 4 = 3 ∨ s.ev.b / 4 % 4 = 3 ∨ s.ev.b / 32 % 8 ≠ 0 ∨ s.ev.b / 1024 % 2 ^ 54 ≠ 0 → exec .modeWrite s = .next s)) ∧
  (∀ s : State, s.fleetPage s.ev.a = true → s.mayConfigure s.ev.a = false →
    exec .modeWrite s = .next s ∧ (s.ev.b ≤ 8 → exec .thresholdWrite s = .next s)) ∧
  (∀ s : State, s.fleetPage s.ev.a = true → s.mayConfigure s.ev.a = true →
    (s.ev.b < 8 → exec .thresholdWrite s = .next { s with thr := s.thr.set s.ev.b (s.ev.c % 2 ^ 32) }) ∧
    (s.ev.b = 8 → exec .thresholdWrite s = .next { s with rowLim := s.ev.c % 2 ^ 8 })) ∧
  (∀ s : State, s.fleetPage s.ev.a = true → s.ev.b < s.coreMap.length → s.ev.c < 8 → Tbl.wf 0 s.cnt = true →
    ∃ t : State, exec .counterClear s = .next t ∧ { t with cnt := s.cnt } = s ∧
      (BitVec.ofNat 32 (t.counter s.ev.b s.ev.c) = BitVec.ofNat 32 (s.counter s.ev.b s.ev.c) &&& ~~~(BitVec.ofNat 32 s.ev.d)) ∧
      ∀ d k, k < 8 → (d ≠ s.ev.b ∨ k ≠ s.ev.c) → t.counter d k = s.counter d k) ∧
  (∀ (s : State) (e : Nat), s.envAct[s.ev.a]? = some e → e ≠ s.envTarget →
    exec .envelopeSwitch s = .next (State.showEnv { s with envAct := s.envAct.set s.ev.a s.envTarget })) ∧
  (∀ s : State, s.ev.a < s.coreMap.length → Tbl.wf 0 s.cnt = true →
    (s.counter s.ev.a 7 < 2 ^ 32 - 1 →
      (∃ t : State, exec .junctionOvertemp s = .next t ∧ t.envTarget = s.envTarget - 1 ∧
        t.counter s.ev.a 7 = s.counter s.ev.a 7 + 1) ∧
      (s.ev.b ≠ 1 → Tbl.get false s.hot s.ev.a = false → s.refr = false →
        ∃ t : State, exec .dramOvertemp s = .next t ∧ t.refr = true ∧ t.counter s.ev.a 7 = s.counter s.ev.a 7 + 1)) ∧
    (s.ev.b = 1 → Tbl.get false s.hot s.ev.a = true →
      exec .dramOvertemp s = .next { s with hot := Tbl.set false s.hot s.ev.a false })) ∧
  (∀ s : State, s.ev.a = 0 → s.ev.b < 8 * s.clusters → Tbl.wf 0 s.cnt = true →
    let d := s.dieOf s.ev.b
    s.counter d 2 < 2 ^ 32 - 1 →
      ∃ t : State, exec .correctedError s = .next t ∧ t.counter d 2 = s.counter d 2 + 1 ∧ t.mem = s.mem ∧
        t.marked = if s.thr.getD 2 0 ≠ 0 ∧ (s.counter d 2 + 1) % s.thr.getD 2 0 = 0 then s.marked.filter (· != s.ev.b) ++ [s.ev.b]
          else s.marked) ∧
  (∀ (s : State) (r : RowCopy), s.rowCopies.find? (fun r => r.slice == s.ev.a && r.bank == s.ev.c && r.row == s.ev.b) = some r →
    ∃ t : State, exec .rowSpareRemap s = .next t ∧ t.remapped =
      s.remapped.filter (fun (e : RowCopy) => !(e.slice == r.slice && e.bank == r.bank && e.row == r.row)) ++ [r] ∧
      t.rowCopies = s.rowCopies.filter (· != r)) ∧
  (∀ s : State, s.ev.a < s.coreMap.length →
    exec .telemetryRefresh s = .next { s with
      tel := Tbl.put s.tel s.ev.a [s.ev.b % 2 ^ 16, s.ev.c % 2 ^ 16, s.ev.d % 2 ^ 32, clkMhz (s.envAct.getD s.ev.a 2)] })

/-- R334, R339, R340, R373, R377, R384: what is sent to another die enters the output that its path names; a router output moves one flit
of a ready channel, and a packet whose last flit has moved stands at the other end of the bridge, where what it carries has crossed if that
is its die; a Tilic port moves to its spare lane, resends what is not acknowledged, or fails over to another; the far
end's rank is noted; a host link narrows. -/
def linkEventsRule : Prop :=
  (∀ (s : State) (r : ROut) (c : Nat) (p : RPkt), s.routers.find? (fun r => r.die == s.ev.a && r.bit == s.ev.b) = some r →
    s.ev.e ≠ 1 → s.ev.pairs = [] → s.ev.data = [] → r.choose = some c → (r.queues.getD c []).head? = some p →
    let t := { s with routers := updateWhere (fun (x : ROut) => x.die == s.ev.a && x.bit == s.ev.b) (fun _ => r.cycle c) s.routers }
    r.ready c = true ∧ (1 < p.flits → exec .routerOutputArbitration s = .next t) ∧
      (p.flits ≤ 1 → exec .routerOutputArbitration s = .next (t.toBridge (Nat.xor s.ev.a (2 ^ s.ev.b)) c { p with flits := p.len })) ∧
      (p.flits ≤ 1 → p.dst = Nat.xor s.ev.a (2 ^ s.ev.b) → ∀ i, p.item = some i →
        exec .routerOutputArbitration s = .next { t with crossed := s.crossed ++ [i] })) ∧
  (∀ (s : State) (kind id : Nat) (p : BridgePath) (r : ROut), s.pathOf kind id = some p → p.src = s.ev.a →
    bridgeBit p.src p.dst = some s.ev.b → s.underWay (kind, id) = false → s.ev.e ≠ 1 → s.ev.pairs = [(kind, id)] → s.ev.data = [] →
    s.routers.find? (fun r => r.die == s.ev.a && r.bit == s.ev.b) = some r → r.queues.length = 6 → (∀ c, r.credits.getD c 0 = 0) →
    ∃ (t : State) (v : ROut), exec .routerOutputArbitration s = .next t ∧
      t.routers.find? (fun r => r.die == s.ev.a && r.bit == s.ev.b) = some v ∧
      v.queues.getD p.chan [] = r.queues.getD p.chan [] ++ [⟨p.dst, p.flits, p.flits, some (kind, id)⟩]) ∧
  (∀ (s : State) (t : TPort), s.tports[s.ev.a]? = some t → t.up = true →
    (s.ev.b ≠ 1 → t.spareLaneUsed = false → ∃ u : State, exec .tilicLaneSpare s = .next u ∧
      u.tports[s.ev.a]? = some { t with spareLaneUsed := true } ∧ u.routes = s.routes) ∧
    (t.quarantined = false → s.ev.b < t.unacked →
      exec .tilicFlitResend s = .next (s.setTport s.ev.a (fun t =>
        { t with unacked := t.unacked - s.ev.b, resent := t.resent + (t.unacked - s.ev.b) }))) ∧
    (∀ v : TPort, s.tports[s.ev.b]? = some v → v.up = true → v.quarantined = false → s.ev.a ≠ s.ev.b →
      ∃ u : State, exec .tilicPortFailure s = .next u ∧ u.tports[s.ev.a]? = some { t with up := false, unacked := 0 } ∧
        u.tports[s.ev.b]? = some { v with unacked := v.unacked + t.unacked, resent := v.resent + t.unacked } ∧
        u.routes = s.routes.map (fun (e : Nat × Nat) => if e.2 = s.ev.a + 1 then (e.1, s.ev.b + 1) else e)) ∧
    (t.quarantined = false → s.ev.c ≠ 1 → ∃ u : State, exec .rankReportArrival s = .next u ∧
      u.tports[s.ev.a]? = some { t with far := some s.ev.b, quarantined := s.ranked && s.ev.b == s.rank })) ∧
  (∀ (s : State) (p : Port), s.ports[s.ev.a]? = some p → p.linked = true → (s.ev.b = 8 ∨ s.ev.b = 4) → s.ev.b < p.lanes →
    ∃ (u : State) (q : Port), exec .hostLinkRetrain s = .next u ∧ u.ports[s.ev.a]? = some q ∧ q.lanes = s.ev.b ∧ q.linked = true)

/-- R334, R339, R340, R373, R377, R384 to R390, R397: start-up, port resets and the links.
Rests on log entries 8, 59, 62, 63, 70. -/
def Obligations.PortEvents : Prop := startAndPortsRule ∧ linkEventsRule

/-! ## The machine as a whole: reset, a step, the canonical memories -/

/-- R34, R35, R42, R129, R143: a two-source word of the integer class whose registers are misaligned takes the illegal-instruction trap
with the word bit of the field, before any other check; one that names a register past the launch's declaration takes the
register-index trap with the index and the class. -/
def registerTrapsRule : Prop :=
  ∀ (s : State) (e : Env) (o : OpRRR) (wd : Nat), s.executes e → o.ty.intWidth = some wd →
    ∀ i ∈ [Instr.iadd o, .isub o, .imul o, .imulhI o, .imulhN o, .iminI o, .iminN o, .imaxI o, .imaxN o, .iadds o, .isubs o,
        .and o, .or o, .xor o, .andn o],
      (o.d.toNat % regsOf wd ≠ 0 → exec i s = .next (e.trapped s ⟨1, e.c.mask, 43, []⟩)) ∧
      (o.d.toNat % regsOf wd = 0 → (o.a.use (regsOf wd) 35).misaligned = none → (o.b.use (regsOf wd) 27).misaligned = none →
        e.l.pk.regs < o.d.toNat + regsOf wd →
        exec i s = .next (e.trapped s ⟨4, e.c.mask, max o.d.toNat e.l.pk.regs % 256, []⟩))

/-- R34, R35, R42, R113, R129, R143: the traps of register fields and of arithmetic conditions.
Rests on log entries 24, 25. -/
def Obligations.WordTraps : Prop := arithmeticTrapRule ∧ registerTrapsRule

/-- R387, R388, R384, R393, R399, R379, R297, R385: what reset leaves, where the rules say it: start step 0, no rank and empty routing
tables, MODE in ENV 2 with no retention, the thresholds, zero counters and arguments, free semaphores, no partition, context, launch or
warp, and memories in their canonical form. That package memory reads zero where nothing has written is the model's choice.
Rests on log entries 1, 2, 3, 4, 5. -/
def Obligations.ResetState : Prop :=
  let s := State.reset
  s.canonical ∧ s.stt = 0 ∧ s.step = 0 ∧ s.ranked = false ∧ (∀ d r, Tbl.get 0 s.routes (8192 * d + r) = 0) ∧
    s.env = 2 ∧ s.envAct = [2, 2, 2, 2] ∧ s.retPol = 0 ∧ s.refr = false ∧ s.thr = [64, 1, 256, 8, 16, 1, 1, 1] ∧ s.rowLim = 4 ∧
    (∀ d k, s.counter d k = 0) ∧ (∀ i, s.argOf i = 0) ∧ s.cmd = none ∧ s.cstErr = 0 ∧ s.cstRes = 0 ∧ s.cstSer = 0 ∧
    (∀ k, s.holder k = 0) ∧ s.parts = [] ∧ s.ctxs = [] ∧ s.launches = [] ∧ s.slots = [] ∧
    (∀ core slot, s.warp? core slot = none)

/-- R128 to R135, R143, R150 to R156, R193, R218 to R223: words written out bit by bit from the encoding tables decode to the
instructions they stand for, and words with a reserved opcode or a reserved bit set are refused with their reason and bit.
Rests on log entry 80. -/
def Obligations.DecodeWords : Prop :=
  (∀ p ∈ ([(0x4970140000002000, .recld ⟨⟨7, false⟩, 2, none, 0, 32, .relaxed, .none⟩),
      (0x22F0411000000800, .srd ⟨⟨7, false⟩, .v 8, 34, .n32, false⟩),
      (0x20F01007FFFFFFFC, .movi ⟨⟨7, false⟩, 2, 0xFFFFFFFF⟩),
      (0x2090080000000024, .movi ⟨⟨1, false⟩, 1, 4⟩),
      (0x03F0080010180800, .imad ⟨⟨7, false⟩, 1, .v 0, .v 2, .v 3, .n32⟩),
      (0x0A70200000000014, .shlImm ⟨⟨7, false⟩, 4, .v 0, 2⟩),
      (0x0AF0404000000800, .shr ⟨⟨7, false⟩, 8, .v 8, .v 0, .n32⟩),
      (0x09701000000007FC, .xorImm ⟨⟨7, false⟩, 2, .v 0, 255⟩),
      (0x0DF008400000080C, .icmpImm ⟨⟨7, false⟩, 1, .v 8, 0, 1, .n32⟩),
      (0x0BF0080018280804, .bfxImm ⟨⟨7, false⟩, 1, .v 0, 0x305, .n32⟩),
      (0x23F0100880000918, .shfl ⟨⟨7, false⟩, 2, .v 1, .const 16, .n32, 3, 0⟩),
      (0x40F0082100000000, .st ⟨⟨7, false⟩, 1, 4, 1, 0, .relaxed, .none, 0⟩),
      (0x4070082100000000, .ld ⟨⟨7, false⟩, 1, 4, 1, 0, .relaxed, .none, 0⟩),
      (0x30F0000810000000, .brx ⟨⟨7, false⟩, .v 1, 2⟩),
      (0x3070000000000040, .bra ⟨⟨7, false⟩, 8⟩),
      (0x3270000000000000, .wsync ⟨⟨7, false⟩, none⟩),
      (0x32F0000000000000, .exit ⟨⟨7, false⟩⟩),
      (0x3570000000000000, .rfe ⟨⟨7, false⟩⟩),
      (0x80E084004BC61082, .pairIaddRr ⟨7, 1, 2, 0⟩ ⟨37, ⟨7, 6, 4, 0x82⟩⟩)] : List (DWord × Instr)),
    decode p.1 = .ok p.2) ∧
  decode 0x71F0000000000000 = .error ⟨2, 55⟩ ∧ decode 0x0E70000000000000 = .error ⟨2, 55⟩ ∧ decode 0xC000000000000000 = .error ⟨1, 62⟩ ∧
    decode 0x80E0840001C50C00 = .error ⟨7, 0xFF⟩

/-- R19, R20, R26, R27, R136, R143: a step performs the word of the entry in execution, the fault held with it, or the
illegal-instruction trap of a word that is no instruction; else the event the outside asks for; else, when nothing is due, it fetches
the next group's word at its program counter, and carries it out if its warp has no entry in flight, or else dispatches it. Around it a
step lets a cycle pass and ends the waits that are over.
Rests on log entries 6, 7, 22, 23. -/
def Obligations.StepRunsWord : Prop :=
  (∀ (s : State) (c : Cur) (i : Instr), s.cur = some c → c.fault = none → decode c.word = .ok i → step s = exec i s.tick) ∧
  (∀ (s : State) (c : Cur) (r : Reject) (e : Env), s.cur = some c → c.fault = none → decode c.word = .error r → s.tick.executes e →
    step s = .next (e.trapped s.tick ⟨1, c.mask, r.reason * 2 ^ 28 + r.fbit, []⟩)) ∧
  (∀ (s : State) (c : Cur) (st : Stop) (e : Env), s.cur = some c → c.fault = some st → s.tick.executes e →
    step s = .next (e.finish s.tick st.res)) ∧
  (∀ (s : State) (i : Instr) (a : EvArgs) (rest : List (Instr × EvArgs)), s.cur = none → s.agenda = (i, a) :: rest →
    step s = exec i { s.tick with agenda := rest, ev := a }) ∧
  (∀ (s : State) (p : Pick), s.cur = none → s.agenda = [] → s.tick.autoEvent exec = none → s.tick.selectNext = some p →
    let c := s.tick.picked p
    let t := { s.tick.count p with cur := some c }
    (∀ (u : State) (e : Env) (w : DWord) (i : Instr), s.tick.idle p = true → t.executes e → e.fetch t = .word u w → decode w = .ok i →
      step s = exec i { u.touchVec p.core p.slot with cur := some { c with word := w } }) ∧
    (∀ u : State, s.tick.idle p = false → s.tick.dispatch p = some u → step s = .next u)) ∧
  (∀ s : State, s.tick.clk = s.clk + 1 ∧ s.tick.mem = s.mem ∧ s.tick.scr = s.scr ∧ s.tick.ctxs = s.ctxs ∧ s.tick.writes = s.writes ∧
    s.tick.launches = s.launches)

/-- R128 to R135, R137 to R140: decoding the word of a well-formed instruction gives the instruction back, with every operand at every
value that its field admits. -/
def Obligations.EncodeDecode : Prop :=
  ∀ (i : Instr) (w : DWord), i.wf = true → encode i = some w → decode w = .ok i

/-- R135, R143, R144: a word that decodes is the word of its instruction, which is well formed: no field is dropped and every reserved
bit is checked. -/
def Obligations.DecodeEncode : Prop :=
  ∀ (i : Instr) (w : DWord), decode w = .ok i → i.wf = true ∧ encode i = some w

/-- The canonical form of the memories is kept by every step: package memory, host memory, peer packages, scratchpads, tiles and banks
list their bytes by rising address and list none that an unlisted address reads as (the model's own form).
Rests on log entry 1. -/
def Obligations.StepKeepsCanonical : Prop :=
  ∀ s t : State, s.canonical → step s = .next t → t.canonical
end

