-- ==== Sys2Proof/Laws/Sparse.lean ====
section
/-!
SUPPORT. Laws/Sparse.lean: reads after writes of a sparse table, and that every table operation keeps the canonical form.
-/

namespace Sys2Proof.Machine.Tbl

variable {α : Type}

/-! ## Reads after writes -/

@[simp] theorem get_put_self (d : α) (m : Tbl α) (i : Nat) (x : α) : get d (put m i x) i = x := by
  induction m with
  | nil => simp [put, get]
  | cons e t ih => grind [put, get]

theorem get_put_of_ne (d : α) (m : Tbl α) (i j : Nat) (x : α) (h : j ≠ i) : get d (put m i x) j = get d m j := by
  induction m with
  | nil => grind [put, get]
  | cons e t ih => grind [put, get]

theorem put_put (m : Tbl α) (i : Nat) (x y : α) : put (put m i x) i y = put m i y := by
  induction m with
  | nil => simp [put]
  | cons e t ih => grind [put]

@[simp] theorem find?_put_self (m : Tbl α) (i : Nat) (x : α) : find? (put m i x) i = some x := by
  induction m with
  | nil => simp [put, find?]
  | cons e t ih =>
    rcases e with ⟨k, v⟩
    simp only [put]
    split
    · simp [find?]
    · split
      · simp [find?]
      · have hk : ¬ k = i := fun h => ‹¬ i = k› h.symm
        simpa [find?, hk] using ih

theorem find?_put_of_ne (m : Tbl α) (i j : Nat) (x : α) (h : j ≠ i) : find? (put m i x) j = find? m j := by
  induction m with
  | nil => simp [put, find?, h.symm]
  | cons e t ih =>
    rcases e with ⟨k, v⟩
    simp only [put]
    split
    · simp [find?, h.symm]
    · split
      · subst_vars; simp [find?, h.symm]
      · by_cases hk : k = j
        · simp [find?, hk]
        · simpa [find?, hk] using ih

/-! ## The canonical form -/

/-- Every key is above a bound. -/
def above (lo : Option Nat) (k : Nat) : Bool := match lo with
  | none => true
  | some l => decide (l < k)

theorem risingFrom_cons (lo : Option Nat) (k : Nat) (v : α) (t : Tbl α) :
    risingFrom lo ((k, v) :: t) = (above lo k && risingFrom (some k) t) := by
  cases lo <;> rfl

theorem risingFrom_mono {lo hi : Option Nat} {t : Tbl α} (h : ∀ k, above hi k = true → above lo k = true)
    (ht : risingFrom hi t = true) : risingFrom lo t = true := by
  cases t with
  | nil => cases lo <;> rfl
  | cons e t =>
    rw [risingFrom_cons] at ht ⊢
    simp only [Bool.and_eq_true] at ht ⊢
    exact ⟨h _ ht.1, ht.2⟩

theorem risingFrom_none {lo : Option Nat} {t : Tbl α} (ht : risingFrom lo t = true) : risingFrom none t = true :=
  risingFrom_mono (fun _ _ => rfl) ht

/-- A key at or below the bound of a rising table is not listed. -/
theorem get_of_risingFrom (d : α) {l : Nat} {t : Tbl α} (ht : risingFrom (some l) t = true) {j : Nat} (hj : j ≤ l) :
    get d t j = d := by
  cases t with
  | nil => rfl
  | cons e t =>
    rcases e with ⟨k, v⟩
    simp only [risingFrom_cons, above, Bool.and_eq_true, decide_eq_true_eq] at ht
    have h1 : ¬ j = k := by omega
    have h2 : j < k := by omega
    simp [get, h1, h2]

theorem risingFrom_put {lo : Option Nat} {m : Tbl α} {i : Nat} (x : α) (hi : above lo i = true)
    (hm : risingFrom lo m = true) : risingFrom lo (put m i x) = true := by
  induction m generalizing lo with
  | nil => simp [put, risingFrom_cons, hi, risingFrom]
  | cons e t ih =>
    rcases e with ⟨k, v⟩
    rw [risingFrom_cons, Bool.and_eq_true] at hm
    unfold put
    split
    · simp_all [risingFrom_cons, above]
    · split
      · subst_vars; simp_all [risingFrom_cons]
      · have hk : above (some k) i = true := by simp only [above, decide_eq_true_eq]; omega
        rw [risingFrom_cons, hm.1, ih hk hm.2]; rfl

theorem risingFrom_del {lo : Option Nat} {m : Tbl α} (i : Nat) (hm : risingFrom lo m = true) :
    risingFrom lo (del m i) = true := by
  induction m generalizing lo with
  | nil => cases lo <;> rfl
  | cons e t ih =>
    rcases e with ⟨k, v⟩
    rw [risingFrom_cons, Bool.and_eq_true] at hm
    unfold del
    split
    · refine risingFrom_mono (fun j hj => ?_) hm.2
      cases lo with
      | none => rfl
      | some l => simp only [above, decide_eq_true_eq] at hm hj ⊢; omega
    · split
      · rw [risingFrom_cons, hm.1, hm.2]; rfl
      · rw [risingFrom_cons, hm.1, ih hm.2]; rfl

theorem risingFrom_filter {lo : Option Nat} {m : Tbl α} (p : Nat × α → Bool) (hm : risingFrom lo m = true) :
    risingFrom lo (m.filter p) = true := by
  induction m generalizing lo with
  | nil => cases lo <;> rfl
  | cons e t ih =>
    rcases e with ⟨k, v⟩
    rw [risingFrom_cons, Bool.and_eq_true] at hm
    rw [List.filter_cons]
    split
    · rw [risingFrom_cons, hm.1, ih hm.2]; rfl
    · refine ih (risingFrom_mono (fun j hj => ?_) hm.2)
      cases lo with
      | none => rfl
      | some l => simp only [above, decide_eq_true_eq] at hm hj ⊢; omega

theorem mem_put {m : Tbl α} {i : Nat} {x : α} {e : Nat × α} (h : e ∈ put m i x) : e = (i, x) ∨ e ∈ m := by
  induction m with
  | nil => simpa [put] using h
  | cons a t ih => grind [put]

theorem mem_del {m : Tbl α} {i : Nat} {e : Nat × α} (h : e ∈ del m i) : e ∈ m := by
  induction m with
  | nil => simp [del] at h
  | cons a t ih => grind [del]

theorem get_del_self (d : α) {m : Tbl α} (i : Nat) (hm : risingFrom none m = true) : get d (del m i) i = d := by
  induction m with
  | nil => rfl
  | cons e t ih =>
    rcases e with ⟨k, v⟩
    simp only [risingFrom_cons, above, Bool.true_and] at hm
    unfold del
    split
    · subst_vars; exact get_of_risingFrom d hm (Nat.le_refl _)
    · split
      · simp [get, *]
      · simp only [get]
        rw [if_neg ‹_›, if_neg ‹_›]
        exact ih (risingFrom_none hm)

theorem get_del_of_ne (d : α) {m : Tbl α} (i j : Nat) (h : j ≠ i) (hm : risingFrom none m = true) :
    get d (del m i) j = get d m j := by
  induction m with
  | nil => rfl
  | cons e t ih =>
    rcases e with ⟨k, v⟩
    simp only [risingFrom_cons, above, Bool.true_and] at hm
    unfold del
    split
    · rename_i hik
      have hj : j ≠ k := hik ▸ h
      have hd : j < k → get d t j = d := fun hj => get_of_risingFrom d hm (Nat.le_of_lt hj)
      simp only [get, if_neg hj]
      split
      · exact hd ‹_›
      · rfl
    · split
      · rfl
      · simp only [get, ih (risingFrom_none hm)]

variable [DecidableEq α]

theorem wf_iff (d : α) (m : Tbl α) : wf d m = true ↔ risingFrom none m = true ∧ ∀ e ∈ m, e.2 ≠ d := by
  simp [wf, List.all_eq_true]

@[simp] theorem wf_nil (d : α) : wf d ([] : Tbl α) = true := rfl

theorem wf_put (d : α) {m : Tbl α} (i : Nat) {x : α} (hx : x ≠ d) (hm : wf d m = true) : wf d (put m i x) = true := by
  rw [wf_iff] at hm ⊢
  refine ⟨risingFrom_put x rfl hm.1, fun e he => ?_⟩
  rcases mem_put he with rfl | h
  · exact hx
  · exact hm.2 e h

theorem wf_del (d : α) {m : Tbl α} (i : Nat) (hm : wf d m = true) : wf d (del m i) = true := by
  rw [wf_iff] at hm ⊢
  exact ⟨risingFrom_del i hm.1, fun e he => hm.2 e (mem_del he)⟩

/-- Writing keeps the canonical form, whatever is written. -/
theorem wf_set (d : α) {m : Tbl α} (i : Nat) (x : α) (hm : wf d m = true) : wf d (set d m i x) = true := by
  unfold set
  split
  · exact wf_del d i hm
  · exact wf_put d i ‹_› hm

theorem wf_filter (d : α) {m : Tbl α} (p : Nat × α → Bool) (hm : wf d m = true) : wf d (m.filter p) = true := by
  rw [wf_iff] at hm ⊢
  exact ⟨risingFrom_filter p hm.1, fun e he => hm.2 e (List.mem_filter.mp he).1⟩

theorem wf_clear (d : α) {m : Tbl α} (lo n : Nat) (hm : wf d m = true) : wf d (clear m lo n) = true := wf_filter d _ hm
theorem wf_slice (d : α) {m : Tbl α} (lo n : Nat) (hm : wf d m = true) : wf d (slice m lo n) = true := wf_filter d _ hm

/-- A read after a write to the same key gives the value written. -/
theorem get_set_self (d : α) {m : Tbl α} (i : Nat) (x : α) (hm : wf d m = true) : get d (set d m i x) i = x := by
  unfold set
  split
  · subst_vars; exact get_del_self _ i ((wf_iff _ _).mp hm).1
  · exact get_put_self d m i x

/-- A write leaves every other key as it was. -/
theorem get_set_of_ne (d : α) {m : Tbl α} (i j : Nat) (x : α) (h : j ≠ i) (hm : wf d m = true) :
    get d (set d m i x) j = get d m j := by
  unfold set
  split
  · exact get_del_of_ne d i j h ((wf_iff _ _).mp hm).1
  · exact get_put_of_ne d m i j x h

theorem get_set (d : α) {m : Tbl α} (i j : Nat) (x : α) (hm : wf d m = true) :
    get d (set d m i x) j = if j = i then x else get d m j := by
  split
  · subst_vars; exact get_set_self d _ x hm
  · exact get_set_of_ne d i j x ‹_› hm

end Sys2Proof.Machine.Tbl
end

