-- ==== Sys2Proof/Laws/State.lean ====
section
/-!
SUPPORT. Laws/State.lean: what each named update of the state and of a warp leaves as it was, one lemma per field.
-/

namespace Sys2Proof.Machine

/-! ## Updates of the state -/

@[simp] theorem State.setWarp_cur (s : State) (core slot : Nat) (w : Warp) : (s.setWarp core slot w).cur = s.cur := rfl
@[simp] theorem State.setWarp_ev (s : State) (core slot : Nat) (w : Warp) : (s.setWarp core slot w).ev = s.ev := rfl
@[simp] theorem State.setWarp_agenda (s : State) (core slot : Nat) (w : Warp) : (s.setWarp core slot w).agenda = s.agenda := rfl
@[simp] theorem State.setWarp_free (s : State) (core slot : Nat) (w : Warp) : (s.setWarp core slot w).free = s.free := rfl
@[simp] theorem State.setWarp_nextId (s : State) (core slot : Nat) (w : Warp) : (s.setWarp core slot w).nextId = s.nextId := rfl
@[simp] theorem State.setWarp_single (s : State) (core slot : Nat) (w : Warp) : (s.setWarp core slot w).single = s.single := rfl
@[simp] theorem State.setWarp_clk (s : State) (core slot : Nat) (w : Warp) : (s.setWarp core slot w).clk = s.clk := rfl
@[simp] theorem State.setWarp_time (s : State) (core slot : Nat) (w : Warp) : (s.setWarp core slot w).time = s.time := rfl
@[simp] theorem State.setWarp_coreMap (s : State) (core slot : Nat) (w : Warp) : (s.setWarp core slot w).coreMap = s.coreMap := rfl
@[simp] theorem State.setWarp_rank (s : State) (core slot : Nat) (w : Warp) : (s.setWarp core slot w).rank = s.rank := rfl
@[simp] theorem State.setWarp_ranked (s : State) (core slot : Nat) (w : Warp) : (s.setWarp core slot w).ranked = s.ranked := rfl
@[simp] theorem State.setWarp_domain (s : State) (core slot : Nat) (w : Warp) : (s.setWarp core slot w).domain = s.domain := rfl
@[simp] theorem State.setWarp_warps (s : State) (core slot : Nat) (w : Warp) : (s.setWarp core slot w).warps = Tbl.put s.warps (32 * core + slot) w := rfl
@[simp] theorem State.setWarp_evicted (s : State) (core slot : Nat) (w : Warp) : (s.setWarp core slot w).evicted = s.evicted := rfl
@[simp] theorem State.setWarp_lastSel (s : State) (core slot : Nat) (w : Warp) : (s.setWarp core slot w).lastSel = s.lastSel := rfl
@[simp] theorem State.setWarp_rrPart (s : State) (core slot : Nat) (w : Warp) : (s.setWarp core slot w).rrPart = s.rrPart := rfl
@[simp] theorem State.setWarp_scr (s : State) (core slot : Nat) (w : Warp) : (s.setWarp core slot w).scr = s.scr := rfl
@[simp] theorem State.setWarp_fe (s : State) (core slot : Nat) (w : Warp) : (s.setWarp core slot w).fe = s.fe := rfl
@[simp] theorem State.setWarp_scrOwner (s : State) (core slot : Nat) (w : Warp) : (s.setWarp core slot w).scrOwner = s.scrOwner := rfl
@[simp] theorem State.setWarp_tiles (s : State) (core slot : Nat) (w : Warp) : (s.setWarp core slot w).tiles = s.tiles := rfl
@[simp] theorem State.setWarp_tileOf (s : State) (core slot : Nat) (w : Warp) : (s.setWarp core slot w).tileOf = s.tileOf := rfl
@[simp] theorem State.setWarp_tileOwner (s : State) (core slot : Nat) (w : Warp) : (s.setWarp core slot w).tileOwner = s.tileOwner := rfl
@[simp] theorem State.setWarp_banks (s : State) (core slot : Nat) (w : Warp) : (s.setWarp core slot w).banks = s.banks := rfl
@[simp] theorem State.setWarp_bankOf (s : State) (core slot : Nat) (w : Warp) : (s.setWarp core slot w).bankOf = s.bankOf := rfl
@[simp] theorem State.setWarp_bankOwner (s : State) (core slot : Nat) (w : Warp) : (s.setWarp core slot w).bankOwner = s.bankOwner := rfl
@[simp] theorem State.setWarp_l1 (s : State) (core slot : Nat) (w : Warp) : (s.setWarp core slot w).l1 = s.l1 := rfl
@[simp] theorem State.setWarp_ret (s : State) (core slot : Nat) (w : Warp) : (s.setWarp core slot w).ret = s.ret := rfl
@[simp] theorem State.setWarp_segAccess (s : State) (core slot : Nat) (w : Warp) : (s.setWarp core slot w).segAccess = s.segAccess := rfl
@[simp] theorem State.setWarp_launches (s : State) (core slot : Nat) (w : Warp) : (s.setWarp core slot w).launches = s.launches := rfl
@[simp] theorem State.setWarp_cgs (s : State) (core slot : Nat) (w : Warp) : (s.setWarp core slot w).cgs = s.cgs := rfl
@[simp] theorem State.setWarp_wgs (s : State) (core slot : Nat) (w : Warp) : (s.setWarp core slot w).wgs = s.wgs := rfl
@[simp] theorem State.setWarp_savedWgs (s : State) (core slot : Nat) (w : Warp) : (s.setWarp core slot w).savedWgs = s.savedWgs := rfl
@[simp] theorem State.setWarp_convoys (s : State) (core slot : Nat) (w : Warp) : (s.setWarp core slot w).convoys = s.convoys := rfl
@[simp] theorem State.setWarp_reserved (s : State) (core slot : Nat) (w : Warp) : (s.setWarp core slot w).reserved = s.reserved := rfl
@[simp] theorem State.setWarp_reelQ (s : State) (core slot : Nat) (w : Warp) : (s.setWarp core slot w).reelQ = s.reelQ := rfl
@[simp] theorem State.setWarp_matQ (s : State) (core slot : Nat) (w : Warp) : (s.setWarp core slot w).matQ = s.matQ := rfl
@[simp] theorem State.setWarp_cruQ (s : State) (core slot : Nat) (w : Warp) : (s.setWarp core slot w).cruQ = s.cruQ := rfl
@[simp] theorem State.setWarp_ampQ (s : State) (core slot : Nat) (w : Warp) : (s.setWarp core slot w).ampQ = s.ampQ := rfl
@[simp] theorem State.setWarp_qfences (s : State) (core slot : Nat) (w : Warp) : (s.setWarp core slot w).qfences = s.qfences := rfl
@[simp] theorem State.setWarp_seqrs (s : State) (core slot : Nat) (w : Warp) : (s.setWarp core slot w).seqrs = s.seqrs := rfl
@[simp] theorem State.setWarp_qmaps (s : State) (core slot : Nat) (w : Warp) : (s.setWarp core slot w).qmaps = s.qmaps := rfl
@[simp] theorem State.setWarp_ampMsgs (s : State) (core slot : Nat) (w : Warp) : (s.setWarp core slot w).ampMsgs = s.ampMsgs := rfl
@[simp] theorem State.setWarp_ampGrants (s : State) (core slot : Nat) (w : Warp) : (s.setWarp core slot w).ampGrants = s.ampGrants := rfl
@[simp] theorem State.setWarp_reelOff (s : State) (core slot : Nat) (w : Warp) : (s.setWarp core slot w).reelOff = s.reelOff := rfl
@[simp] theorem State.setWarp_matOff (s : State) (core slot : Nat) (w : Warp) : (s.setWarp core slot w).matOff = s.matOff := rfl
@[simp] theorem State.setWarp_ampOff (s : State) (core slot : Nat) (w : Warp) : (s.setWarp core slot w).ampOff = s.ampOff := rfl
@[simp] theorem State.setWarp_mem (s : State) (core slot : Nat) (w : Warp) : (s.setWarp core slot w).mem = s.mem := rfl
@[simp] theorem State.setWarp_hostMem (s : State) (core slot : Nat) (w : Warp) : (s.setWarp core slot w).hostMem = s.hostMem := rfl
@[simp] theorem State.setWarp_peerMem (s : State) (core slot : Nat) (w : Warp) : (s.setWarp core slot w).peerMem = s.peerMem := rfl
@[simp] theorem State.setWarp_peerPages (s : State) (core slot : Nat) (w : Warp) : (s.setWarp core slot w).peerPages = s.peerPages := rfl
@[simp] theorem State.setWarp_writes (s : State) (core slot : Nat) (w : Warp) : (s.setWarp core slot w).writes = s.writes := rfl
@[simp] theorem State.setWarp_reads (s : State) (core slot : Nat) (w : Warp) : (s.setWarp core slot w).reads = s.reads := rfl
@[simp] theorem State.setWarp_pending (s : State) (core slot : Nat) (w : Warp) : (s.setWarp core slot w).pending = s.pending := rfl
@[simp] theorem State.setWarp_contribs (s : State) (core slot : Nat) (w : Warp) : (s.setWarp core slot w).contribs = s.contribs := rfl
@[simp] theorem State.setWarp_seqs (s : State) (core slot : Nat) (w : Warp) : (s.setWarp core slot w).seqs = s.seqs := rfl
@[simp] theorem State.setWarp_poison (s : State) (core slot : Nat) (w : Warp) : (s.setWarp core slot w).poison = s.poison := rfl
@[simp] theorem State.setWarp_tcache (s : State) (core slot : Nat) (w : Warp) : (s.setWarp core slot w).tcache = s.tcache := rfl
@[simp] theorem State.setWarp_migs (s : State) (core slot : Nat) (w : Warp) : (s.setWarp core slot w).migs = s.migs := rfl
@[simp] theorem State.setWarp_migRetry (s : State) (core slot : Nat) (w : Warp) : (s.setWarp core slot w).migRetry = s.migRetry := rfl
@[simp] theorem State.setWarp_shoots (s : State) (core slot : Nat) (w : Warp) : (s.setWarp core slot w).shoots = s.shoots := rfl
@[simp] theorem State.setWarp_fencedRanks (s : State) (core slot : Nat) (w : Warp) : (s.setWarp core slot w).fencedRanks = s.fencedRanks := rfl
@[simp] theorem State.setWarp_msgs (s : State) (core slot : Nat) (w : Warp) : (s.setWarp core slot w).msgs = s.msgs := rfl
@[simp] theorem State.setWarp_sends (s : State) (core slot : Nat) (w : Warp) : (s.setWarp core slot w).sends = s.sends := rfl
@[simp] theorem State.setWarp_usedHandles (s : State) (core slot : Nat) (w : Warp) : (s.setWarp core slot w).usedHandles = s.usedHandles := rfl
@[simp] theorem State.setWarp_pkts (s : State) (core slot : Nat) (w : Warp) : (s.setWarp core slot w).pkts = s.pkts := rfl
@[simp] theorem State.setWarp_replies (s : State) (core slot : Nat) (w : Warp) : (s.setWarp core slot w).replies = s.replies := rfl
@[simp] theorem State.setWarp_genUpds (s : State) (core slot : Nat) (w : Warp) : (s.setWarp core slot w).genUpds = s.genUpds := rfl
@[simp] theorem State.setWarp_genTab (s : State) (core slot : Nat) (w : Warp) : (s.setWarp core slot w).genTab = s.genTab := rfl
@[simp] theorem State.setWarp_colls (s : State) (core slot : Nat) (w : Warp) : (s.setWarp core slot w).colls = s.colls := rfl
@[simp] theorem State.setWarp_doneTickets (s : State) (core slot : Nat) (w : Warp) : (s.setWarp core slot w).doneTickets = s.doneTickets := rfl
@[simp] theorem State.setWarp_collEarly (s : State) (core slot : Nat) (w : Warp) : (s.setWarp core slot w).collEarly = s.collEarly := rfl
@[simp] theorem State.setWarp_collBad (s : State) (core slot : Nat) (w : Warp) : (s.setWarp core slot w).collBad = s.collBad := rfl
@[simp] theorem State.setWarp_winches (s : State) (core slot : Nat) (w : Warp) : (s.setWarp core slot w).winches = s.winches := rfl
@[simp] theorem State.setWarp_spares (s : State) (core slot : Nat) (w : Warp) : (s.setWarp core slot w).spares = s.spares := rfl
@[simp] theorem State.setWarp_tports (s : State) (core slot : Nat) (w : Warp) : (s.setWarp core slot w).tports = s.tports := rfl
@[simp] theorem State.setWarp_routes (s : State) (core slot : Nat) (w : Warp) : (s.setWarp core slot w).routes = s.routes := rfl
@[simp] theorem State.setWarp_tilicOut (s : State) (core slot : Nat) (w : Warp) : (s.setWarp core slot w).tilicOut = s.tilicOut := rfl
@[simp] theorem State.setWarp_peerReqs (s : State) (core slot : Nat) (w : Warp) : (s.setWarp core slot w).peerReqs = s.peerReqs := rfl
@[simp] theorem State.setWarp_routers (s : State) (core slot : Nat) (w : Warp) : (s.setWarp core slot w).routers = s.routers := rfl
@[simp] theorem State.setWarp_crossed (s : State) (core slot : Nat) (w : Warp) : (s.setWarp core slot w).crossed = s.crossed := rfl
@[simp] theorem State.setWarp_ctxs (s : State) (core slot : Nat) (w : Warp) : (s.setWarp core slot w).ctxs = s.ctxs := rfl
@[simp] theorem State.setWarp_parts (s : State) (core slot : Nat) (w : Warp) : (s.setWarp core slot w).parts = s.parts := rfl
@[simp] theorem State.setWarp_ports (s : State) (core slot : Nat) (w : Warp) : (s.setWarp core slot w).ports = s.ports := rfl
@[simp] theorem State.setWarp_slots (s : State) (core slot : Nat) (w : Warp) : (s.setWarp core slot w).slots = s.slots := rfl
@[simp] theorem State.setWarp_sems (s : State) (core slot : Nat) (w : Warp) : (s.setWarp core slot w).sems = s.sems := rfl
@[simp] theorem State.setWarp_lastRead (s : State) (core slot : Nat) (w : Warp) : (s.setWarp core slot w).lastRead = s.lastRead := rfl
@[simp] theorem State.setWarp_args (s : State) (core slot : Nat) (w : Warp) : (s.setWarp core slot w).args = s.args := rfl
@[simp] theorem State.setWarp_cmd (s : State) (core slot : Nat) (w : Warp) : (s.setWarp core slot w).cmd = s.cmd := rfl
@[simp] theorem State.setWarp_cstErr (s : State) (core slot : Nat) (w : Warp) : (s.setWarp core slot w).cstErr = s.cstErr := rfl
@[simp] theorem State.setWarp_cstRes (s : State) (core slot : Nat) (w : Warp) : (s.setWarp core slot w).cstRes = s.cstRes := rfl
@[simp] theorem State.setWarp_cstSer (s : State) (core slot : Nat) (w : Warp) : (s.setWarp core slot w).cstSer = s.cstSer := rfl
@[simp] theorem State.setWarp_semErr (s : State) (core slot : Nat) (w : Warp) : (s.setWarp core slot w).semErr = s.semErr := rfl
@[simp] theorem State.setWarp_cfgErr (s : State) (core slot : Nat) (w : Warp) : (s.setWarp core slot w).cfgErr = s.cfgErr := rfl
@[simp] theorem State.setWarp_slotErr (s : State) (core slot : Nat) (w : Warp) : (s.setWarp core slot w).slotErr = s.slotErr := rfl
@[simp] theorem State.setWarp_otsRem (s : State) (core slot : Nat) (w : Warp) : (s.setWarp core slot w).otsRem = s.otsRem := rfl
@[simp] theorem State.setWarp_rootHash (s : State) (core slot : Nat) (w : Warp) : (s.setWarp core slot w).rootHash = s.rootHash := rfl
@[simp] theorem State.setWarp_idHash (s : State) (core slot : Nat) (w : Warp) : (s.setWarp core slot w).idHash = s.idHash := rfl
@[simp] theorem State.setWarp_fuseVer (s : State) (core slot : Nat) (w : Warp) : (s.setWarp core slot w).fuseVer = s.fuseVer := rfl
@[simp] theorem State.setWarp_step (s : State) (core slot : Nat) (w : Warp) : (s.setWarp core slot w).step = s.step := rfl
@[simp] theorem State.setWarp_stt (s : State) (core slot : Nat) (w : Warp) : (s.setWarp core slot w).stt = s.stt := rfl
@[simp] theorem State.setWarp_startRec (s : State) (core slot : Nat) (w : Warp) : (s.setWarp core slot w).startRec = s.startRec := rfl
@[simp] theorem State.setWarp_downPorts (s : State) (core slot : Nat) (w : Warp) : (s.setWarp core slot w).downPorts = s.downPorts := rfl
@[simp] theorem State.setWarp_marked (s : State) (core slot : Nat) (w : Warp) : (s.setWarp core slot w).marked = s.marked := rfl
@[simp] theorem State.setWarp_failedCores (s : State) (core slot : Nat) (w : Warp) : (s.setWarp core slot w).failedCores = s.failedCores := rfl
@[simp] theorem State.setWarp_env (s : State) (core slot : Nat) (w : Warp) : (s.setWarp core slot w).env = s.env := rfl
@[simp] theorem State.setWarp_envAct (s : State) (core slot : Nat) (w : Warp) : (s.setWarp core slot w).envAct = s.envAct := rfl
@[simp] theorem State.setWarp_envTarget (s : State) (core slot : Nat) (w : Warp) : (s.setWarp core slot w).envTarget = s.envTarget := rfl
@[simp] theorem State.setWarp_envSeen (s : State) (core slot : Nat) (w : Warp) : (s.setWarp core slot w).envSeen = s.envSeen := rfl
@[simp] theorem State.setWarp_retPol (s : State) (core slot : Nat) (w : Warp) : (s.setWarp core slot w).retPol = s.retPol := rfl
@[simp] theorem State.setWarp_refr (s : State) (core slot : Nat) (w : Warp) : (s.setWarp core slot w).refr = s.refr := rfl
@[simp] theorem State.setWarp_hot (s : State) (core slot : Nat) (w : Warp) : (s.setWarp core slot w).hot = s.hot := rfl
@[simp] theorem State.setWarp_cnt (s : State) (core slot : Nat) (w : Warp) : (s.setWarp core slot w).cnt = s.cnt := rfl
@[simp] theorem State.setWarp_thr (s : State) (core slot : Nat) (w : Warp) : (s.setWarp core slot w).thr = s.thr := rfl
@[simp] theorem State.setWarp_rowLim (s : State) (core slot : Nat) (w : Warp) : (s.setWarp core slot w).rowLim = s.rowLim := rfl
@[simp] theorem State.setWarp_rowTab (s : State) (core slot : Nat) (w : Warp) : (s.setWarp core slot w).rowTab = s.rowTab := rfl
@[simp] theorem State.setWarp_rowCopies (s : State) (core slot : Nat) (w : Warp) : (s.setWarp core slot w).rowCopies = s.rowCopies := rfl
@[simp] theorem State.setWarp_rowSpares (s : State) (core slot : Nat) (w : Warp) : (s.setWarp core slot w).rowSpares = s.rowSpares := rfl
@[simp] theorem State.setWarp_remapped (s : State) (core slot : Nat) (w : Warp) : (s.setWarp core slot w).remapped = s.remapped := rfl
@[simp] theorem State.setWarp_badBanks (s : State) (core slot : Nat) (w : Warp) : (s.setWarp core slot w).badBanks = s.badBanks := rfl
@[simp] theorem State.setWarp_bankSpares (s : State) (core slot : Nat) (w : Warp) : (s.setWarp core slot w).bankSpares = s.bankSpares := rfl
@[simp] theorem State.setWarp_tel (s : State) (core slot : Nat) (w : Warp) : (s.setWarp core slot w).tel = s.tel := rfl

@[simp] theorem State.dropWarp_cur (s : State) (core slot : Nat) : (s.dropWarp core slot).cur = s.cur := rfl
@[simp] theorem State.dropWarp_ev (s : State) (core slot : Nat) : (s.dropWarp core slot).ev = s.ev := rfl
@[simp] theorem State.dropWarp_agenda (s : State) (core slot : Nat) : (s.dropWarp core slot).agenda = s.agenda := rfl
@[simp] theorem State.dropWarp_free (s : State) (core slot : Nat) : (s.dropWarp core slot).free = s.free := rfl
@[simp] theorem State.dropWarp_nextId (s : State) (core slot : Nat) : (s.dropWarp core slot).nextId = s.nextId := rfl
@[simp] theorem State.dropWarp_single (s : State) (core slot : Nat) : (s.dropWarp core slot).single = s.single := rfl
@[simp] theorem State.dropWarp_clk (s : State) (core slot : Nat) : (s.dropWarp core slot).clk = s.clk := rfl
@[simp] theorem State.dropWarp_time (s : State) (core slot : Nat) : (s.dropWarp core slot).time = s.time := rfl
@[simp] theorem State.dropWarp_coreMap (s : State) (core slot : Nat) : (s.dropWarp core slot).coreMap = s.coreMap := rfl
@[simp] theorem State.dropWarp_rank (s : State) (core slot : Nat) : (s.dropWarp core slot).rank = s.rank := rfl
@[simp] theorem State.dropWarp_ranked (s : State) (core slot : Nat) : (s.dropWarp core slot).ranked = s.ranked := rfl
@[simp] theorem State.dropWarp_domain (s : State) (core slot : Nat) : (s.dropWarp core slot).domain = s.domain := rfl
@[simp] theorem State.dropWarp_warps (s : State) (core slot : Nat) : (s.dropWarp core slot).warps = Tbl.del s.warps (32 * core + slot) := rfl
@[simp] theorem State.dropWarp_evicted (s : State) (core slot : Nat) : (s.dropWarp core slot).evicted = s.evicted := rfl
@[simp] theorem State.dropWarp_lastSel (s : State) (core slot : Nat) : (s.dropWarp core slot).lastSel = s.lastSel := rfl
@[simp] theorem State.dropWarp_rrPart (s : State) (core slot : Nat) : (s.dropWarp core slot).rrPart = s.rrPart := rfl
@[simp] theorem State.dropWarp_scr (s : State) (core slot : Nat) : (s.dropWarp core slot).scr = s.scr := rfl
@[simp] theorem State.dropWarp_fe (s : State) (core slot : Nat) : (s.dropWarp core slot).fe = s.fe := rfl
@[simp] theorem State.dropWarp_scrOwner (s : State) (core slot : Nat) : (s.dropWarp core slot).scrOwner = s.scrOwner := rfl
@[simp] theorem State.dropWarp_tiles (s : State) (core slot : Nat) : (s.dropWarp core slot).tiles = s.tiles := rfl
@[simp] theorem State.dropWarp_tileOf (s : State) (core slot : Nat) : (s.dropWarp core slot).tileOf = s.tileOf := rfl
@[simp] theorem State.dropWarp_tileOwner (s : State) (core slot : Nat) : (s.dropWarp core slot).tileOwner = s.tileOwner := rfl
@[simp] theorem State.dropWarp_banks (s : State) (core slot : Nat) : (s.dropWarp core slot).banks = s.banks := rfl
@[simp] theorem State.dropWarp_bankOf (s : State) (core slot : Nat) : (s.dropWarp core slot).bankOf = s.bankOf := rfl
@[simp] theorem State.dropWarp_bankOwner (s : State) (core slot : Nat) : (s.dropWarp core slot).bankOwner = s.bankOwner := rfl
@[simp] theorem State.dropWarp_l1 (s : State) (core slot : Nat) : (s.dropWarp core slot).l1 = s.l1 := rfl
@[simp] theorem State.dropWarp_ret (s : State) (core slot : Nat) : (s.dropWarp core slot).ret = s.ret := rfl
@[simp] theorem State.dropWarp_segAccess (s : State) (core slot : Nat) : (s.dropWarp core slot).segAccess = s.segAccess := rfl
@[simp] theorem State.dropWarp_launches (s : State) (core slot : Nat) : (s.dropWarp core slot).launches = s.launches := rfl
@[simp] theorem State.dropWarp_cgs (s : State) (core slot : Nat) : (s.dropWarp core slot).cgs = s.cgs := rfl
@[simp] theorem State.dropWarp_wgs (s : State) (core slot : Nat) : (s.dropWarp core slot).wgs = s.wgs := rfl
@[simp] theorem State.dropWarp_savedWgs (s : State) (core slot : Nat) : (s.dropWarp core slot).savedWgs = s.savedWgs := rfl
@[simp] theorem State.dropWarp_convoys (s : State) (core slot : Nat) : (s.dropWarp core slot).convoys = s.convoys := rfl
@[simp] theorem State.dropWarp_reserved (s : State) (core slot : Nat) : (s.dropWarp core slot).reserved = s.reserved := rfl
@[simp] theorem State.dropWarp_reelQ (s : State) (core slot : Nat) : (s.dropWarp core slot).reelQ = s.reelQ := rfl
@[simp] theorem State.dropWarp_matQ (s : State) (core slot : Nat) : (s.dropWarp core slot).matQ = s.matQ := rfl
@[simp] theorem State.dropWarp_cruQ (s : State) (core slot : Nat) : (s.dropWarp core slot).cruQ = s.cruQ := rfl
@[simp] theorem State.dropWarp_ampQ (s : State) (core slot : Nat) : (s.dropWarp core slot).ampQ = s.ampQ := rfl
@[simp] theorem State.dropWarp_qfences (s : State) (core slot : Nat) : (s.dropWarp core slot).qfences = s.qfences := rfl
@[simp] theorem State.dropWarp_seqrs (s : State) (core slot : Nat) : (s.dropWarp core slot).seqrs = s.seqrs := rfl
@[simp] theorem State.dropWarp_qmaps (s : State) (core slot : Nat) : (s.dropWarp core slot).qmaps = s.qmaps := rfl
@[simp] theorem State.dropWarp_ampMsgs (s : State) (core slot : Nat) : (s.dropWarp core slot).ampMsgs = s.ampMsgs := rfl
@[simp] theorem State.dropWarp_ampGrants (s : State) (core slot : Nat) : (s.dropWarp core slot).ampGrants = s.ampGrants := rfl
@[simp] theorem State.dropWarp_reelOff (s : State) (core slot : Nat) : (s.dropWarp core slot).reelOff = s.reelOff := rfl
@[simp] theorem State.dropWarp_matOff (s : State) (core slot : Nat) : (s.dropWarp core slot).matOff = s.matOff := rfl
@[simp] theorem State.dropWarp_ampOff (s : State) (core slot : Nat) : (s.dropWarp core slot).ampOff = s.ampOff := rfl
@[simp] theorem State.dropWarp_mem (s : State) (core slot : Nat) : (s.dropWarp core slot).mem = s.mem := rfl
@[simp] theorem State.dropWarp_hostMem (s : State) (core slot : Nat) : (s.dropWarp core slot).hostMem = s.hostMem := rfl
@[simp] theorem State.dropWarp_peerMem (s : State) (core slot : Nat) : (s.dropWarp core slot).peerMem = s.peerMem := rfl
@[simp] theorem State.dropWarp_peerPages (s : State) (core slot : Nat) : (s.dropWarp core slot).peerPages = s.peerPages := rfl
@[simp] theorem State.dropWarp_writes (s : State) (core slot : Nat) : (s.dropWarp core slot).writes = s.writes := rfl
@[simp] theorem State.dropWarp_reads (s : State) (core slot : Nat) : (s.dropWarp core slot).reads = s.reads := rfl
@[simp] theorem State.dropWarp_pending (s : State) (core slot : Nat) : (s.dropWarp core slot).pending = s.pending := rfl
@[simp] theorem State.dropWarp_contribs (s : State) (core slot : Nat) : (s.dropWarp core slot).contribs = s.contribs := rfl
@[simp] theorem State.dropWarp_seqs (s : State) (core slot : Nat) : (s.dropWarp core slot).seqs = s.seqs := rfl
@[simp] theorem State.dropWarp_poison (s : State) (core slot : Nat) : (s.dropWarp core slot).poison = s.poison := rfl
@[simp] theorem State.dropWarp_tcache (s : State) (core slot : Nat) : (s.dropWarp core slot).tcache = s.tcache := rfl
@[simp] theorem State.dropWarp_migs (s : State) (core slot : Nat) : (s.dropWarp core slot).migs = s.migs := rfl
@[simp] theorem State.dropWarp_migRetry (s : State) (core slot : Nat) : (s.dropWarp core slot).migRetry = s.migRetry := rfl
@[simp] theorem State.dropWarp_shoots (s : State) (core slot : Nat) : (s.dropWarp core slot).shoots = s.shoots := rfl
@[simp] theorem State.dropWarp_fencedRanks (s : State) (core slot : Nat) : (s.dropWarp core slot).fencedRanks = s.fencedRanks := rfl
@[simp] theorem State.dropWarp_msgs (s : State) (core slot : Nat) : (s.dropWarp core slot).msgs = s.msgs := rfl
@[simp] theorem State.dropWarp_sends (s : State) (core slot : Nat) : (s.dropWarp core slot).sends = s.sends := rfl
@[simp] theorem State.dropWarp_usedHandles (s : State) (core slot : Nat) : (s.dropWarp core slot).usedHandles = s.usedHandles := rfl
@[simp] theorem State.dropWarp_pkts (s : State) (core slot : Nat) : (s.dropWarp core slot).pkts = s.pkts := rfl
@[simp] theorem State.dropWarp_replies (s : State) (core slot : Nat) : (s.dropWarp core slot).replies = s.replies := rfl
@[simp] theorem State.dropWarp_genUpds (s : State) (core slot : Nat) : (s.dropWarp core slot).genUpds = s.genUpds := rfl
@[simp] theorem State.dropWarp_genTab (s : State) (core slot : Nat) : (s.dropWarp core slot).genTab = s.genTab := rfl
@[simp] theorem State.dropWarp_colls (s : State) (core slot : Nat) : (s.dropWarp core slot).colls = s.colls := rfl
@[simp] theorem State.dropWarp_doneTickets (s : State) (core slot : Nat) : (s.dropWarp core slot).doneTickets = s.doneTickets := rfl
@[simp] theorem State.dropWarp_collEarly (s : State) (core slot : Nat) : (s.dropWarp core slot).collEarly = s.collEarly := rfl
@[simp] theorem State.dropWarp_collBad (s : State) (core slot : Nat) : (s.dropWarp core slot).collBad = s.collBad := rfl
@[simp] theorem State.dropWarp_winches (s : State) (core slot : Nat) : (s.dropWarp core slot).winches = s.winches := rfl
@[simp] theorem State.dropWarp_spares (s : State) (core slot : Nat) : (s.dropWarp core slot).spares = s.spares := rfl
@[simp] theorem State.dropWarp_tports (s : State) (core slot : Nat) : (s.dropWarp core slot).tports = s.tports := rfl
@[simp] theorem State.dropWarp_routes (s : State) (core slot : Nat) : (s.dropWarp core slot).routes = s.routes := rfl
@[simp] theorem State.dropWarp_tilicOut (s : State) (core slot : Nat) : (s.dropWarp core slot).tilicOut = s.tilicOut := rfl
@[simp] theorem State.dropWarp_peerReqs (s : State) (core slot : Nat) : (s.dropWarp core slot).peerReqs = s.peerReqs := rfl
@[simp] theorem State.dropWarp_routers (s : State) (core slot : Nat) : (s.dropWarp core slot).routers = s.routers := rfl
@[simp] theorem State.dropWarp_crossed (s : State) (core slot : Nat) : (s.dropWarp core slot).crossed = s.crossed := rfl
@[simp] theorem State.dropWarp_ctxs (s : State) (core slot : Nat) : (s.dropWarp core slot).ctxs = s.ctxs := rfl
@[simp] theorem State.dropWarp_parts (s : State) (core slot : Nat) : (s.dropWarp core slot).parts = s.parts := rfl
@[simp] theorem State.dropWarp_ports (s : State) (core slot : Nat) : (s.dropWarp core slot).ports = s.ports := rfl
@[simp] theorem State.dropWarp_slots (s : State) (core slot : Nat) : (s.dropWarp core slot).slots = s.slots := rfl
@[simp] theorem State.dropWarp_sems (s : State) (core slot : Nat) : (s.dropWarp core slot).sems = s.sems := rfl
@[simp] theorem State.dropWarp_lastRead (s : State) (core slot : Nat) : (s.dropWarp core slot).lastRead = s.lastRead := rfl
@[simp] theorem State.dropWarp_args (s : State) (core slot : Nat) : (s.dropWarp core slot).args = s.args := rfl
@[simp] theorem State.dropWarp_cmd (s : State) (core slot : Nat) : (s.dropWarp core slot).cmd = s.cmd := rfl
@[simp] theorem State.dropWarp_cstErr (s : State) (core slot : Nat) : (s.dropWarp core slot).cstErr = s.cstErr := rfl
@[simp] theorem State.dropWarp_cstRes (s : State) (core slot : Nat) : (s.dropWarp core slot).cstRes = s.cstRes := rfl
@[simp] theorem State.dropWarp_cstSer (s : State) (core slot : Nat) : (s.dropWarp core slot).cstSer = s.cstSer := rfl
@[simp] theorem State.dropWarp_semErr (s : State) (core slot : Nat) : (s.dropWarp core slot).semErr = s.semErr := rfl
@[simp] theorem State.dropWarp_cfgErr (s : State) (core slot : Nat) : (s.dropWarp core slot).cfgErr = s.cfgErr := rfl
@[simp] theorem State.dropWarp_slotErr (s : State) (core slot : Nat) : (s.dropWarp core slot).slotErr = s.slotErr := rfl
@[simp] theorem State.dropWarp_otsRem (s : State) (core slot : Nat) : (s.dropWarp core slot).otsRem = s.otsRem := rfl
@[simp] theorem State.dropWarp_rootHash (s : State) (core slot : Nat) : (s.dropWarp core slot).rootHash = s.rootHash := rfl
@[simp] theorem State.dropWarp_idHash (s : State) (core slot : Nat) : (s.dropWarp core slot).idHash = s.idHash := rfl
@[simp] theorem State.dropWarp_fuseVer (s : State) (core slot : Nat) : (s.dropWarp core slot).fuseVer = s.fuseVer := rfl
@[simp] theorem State.dropWarp_step (s : State) (core slot : Nat) : (s.dropWarp core slot).step = s.step := rfl
@[simp] theorem State.dropWarp_stt (s : State) (core slot : Nat) : (s.dropWarp core slot).stt = s.stt := rfl
@[simp] theorem State.dropWarp_startRec (s : State) (core slot : Nat) : (s.dropWarp core slot).startRec = s.startRec := rfl
@[simp] theorem State.dropWarp_downPorts (s : State) (core slot : Nat) : (s.dropWarp core slot).downPorts = s.downPorts := rfl
@[simp] theorem State.dropWarp_marked (s : State) (core slot : Nat) : (s.dropWarp core slot).marked = s.marked := rfl
@[simp] theorem State.dropWarp_failedCores (s : State) (core slot : Nat) : (s.dropWarp core slot).failedCores = s.failedCores := rfl
@[simp] theorem State.dropWarp_env (s : State) (core slot : Nat) : (s.dropWarp core slot).env = s.env := rfl
@[simp] theorem State.dropWarp_envAct (s : State) (core slot : Nat) : (s.dropWarp core slot).envAct = s.envAct := rfl
@[simp] theorem State.dropWarp_envTarget (s : State) (core slot : Nat) : (s.dropWarp core slot).envTarget = s.envTarget := rfl
@[simp] theorem State.dropWarp_envSeen (s : State) (core slot : Nat) : (s.dropWarp core slot).envSeen = s.envSeen := rfl
@[simp] theorem State.dropWarp_retPol (s : State) (core slot : Nat) : (s.dropWarp core slot).retPol = s.retPol := rfl
@[simp] theorem State.dropWarp_refr (s : State) (core slot : Nat) : (s.dropWarp core slot).refr = s.refr := rfl
@[simp] theorem State.dropWarp_hot (s : State) (core slot : Nat) : (s.dropWarp core slot).hot = s.hot := rfl
@[simp] theorem State.dropWarp_cnt (s : State) (core slot : Nat) : (s.dropWarp core slot).cnt = s.cnt := rfl
@[simp] theorem State.dropWarp_thr (s : State) (core slot : Nat) : (s.dropWarp core slot).thr = s.thr := rfl
@[simp] theorem State.dropWarp_rowLim (s : State) (core slot : Nat) : (s.dropWarp core slot).rowLim = s.rowLim := rfl
@[simp] theorem State.dropWarp_rowTab (s : State) (core slot : Nat) : (s.dropWarp core slot).rowTab = s.rowTab := rfl
@[simp] theorem State.dropWarp_rowCopies (s : State) (core slot : Nat) : (s.dropWarp core slot).rowCopies = s.rowCopies := rfl
@[simp] theorem State.dropWarp_rowSpares (s : State) (core slot : Nat) : (s.dropWarp core slot).rowSpares = s.rowSpares := rfl
@[simp] theorem State.dropWarp_remapped (s : State) (core slot : Nat) : (s.dropWarp core slot).remapped = s.remapped := rfl
@[simp] theorem State.dropWarp_badBanks (s : State) (core slot : Nat) : (s.dropWarp core slot).badBanks = s.badBanks := rfl
@[simp] theorem State.dropWarp_bankSpares (s : State) (core slot : Nat) : (s.dropWarp core slot).bankSpares = s.bankSpares := rfl
@[simp] theorem State.dropWarp_tel (s : State) (core slot : Nat) : (s.dropWarp core slot).tel = s.tel := rfl

@[simp] theorem State.modWg_cur (s : State) (id : Nat) (f : Wg → Wg) : (s.modWg id f).cur = s.cur := rfl
@[simp] theorem State.modWg_ev (s : State) (id : Nat) (f : Wg → Wg) : (s.modWg id f).ev = s.ev := rfl
@[simp] theorem State.modWg_agenda (s : State) (id : Nat) (f : Wg → Wg) : (s.modWg id f).agenda = s.agenda := rfl
@[simp] theorem State.modWg_free (s : State) (id : Nat) (f : Wg → Wg) : (s.modWg id f).free = s.free := rfl
@[simp] theorem State.modWg_nextId (s : State) (id : Nat) (f : Wg → Wg) : (s.modWg id f).nextId = s.nextId := rfl
@[simp] theorem State.modWg_single (s : State) (id : Nat) (f : Wg → Wg) : (s.modWg id f).single = s.single := rfl
@[simp] theorem State.modWg_clk (s : State) (id : Nat) (f : Wg → Wg) : (s.modWg id f).clk = s.clk := rfl
@[simp] theorem State.modWg_time (s : State) (id : Nat) (f : Wg → Wg) : (s.modWg id f).time = s.time := rfl
@[simp] theorem State.modWg_coreMap (s : State) (id : Nat) (f : Wg → Wg) : (s.modWg id f).coreMap = s.coreMap := rfl
@[simp] theorem State.modWg_rank (s : State) (id : Nat) (f : Wg → Wg) : (s.modWg id f).rank = s.rank := rfl
@[simp] theorem State.modWg_ranked (s : State) (id : Nat) (f : Wg → Wg) : (s.modWg id f).ranked = s.ranked := rfl
@[simp] theorem State.modWg_domain (s : State) (id : Nat) (f : Wg → Wg) : (s.modWg id f).domain = s.domain := rfl
@[simp] theorem State.modWg_warps (s : State) (id : Nat) (f : Wg → Wg) : (s.modWg id f).warps = s.warps := rfl
@[simp] theorem State.modWg_evicted (s : State) (id : Nat) (f : Wg → Wg) : (s.modWg id f).evicted = s.evicted := rfl
@[simp] theorem State.modWg_lastSel (s : State) (id : Nat) (f : Wg → Wg) : (s.modWg id f).lastSel = s.lastSel := rfl
@[simp] theorem State.modWg_rrPart (s : State) (id : Nat) (f : Wg → Wg) : (s.modWg id f).rrPart = s.rrPart := rfl
@[simp] theorem State.modWg_scr (s : State) (id : Nat) (f : Wg → Wg) : (s.modWg id f).scr = s.scr := rfl
@[simp] theorem State.modWg_fe (s : State) (id : Nat) (f : Wg → Wg) : (s.modWg id f).fe = s.fe := rfl
@[simp] theorem State.modWg_scrOwner (s : State) (id : Nat) (f : Wg → Wg) : (s.modWg id f).scrOwner = s.scrOwner := rfl
@[simp] theorem State.modWg_tiles (s : State) (id : Nat) (f : Wg → Wg) : (s.modWg id f).tiles = s.tiles := rfl
@[simp] theorem State.modWg_tileOf (s : State) (id : Nat) (f : Wg → Wg) : (s.modWg id f).tileOf = s.tileOf := rfl
@[simp] theorem State.modWg_tileOwner (s : State) (id : Nat) (f : Wg → Wg) : (s.modWg id f).tileOwner = s.tileOwner := rfl
@[simp] theorem State.modWg_banks (s : State) (id : Nat) (f : Wg → Wg) : (s.modWg id f).banks = s.banks := rfl
@[simp] theorem State.modWg_bankOf (s : State) (id : Nat) (f : Wg → Wg) : (s.modWg id f).bankOf = s.bankOf := rfl
@[simp] theorem State.modWg_bankOwner (s : State) (id : Nat) (f : Wg → Wg) : (s.modWg id f).bankOwner = s.bankOwner := rfl
@[simp] theorem State.modWg_l1 (s : State) (id : Nat) (f : Wg → Wg) : (s.modWg id f).l1 = s.l1 := rfl
@[simp] theorem State.modWg_ret (s : State) (id : Nat) (f : Wg → Wg) : (s.modWg id f).ret = s.ret := rfl
@[simp] theorem State.modWg_segAccess (s : State) (id : Nat) (f : Wg → Wg) : (s.modWg id f).segAccess = s.segAccess := rfl
@[simp] theorem State.modWg_launches (s : State) (id : Nat) (f : Wg → Wg) : (s.modWg id f).launches = s.launches := rfl
@[simp] theorem State.modWg_cgs (s : State) (id : Nat) (f : Wg → Wg) : (s.modWg id f).cgs = s.cgs := rfl
@[simp] theorem State.modWg_wgs (s : State) (id : Nat) (f : Wg → Wg) : (s.modWg id f).wgs = updateWhere (·.id == id) f s.wgs := rfl
@[simp] theorem State.modWg_savedWgs (s : State) (id : Nat) (f : Wg → Wg) : (s.modWg id f).savedWgs = s.savedWgs := rfl
@[simp] theorem State.modWg_convoys (s : State) (id : Nat) (f : Wg → Wg) : (s.modWg id f).convoys = s.convoys := rfl
@[simp] theorem State.modWg_reserved (s : State) (id : Nat) (f : Wg → Wg) : (s.modWg id f).reserved = s.reserved := rfl
@[simp] theorem State.modWg_reelQ (s : State) (id : Nat) (f : Wg → Wg) : (s.modWg id f).reelQ = s.reelQ := rfl
@[simp] theorem State.modWg_matQ (s : State) (id : Nat) (f : Wg → Wg) : (s.modWg id f).matQ = s.matQ := rfl
@[simp] theorem State.modWg_cruQ (s : State) (id : Nat) (f : Wg → Wg) : (s.modWg id f).cruQ = s.cruQ := rfl
@[simp] theorem State.modWg_ampQ (s : State) (id : Nat) (f : Wg → Wg) : (s.modWg id f).ampQ = s.ampQ := rfl
@[simp] theorem State.modWg_qfences (s : State) (id : Nat) (f : Wg → Wg) : (s.modWg id f).qfences = s.qfences := rfl
@[simp] theorem State.modWg_seqrs (s : State) (id : Nat) (f : Wg → Wg) : (s.modWg id f).seqrs = s.seqrs := rfl
@[simp] theorem State.modWg_qmaps (s : State) (id : Nat) (f : Wg → Wg) : (s.modWg id f).qmaps = s.qmaps := rfl
@[simp] theorem State.modWg_ampMsgs (s : State) (id : Nat) (f : Wg → Wg) : (s.modWg id f).ampMsgs = s.ampMsgs := rfl
@[simp] theorem State.modWg_ampGrants (s : State) (id : Nat) (f : Wg → Wg) : (s.modWg id f).ampGrants = s.ampGrants := rfl
@[simp] theorem State.modWg_reelOff (s : State) (id : Nat) (f : Wg → Wg) : (s.modWg id f).reelOff = s.reelOff := rfl
@[simp] theorem State.modWg_matOff (s : State) (id : Nat) (f : Wg → Wg) : (s.modWg id f).matOff = s.matOff := rfl
@[simp] theorem State.modWg_ampOff (s : State) (id : Nat) (f : Wg → Wg) : (s.modWg id f).ampOff = s.ampOff := rfl
@[simp] theorem State.modWg_mem (s : State) (id : Nat) (f : Wg → Wg) : (s.modWg id f).mem = s.mem := rfl
@[simp] theorem State.modWg_hostMem (s : State) (id : Nat) (f : Wg → Wg) : (s.modWg id f).hostMem = s.hostMem := rfl
@[simp] theorem State.modWg_peerMem (s : State) (id : Nat) (f : Wg → Wg) : (s.modWg id f).peerMem = s.peerMem := rfl
@[simp] theorem State.modWg_peerPages (s : State) (id : Nat) (f : Wg → Wg) : (s.modWg id f).peerPages = s.peerPages := rfl
@[simp] theorem State.modWg_writes (s : State) (id : Nat) (f : Wg → Wg) : (s.modWg id f).writes = s.writes := rfl
@[simp] theorem State.modWg_reads (s : State) (id : Nat) (f : Wg → Wg) : (s.modWg id f).reads = s.reads := rfl
@[simp] theorem State.modWg_pending (s : State) (id : Nat) (f : Wg → Wg) : (s.modWg id f).pending = s.pending := rfl
@[simp] theorem State.modWg_contribs (s : State) (id : Nat) (f : Wg → Wg) : (s.modWg id f).contribs = s.contribs := rfl
@[simp] theorem State.modWg_seqs (s : State) (id : Nat) (f : Wg → Wg) : (s.modWg id f).seqs = s.seqs := rfl
@[simp] theorem State.modWg_poison (s : State) (id : Nat) (f : Wg → Wg) : (s.modWg id f).poison = s.poison := rfl
@[simp] theorem State.modWg_tcache (s : State) (id : Nat) (f : Wg → Wg) : (s.modWg id f).tcache = s.tcache := rfl
@[simp] theorem State.modWg_migs (s : State) (id : Nat) (f : Wg → Wg) : (s.modWg id f).migs = s.migs := rfl
@[simp] theorem State.modWg_migRetry (s : State) (id : Nat) (f : Wg → Wg) : (s.modWg id f).migRetry = s.migRetry := rfl
@[simp] theorem State.modWg_shoots (s : State) (id : Nat) (f : Wg → Wg) : (s.modWg id f).shoots = s.shoots := rfl
@[simp] theorem State.modWg_fencedRanks (s : State) (id : Nat) (f : Wg → Wg) : (s.modWg id f).fencedRanks = s.fencedRanks := rfl
@[simp] theorem State.modWg_msgs (s : State) (id : Nat) (f : Wg → Wg) : (s.modWg id f).msgs = s.msgs := rfl
@[simp] theorem State.modWg_sends (s : State) (id : Nat) (f : Wg → Wg) : (s.modWg id f).sends = s.sends := rfl
@[simp] theorem State.modWg_usedHandles (s : State) (id : Nat) (f : Wg → Wg) : (s.modWg id f).usedHandles = s.usedHandles := rfl
@[simp] theorem State.modWg_pkts (s : State) (id : Nat) (f : Wg → Wg) : (s.modWg id f).pkts = s.pkts := rfl
@[simp] theorem State.modWg_replies (s : State) (id : Nat) (f : Wg → Wg) : (s.modWg id f).replies = s.replies := rfl
@[simp] theorem State.modWg_genUpds (s : State) (id : Nat) (f : Wg → Wg) : (s.modWg id f).genUpds = s.genUpds := rfl
@[simp] theorem State.modWg_genTab (s : State) (id : Nat) (f : Wg → Wg) : (s.modWg id f).genTab = s.genTab := rfl
@[simp] theorem State.modWg_colls (s : State) (id : Nat) (f : Wg → Wg) : (s.modWg id f).colls = s.colls := rfl
@[simp] theorem State.modWg_doneTickets (s : State) (id : Nat) (f : Wg → Wg) : (s.modWg id f).doneTickets = s.doneTickets := rfl
@[simp] theorem State.modWg_collEarly (s : State) (id : Nat) (f : Wg → Wg) : (s.modWg id f).collEarly = s.collEarly := rfl
@[simp] theorem State.modWg_collBad (s : State) (id : Nat) (f : Wg → Wg) : (s.modWg id f).collBad = s.collBad := rfl
@[simp] theorem State.modWg_winches (s : State) (id : Nat) (f : Wg → Wg) : (s.modWg id f).winches = s.winches := rfl
@[simp] theorem State.modWg_spares (s : State) (id : Nat) (f : Wg → Wg) : (s.modWg id f).spares = s.spares := rfl
@[simp] theorem State.modWg_tports (s : State) (id : Nat) (f : Wg → Wg) : (s.modWg id f).tports = s.tports := rfl
@[simp] theorem State.modWg_routes (s : State) (id : Nat) (f : Wg → Wg) : (s.modWg id f).routes = s.routes := rfl
@[simp] theorem State.modWg_tilicOut (s : State) (id : Nat) (f : Wg → Wg) : (s.modWg id f).tilicOut = s.tilicOut := rfl
@[simp] theorem State.modWg_peerReqs (s : State) (id : Nat) (f : Wg → Wg) : (s.modWg id f).peerReqs = s.peerReqs := rfl
@[simp] theorem State.modWg_routers (s : State) (id : Nat) (f : Wg → Wg) : (s.modWg id f).routers = s.routers := rfl
@[simp] theorem State.modWg_crossed (s : State) (id : Nat) (f : Wg → Wg) : (s.modWg id f).crossed = s.crossed := rfl
@[simp] theorem State.modWg_ctxs (s : State) (id : Nat) (f : Wg → Wg) : (s.modWg id f).ctxs = s.ctxs := rfl
@[simp] theorem State.modWg_parts (s : State) (id : Nat) (f : Wg → Wg) : (s.modWg id f).parts = s.parts := rfl
@[simp] theorem State.modWg_ports (s : State) (id : Nat) (f : Wg → Wg) : (s.modWg id f).ports = s.ports := rfl
@[simp] theorem State.modWg_slots (s : State) (id : Nat) (f : Wg → Wg) : (s.modWg id f).slots = s.slots := rfl
@[simp] theorem State.modWg_sems (s : State) (id : Nat) (f : Wg → Wg) : (s.modWg id f).sems = s.sems := rfl
@[simp] theorem State.modWg_lastRead (s : State) (id : Nat) (f : Wg → Wg) : (s.modWg id f).lastRead = s.lastRead := rfl
@[simp] theorem State.modWg_args (s : State) (id : Nat) (f : Wg → Wg) : (s.modWg id f).args = s.args := rfl
@[simp] theorem State.modWg_cmd (s : State) (id : Nat) (f : Wg → Wg) : (s.modWg id f).cmd = s.cmd := rfl
@[simp] theorem State.modWg_cstErr (s : State) (id : Nat) (f : Wg → Wg) : (s.modWg id f).cstErr = s.cstErr := rfl
@[simp] theorem State.modWg_cstRes (s : State) (id : Nat) (f : Wg → Wg) : (s.modWg id f).cstRes = s.cstRes := rfl
@[simp] theorem State.modWg_cstSer (s : State) (id : Nat) (f : Wg → Wg) : (s.modWg id f).cstSer = s.cstSer := rfl
@[simp] theorem State.modWg_semErr (s : State) (id : Nat) (f : Wg → Wg) : (s.modWg id f).semErr = s.semErr := rfl
@[simp] theorem State.modWg_cfgErr (s : State) (id : Nat) (f : Wg → Wg) : (s.modWg id f).cfgErr = s.cfgErr := rfl
@[simp] theorem State.modWg_slotErr (s : State) (id : Nat) (f : Wg → Wg) : (s.modWg id f).slotErr = s.slotErr := rfl
@[simp] theorem State.modWg_otsRem (s : State) (id : Nat) (f : Wg → Wg) : (s.modWg id f).otsRem = s.otsRem := rfl
@[simp] theorem State.modWg_rootHash (s : State) (id : Nat) (f : Wg → Wg) : (s.modWg id f).rootHash = s.rootHash := rfl
@[simp] theorem State.modWg_idHash (s : State) (id : Nat) (f : Wg → Wg) : (s.modWg id f).idHash = s.idHash := rfl
@[simp] theorem State.modWg_fuseVer (s : State) (id : Nat) (f : Wg → Wg) : (s.modWg id f).fuseVer = s.fuseVer := rfl
@[simp] theorem State.modWg_step (s : State) (id : Nat) (f : Wg → Wg) : (s.modWg id f).step = s.step := rfl
@[simp] theorem State.modWg_stt (s : State) (id : Nat) (f : Wg → Wg) : (s.modWg id f).stt = s.stt := rfl
@[simp] theorem State.modWg_startRec (s : State) (id : Nat) (f : Wg → Wg) : (s.modWg id f).startRec = s.startRec := rfl
@[simp] theorem State.modWg_downPorts (s : State) (id : Nat) (f : Wg → Wg) : (s.modWg id f).downPorts = s.downPorts := rfl
@[simp] theorem State.modWg_marked (s : State) (id : Nat) (f : Wg → Wg) : (s.modWg id f).marked = s.marked := rfl
@[simp] theorem State.modWg_failedCores (s : State) (id : Nat) (f : Wg → Wg) : (s.modWg id f).failedCores = s.failedCores := rfl
@[simp] theorem State.modWg_env (s : State) (id : Nat) (f : Wg → Wg) : (s.modWg id f).env = s.env := rfl
@[simp] theorem State.modWg_envAct (s : State) (id : Nat) (f : Wg → Wg) : (s.modWg id f).envAct = s.envAct := rfl
@[simp] theorem State.modWg_envTarget (s : State) (id : Nat) (f : Wg → Wg) : (s.modWg id f).envTarget = s.envTarget := rfl
@[simp] theorem State.modWg_envSeen (s : State) (id : Nat) (f : Wg → Wg) : (s.modWg id f).envSeen = s.envSeen := rfl
@[simp] theorem State.modWg_retPol (s : State) (id : Nat) (f : Wg → Wg) : (s.modWg id f).retPol = s.retPol := rfl
@[simp] theorem State.modWg_refr (s : State) (id : Nat) (f : Wg → Wg) : (s.modWg id f).refr = s.refr := rfl
@[simp] theorem State.modWg_hot (s : State) (id : Nat) (f : Wg → Wg) : (s.modWg id f).hot = s.hot := rfl
@[simp] theorem State.modWg_cnt (s : State) (id : Nat) (f : Wg → Wg) : (s.modWg id f).cnt = s.cnt := rfl
@[simp] theorem State.modWg_thr (s : State) (id : Nat) (f : Wg → Wg) : (s.modWg id f).thr = s.thr := rfl
@[simp] theorem State.modWg_rowLim (s : State) (id : Nat) (f : Wg → Wg) : (s.modWg id f).rowLim = s.rowLim := rfl
@[simp] theorem State.modWg_rowTab (s : State) (id : Nat) (f : Wg → Wg) : (s.modWg id f).rowTab = s.rowTab := rfl
@[simp] theorem State.modWg_rowCopies (s : State) (id : Nat) (f : Wg → Wg) : (s.modWg id f).rowCopies = s.rowCopies := rfl
@[simp] theorem State.modWg_rowSpares (s : State) (id : Nat) (f : Wg → Wg) : (s.modWg id f).rowSpares = s.rowSpares := rfl
@[simp] theorem State.modWg_remapped (s : State) (id : Nat) (f : Wg → Wg) : (s.modWg id f).remapped = s.remapped := rfl
@[simp] theorem State.modWg_badBanks (s : State) (id : Nat) (f : Wg → Wg) : (s.modWg id f).badBanks = s.badBanks := rfl
@[simp] theorem State.modWg_bankSpares (s : State) (id : Nat) (f : Wg → Wg) : (s.modWg id f).bankSpares = s.bankSpares := rfl
@[simp] theorem State.modWg_tel (s : State) (id : Nat) (f : Wg → Wg) : (s.modWg id f).tel = s.tel := rfl

@[simp] theorem State.modCtx_cur (s : State) (key : Nat) (f : Ctx → Ctx) : (s.modCtx key f).cur = s.cur := rfl
@[simp] theorem State.modCtx_ev (s : State) (key : Nat) (f : Ctx → Ctx) : (s.modCtx key f).ev = s.ev := rfl
@[simp] theorem State.modCtx_agenda (s : State) (key : Nat) (f : Ctx → Ctx) : (s.modCtx key f).agenda = s.agenda := rfl
@[simp] theorem State.modCtx_free (s : State) (key : Nat) (f : Ctx → Ctx) : (s.modCtx key f).free = s.free := rfl
@[simp] theorem State.modCtx_nextId (s : State) (key : Nat) (f : Ctx → Ctx) : (s.modCtx key f).nextId = s.nextId := rfl
@[simp] theorem State.modCtx_single (s : State) (key : Nat) (f : Ctx → Ctx) : (s.modCtx key f).single = s.single := rfl
@[simp] theorem State.modCtx_clk (s : State) (key : Nat) (f : Ctx → Ctx) : (s.modCtx key f).clk = s.clk := rfl
@[simp] theorem State.modCtx_time (s : State) (key : Nat) (f : Ctx → Ctx) : (s.modCtx key f).time = s.time := rfl
@[simp] theorem State.modCtx_coreMap (s : State) (key : Nat) (f : Ctx → Ctx) : (s.modCtx key f).coreMap = s.coreMap := rfl
@[simp] theorem State.modCtx_rank (s : State) (key : Nat) (f : Ctx → Ctx) : (s.modCtx key f).rank = s.rank := rfl
@[simp] theorem State.modCtx_ranked (s : State) (key : Nat) (f : Ctx → Ctx) : (s.modCtx key f).ranked = s.ranked := rfl
@[simp] theorem State.modCtx_domain (s : State) (key : Nat) (f : Ctx → Ctx) : (s.modCtx key f).domain = s.domain := rfl
@[simp] theorem State.modCtx_warps (s : State) (key : Nat) (f : Ctx → Ctx) : (s.modCtx key f).warps = s.warps := rfl
@[simp] theorem State.modCtx_evicted (s : State) (key : Nat) (f : Ctx → Ctx) : (s.modCtx key f).evicted = s.evicted := rfl
@[simp] theorem State.modCtx_lastSel (s : State) (key : Nat) (f : Ctx → Ctx) : (s.modCtx key f).lastSel = s.lastSel := rfl
@[simp] theorem State.modCtx_rrPart (s : State) (key : Nat) (f : Ctx → Ctx) : (s.modCtx key f).rrPart = s.rrPart := rfl
@[simp] theorem State.modCtx_scr (s : State) (key : Nat) (f : Ctx → Ctx) : (s.modCtx key f).scr = s.scr := rfl
@[simp] theorem State.modCtx_fe (s : State) (key : Nat) (f : Ctx → Ctx) : (s.modCtx key f).fe = s.fe := rfl
@[simp] theorem State.modCtx_scrOwner (s : State) (key : Nat) (f : Ctx → Ctx) : (s.modCtx key f).scrOwner = s.scrOwner := rfl
@[simp] theorem State.modCtx_tiles (s : State) (key : Nat) (f : Ctx → Ctx) : (s.modCtx key f).tiles = s.tiles := rfl
@[simp] theorem State.modCtx_tileOf (s : State) (key : Nat) (f : Ctx → Ctx) : (s.modCtx key f).tileOf = s.tileOf := rfl
@[simp] theorem State.modCtx_tileOwner (s : State) (key : Nat) (f : Ctx → Ctx) : (s.modCtx key f).tileOwner = s.tileOwner := rfl
@[simp] theorem State.modCtx_banks (s : State) (key : Nat) (f : Ctx → Ctx) : (s.modCtx key f).banks = s.banks := rfl
@[simp] theorem State.modCtx_bankOf (s : State) (key : Nat) (f : Ctx → Ctx) : (s.modCtx key f).bankOf = s.bankOf := rfl
@[simp] theorem State.modCtx_bankOwner (s : State) (key : Nat) (f : Ctx → Ctx) : (s.modCtx key f).bankOwner = s.bankOwner := rfl
@[simp] theorem State.modCtx_l1 (s : State) (key : Nat) (f : Ctx → Ctx) : (s.modCtx key f).l1 = s.l1 := rfl
@[simp] theorem State.modCtx_ret (s : State) (key : Nat) (f : Ctx → Ctx) : (s.modCtx key f).ret = s.ret := rfl
@[simp] theorem State.modCtx_segAccess (s : State) (key : Nat) (f : Ctx → Ctx) : (s.modCtx key f).segAccess = s.segAccess := rfl
@[simp] theorem State.modCtx_launches (s : State) (key : Nat) (f : Ctx → Ctx) : (s.modCtx key f).launches = s.launches := rfl
@[simp] theorem State.modCtx_cgs (s : State) (key : Nat) (f : Ctx → Ctx) : (s.modCtx key f).cgs = s.cgs := rfl
@[simp] theorem State.modCtx_wgs (s : State) (key : Nat) (f : Ctx → Ctx) : (s.modCtx key f).wgs = s.wgs := rfl
@[simp] theorem State.modCtx_savedWgs (s : State) (key : Nat) (f : Ctx → Ctx) : (s.modCtx key f).savedWgs = s.savedWgs := rfl
@[simp] theorem State.modCtx_convoys (s : State) (key : Nat) (f : Ctx → Ctx) : (s.modCtx key f).convoys = s.convoys := rfl
@[simp] theorem State.modCtx_reserved (s : State) (key : Nat) (f : Ctx → Ctx) : (s.modCtx key f).reserved = s.reserved := rfl
@[simp] theorem State.modCtx_reelQ (s : State) (key : Nat) (f : Ctx → Ctx) : (s.modCtx key f).reelQ = s.reelQ := rfl
@[simp] theorem State.modCtx_matQ (s : State) (key : Nat) (f : Ctx → Ctx) : (s.modCtx key f).matQ = s.matQ := rfl
@[simp] theorem State.modCtx_cruQ (s : State) (key : Nat) (f : Ctx → Ctx) : (s.modCtx key f).cruQ = s.cruQ := rfl
@[simp] theorem State.modCtx_ampQ (s : State) (key : Nat) (f : Ctx → Ctx) : (s.modCtx key f).ampQ = s.ampQ := rfl
@[simp] theorem State.modCtx_qfences (s : State) (key : Nat) (f : Ctx → Ctx) : (s.modCtx key f).qfences = s.qfences := rfl
@[simp] theorem State.modCtx_seqrs (s : State) (key : Nat) (f : Ctx → Ctx) : (s.modCtx key f).seqrs = s.seqrs := rfl
@[simp] theorem State.modCtx_qmaps (s : State) (key : Nat) (f : Ctx → Ctx) : (s.modCtx key f).qmaps = s.qmaps := rfl
@[simp] theorem State.modCtx_ampMsgs (s : State) (key : Nat) (f : Ctx → Ctx) : (s.modCtx key f).ampMsgs = s.ampMsgs := rfl
@[simp] theorem State.modCtx_ampGrants (s : State) (key : Nat) (f : Ctx → Ctx) : (s.modCtx key f).ampGrants = s.ampGrants := rfl
@[simp] theorem State.modCtx_reelOff (s : State) (key : Nat) (f : Ctx → Ctx) : (s.modCtx key f).reelOff = s.reelOff := rfl
@[simp] theorem State.modCtx_matOff (s : State) (key : Nat) (f : Ctx → Ctx) : (s.modCtx key f).matOff = s.matOff := rfl
@[simp] theorem State.modCtx_ampOff (s : State) (key : Nat) (f : Ctx → Ctx) : (s.modCtx key f).ampOff = s.ampOff := rfl
@[simp] theorem State.modCtx_mem (s : State) (key : Nat) (f : Ctx → Ctx) : (s.modCtx key f).mem = s.mem := rfl
@[simp] theorem State.modCtx_hostMem (s : State) (key : Nat) (f : Ctx → Ctx) : (s.modCtx key f).hostMem = s.hostMem := rfl
@[simp] theorem State.modCtx_peerMem (s : State) (key : Nat) (f : Ctx → Ctx) : (s.modCtx key f).peerMem = s.peerMem := rfl
@[simp] theorem State.modCtx_peerPages (s : State) (key : Nat) (f : Ctx → Ctx) : (s.modCtx key f).peerPages = s.peerPages := rfl
@[simp] theorem State.modCtx_writes (s : State) (key : Nat) (f : Ctx → Ctx) : (s.modCtx key f).writes = s.writes := rfl
@[simp] theorem State.modCtx_reads (s : State) (key : Nat) (f : Ctx → Ctx) : (s.modCtx key f).reads = s.reads := rfl
@[simp] theorem State.modCtx_pending (s : State) (key : Nat) (f : Ctx → Ctx) : (s.modCtx key f).pending = s.pending := rfl
@[simp] theorem State.modCtx_contribs (s : State) (key : Nat) (f : Ctx → Ctx) : (s.modCtx key f).contribs = s.contribs := rfl
@[simp] theorem State.modCtx_seqs (s : State) (key : Nat) (f : Ctx → Ctx) : (s.modCtx key f).seqs = s.seqs := rfl
@[simp] theorem State.modCtx_poison (s : State) (key : Nat) (f : Ctx → Ctx) : (s.modCtx key f).poison = s.poison := rfl
@[simp] theorem State.modCtx_tcache (s : State) (key : Nat) (f : Ctx → Ctx) : (s.modCtx key f).tcache = s.tcache := rfl
@[simp] theorem State.modCtx_migs (s : State) (key : Nat) (f : Ctx → Ctx) : (s.modCtx key f).migs = s.migs := rfl
@[simp] theorem State.modCtx_migRetry (s : State) (key : Nat) (f : Ctx → Ctx) : (s.modCtx key f).migRetry = s.migRetry := rfl
@[simp] theorem State.modCtx_shoots (s : State) (key : Nat) (f : Ctx → Ctx) : (s.modCtx key f).shoots = s.shoots := rfl
@[simp] theorem State.modCtx_fencedRanks (s : State) (key : Nat) (f : Ctx → Ctx) : (s.modCtx key f).fencedRanks = s.fencedRanks := rfl
@[simp] theorem State.modCtx_msgs (s : State) (key : Nat) (f : Ctx → Ctx) : (s.modCtx key f).msgs = s.msgs := rfl
@[simp] theorem State.modCtx_sends (s : State) (key : Nat) (f : Ctx → Ctx) : (s.modCtx key f).sends = s.sends := rfl
@[simp] theorem State.modCtx_usedHandles (s : State) (key : Nat) (f : Ctx → Ctx) : (s.modCtx key f).usedHandles = s.usedHandles := rfl
@[simp] theorem State.modCtx_pkts (s : State) (key : Nat) (f : Ctx → Ctx) : (s.modCtx key f).pkts = s.pkts := rfl
@[simp] theorem State.modCtx_replies (s : State) (key : Nat) (f : Ctx → Ctx) : (s.modCtx key f).replies = s.replies := rfl
@[simp] theorem State.modCtx_genUpds (s : State) (key : Nat) (f : Ctx → Ctx) : (s.modCtx key f).genUpds = s.genUpds := rfl
@[simp] theorem State.modCtx_genTab (s : State) (key : Nat) (f : Ctx → Ctx) : (s.modCtx key f).genTab = s.genTab := rfl
@[simp] theorem State.modCtx_colls (s : State) (key : Nat) (f : Ctx → Ctx) : (s.modCtx key f).colls = s.colls := rfl
@[simp] theorem State.modCtx_doneTickets (s : State) (key : Nat) (f : Ctx → Ctx) : (s.modCtx key f).doneTickets = s.doneTickets := rfl
@[simp] theorem State.modCtx_collEarly (s : State) (key : Nat) (f : Ctx → Ctx) : (s.modCtx key f).collEarly = s.collEarly := rfl
@[simp] theorem State.modCtx_collBad (s : State) (key : Nat) (f : Ctx → Ctx) : (s.modCtx key f).collBad = s.collBad := rfl
@[simp] theorem State.modCtx_winches (s : State) (key : Nat) (f : Ctx → Ctx) : (s.modCtx key f).winches = s.winches := rfl
@[simp] theorem State.modCtx_spares (s : State) (key : Nat) (f : Ctx → Ctx) : (s.modCtx key f).spares = s.spares := rfl
@[simp] theorem State.modCtx_tports (s : State) (key : Nat) (f : Ctx → Ctx) : (s.modCtx key f).tports = s.tports := rfl
@[simp] theorem State.modCtx_routes (s : State) (key : Nat) (f : Ctx → Ctx) : (s.modCtx key f).routes = s.routes := rfl
@[simp] theorem State.modCtx_tilicOut (s : State) (key : Nat) (f : Ctx → Ctx) : (s.modCtx key f).tilicOut = s.tilicOut := rfl
@[simp] theorem State.modCtx_peerReqs (s : State) (key : Nat) (f : Ctx → Ctx) : (s.modCtx key f).peerReqs = s.peerReqs := rfl
@[simp] theorem State.modCtx_routers (s : State) (key : Nat) (f : Ctx → Ctx) : (s.modCtx key f).routers = s.routers := rfl
@[simp] theorem State.modCtx_crossed (s : State) (key : Nat) (f : Ctx → Ctx) : (s.modCtx key f).crossed = s.crossed := rfl
@[simp] theorem State.modCtx_ctxs (s : State) (key : Nat) (f : Ctx → Ctx) : (s.modCtx key f).ctxs = updateWhere (·.key == key) f s.ctxs := rfl
@[simp] theorem State.modCtx_parts (s : State) (key : Nat) (f : Ctx → Ctx) : (s.modCtx key f).parts = s.parts := rfl
@[simp] theorem State.modCtx_ports (s : State) (key : Nat) (f : Ctx → Ctx) : (s.modCtx key f).ports = s.ports := rfl
@[simp] theorem State.modCtx_slots (s : State) (key : Nat) (f : Ctx → Ctx) : (s.modCtx key f).slots = s.slots := rfl
@[simp] theorem State.modCtx_sems (s : State) (key : Nat) (f : Ctx → Ctx) : (s.modCtx key f).sems = s.sems := rfl
@[simp] theorem State.modCtx_lastRead (s : State) (key : Nat) (f : Ctx → Ctx) : (s.modCtx key f).lastRead = s.lastRead := rfl
@[simp] theorem State.modCtx_args (s : State) (key : Nat) (f : Ctx → Ctx) : (s.modCtx key f).args = s.args := rfl
@[simp] theorem State.modCtx_cmd (s : State) (key : Nat) (f : Ctx → Ctx) : (s.modCtx key f).cmd = s.cmd := rfl
@[simp] theorem State.modCtx_cstErr (s : State) (key : Nat) (f : Ctx → Ctx) : (s.modCtx key f).cstErr = s.cstErr := rfl
@[simp] theorem State.modCtx_cstRes (s : State) (key : Nat) (f : Ctx → Ctx) : (s.modCtx key f).cstRes = s.cstRes := rfl
@[simp] theorem State.modCtx_cstSer (s : State) (key : Nat) (f : Ctx → Ctx) : (s.modCtx key f).cstSer = s.cstSer := rfl
@[simp] theorem State.modCtx_semErr (s : State) (key : Nat) (f : Ctx → Ctx) : (s.modCtx key f).semErr = s.semErr := rfl
@[simp] theorem State.modCtx_cfgErr (s : State) (key : Nat) (f : Ctx → Ctx) : (s.modCtx key f).cfgErr = s.cfgErr := rfl
@[simp] theorem State.modCtx_slotErr (s : State) (key : Nat) (f : Ctx → Ctx) : (s.modCtx key f).slotErr = s.slotErr := rfl
@[simp] theorem State.modCtx_otsRem (s : State) (key : Nat) (f : Ctx → Ctx) : (s.modCtx key f).otsRem = s.otsRem := rfl
@[simp] theorem State.modCtx_rootHash (s : State) (key : Nat) (f : Ctx → Ctx) : (s.modCtx key f).rootHash = s.rootHash := rfl
@[simp] theorem State.modCtx_idHash (s : State) (key : Nat) (f : Ctx → Ctx) : (s.modCtx key f).idHash = s.idHash := rfl
@[simp] theorem State.modCtx_fuseVer (s : State) (key : Nat) (f : Ctx → Ctx) : (s.modCtx key f).fuseVer = s.fuseVer := rfl
@[simp] theorem State.modCtx_step (s : State) (key : Nat) (f : Ctx → Ctx) : (s.modCtx key f).step = s.step := rfl
@[simp] theorem State.modCtx_stt (s : State) (key : Nat) (f : Ctx → Ctx) : (s.modCtx key f).stt = s.stt := rfl
@[simp] theorem State.modCtx_startRec (s : State) (key : Nat) (f : Ctx → Ctx) : (s.modCtx key f).startRec = s.startRec := rfl
@[simp] theorem State.modCtx_downPorts (s : State) (key : Nat) (f : Ctx → Ctx) : (s.modCtx key f).downPorts = s.downPorts := rfl
@[simp] theorem State.modCtx_marked (s : State) (key : Nat) (f : Ctx → Ctx) : (s.modCtx key f).marked = s.marked := rfl
@[simp] theorem State.modCtx_failedCores (s : State) (key : Nat) (f : Ctx → Ctx) : (s.modCtx key f).failedCores = s.failedCores := rfl
@[simp] theorem State.modCtx_env (s : State) (key : Nat) (f : Ctx → Ctx) : (s.modCtx key f).env = s.env := rfl
@[simp] theorem State.modCtx_envAct (s : State) (key : Nat) (f : Ctx → Ctx) : (s.modCtx key f).envAct = s.envAct := rfl
@[simp] theorem State.modCtx_envTarget (s : State) (key : Nat) (f : Ctx → Ctx) : (s.modCtx key f).envTarget = s.envTarget := rfl
@[simp] theorem State.modCtx_envSeen (s : State) (key : Nat) (f : Ctx → Ctx) : (s.modCtx key f).envSeen = s.envSeen := rfl
@[simp] theorem State.modCtx_retPol (s : State) (key : Nat) (f : Ctx → Ctx) : (s.modCtx key f).retPol = s.retPol := rfl
@[simp] theorem State.modCtx_refr (s : State) (key : Nat) (f : Ctx → Ctx) : (s.modCtx key f).refr = s.refr := rfl
@[simp] theorem State.modCtx_hot (s : State) (key : Nat) (f : Ctx → Ctx) : (s.modCtx key f).hot = s.hot := rfl
@[simp] theorem State.modCtx_cnt (s : State) (key : Nat) (f : Ctx → Ctx) : (s.modCtx key f).cnt = s.cnt := rfl
@[simp] theorem State.modCtx_thr (s : State) (key : Nat) (f : Ctx → Ctx) : (s.modCtx key f).thr = s.thr := rfl
@[simp] theorem State.modCtx_rowLim (s : State) (key : Nat) (f : Ctx → Ctx) : (s.modCtx key f).rowLim = s.rowLim := rfl
@[simp] theorem State.modCtx_rowTab (s : State) (key : Nat) (f : Ctx → Ctx) : (s.modCtx key f).rowTab = s.rowTab := rfl
@[simp] theorem State.modCtx_rowCopies (s : State) (key : Nat) (f : Ctx → Ctx) : (s.modCtx key f).rowCopies = s.rowCopies := rfl
@[simp] theorem State.modCtx_rowSpares (s : State) (key : Nat) (f : Ctx → Ctx) : (s.modCtx key f).rowSpares = s.rowSpares := rfl
@[simp] theorem State.modCtx_remapped (s : State) (key : Nat) (f : Ctx → Ctx) : (s.modCtx key f).remapped = s.remapped := rfl
@[simp] theorem State.modCtx_badBanks (s : State) (key : Nat) (f : Ctx → Ctx) : (s.modCtx key f).badBanks = s.badBanks := rfl
@[simp] theorem State.modCtx_bankSpares (s : State) (key : Nat) (f : Ctx → Ctx) : (s.modCtx key f).bankSpares = s.bankSpares := rfl
@[simp] theorem State.modCtx_tel (s : State) (key : Nat) (f : Ctx → Ctx) : (s.modCtx key f).tel = s.tel := rfl

@[simp] theorem State.modPart_cur (s : State) (n : Nat) (f : Part → Part) : (s.modPart n f).cur = s.cur := rfl
@[simp] theorem State.modPart_ev (s : State) (n : Nat) (f : Part → Part) : (s.modPart n f).ev = s.ev := rfl
@[simp] theorem State.modPart_agenda (s : State) (n : Nat) (f : Part → Part) : (s.modPart n f).agenda = s.agenda := rfl
@[simp] theorem State.modPart_free (s : State) (n : Nat) (f : Part → Part) : (s.modPart n f).free = s.free := rfl
@[simp] theorem State.modPart_nextId (s : State) (n : Nat) (f : Part → Part) : (s.modPart n f).nextId = s.nextId := rfl
@[simp] theorem State.modPart_single (s : State) (n : Nat) (f : Part → Part) : (s.modPart n f).single = s.single := rfl
@[simp] theorem State.modPart_clk (s : State) (n : Nat) (f : Part → Part) : (s.modPart n f).clk = s.clk := rfl
@[simp] theorem State.modPart_time (s : State) (n : Nat) (f : Part → Part) : (s.modPart n f).time = s.time := rfl
@[simp] theorem State.modPart_coreMap (s : State) (n : Nat) (f : Part → Part) : (s.modPart n f).coreMap = s.coreMap := rfl
@[simp] theorem State.modPart_rank (s : State) (n : Nat) (f : Part → Part) : (s.modPart n f).rank = s.rank := rfl
@[simp] theorem State.modPart_ranked (s : State) (n : Nat) (f : Part → Part) : (s.modPart n f).ranked = s.ranked := rfl
@[simp] theorem State.modPart_domain (s : State) (n : Nat) (f : Part → Part) : (s.modPart n f).domain = s.domain := rfl
@[simp] theorem State.modPart_warps (s : State) (n : Nat) (f : Part → Part) : (s.modPart n f).warps = s.warps := rfl
@[simp] theorem State.modPart_evicted (s : State) (n : Nat) (f : Part → Part) : (s.modPart n f).evicted = s.evicted := rfl
@[simp] theorem State.modPart_lastSel (s : State) (n : Nat) (f : Part → Part) : (s.modPart n f).lastSel = s.lastSel := rfl
@[simp] theorem State.modPart_rrPart (s : State) (n : Nat) (f : Part → Part) : (s.modPart n f).rrPart = s.rrPart := rfl
@[simp] theorem State.modPart_scr (s : State) (n : Nat) (f : Part → Part) : (s.modPart n f).scr = s.scr := rfl
@[simp] theorem State.modPart_fe (s : State) (n : Nat) (f : Part → Part) : (s.modPart n f).fe = s.fe := rfl
@[simp] theorem State.modPart_scrOwner (s : State) (n : Nat) (f : Part → Part) : (s.modPart n f).scrOwner = s.scrOwner := rfl
@[simp] theorem State.modPart_tiles (s : State) (n : Nat) (f : Part → Part) : (s.modPart n f).tiles = s.tiles := rfl
@[simp] theorem State.modPart_tileOf (s : State) (n : Nat) (f : Part → Part) : (s.modPart n f).tileOf = s.tileOf := rfl
@[simp] theorem State.modPart_tileOwner (s : State) (n : Nat) (f : Part → Part) : (s.modPart n f).tileOwner = s.tileOwner := rfl
@[simp] theorem State.modPart_banks (s : State) (n : Nat) (f : Part → Part) : (s.modPart n f).banks = s.banks := rfl
@[simp] theorem State.modPart_bankOf (s : State) (n : Nat) (f : Part → Part) : (s.modPart n f).bankOf = s.bankOf := rfl
@[simp] theorem State.modPart_bankOwner (s : State) (n : Nat) (f : Part → Part) : (s.modPart n f).bankOwner = s.bankOwner := rfl
@[simp] theorem State.modPart_l1 (s : State) (n : Nat) (f : Part → Part) : (s.modPart n f).l1 = s.l1 := rfl
@[simp] theorem State.modPart_ret (s : State) (n : Nat) (f : Part → Part) : (s.modPart n f).ret = s.ret := rfl
@[simp] theorem State.modPart_segAccess (s : State) (n : Nat) (f : Part → Part) : (s.modPart n f).segAccess = s.segAccess := rfl
@[simp] theorem State.modPart_launches (s : State) (n : Nat) (f : Part → Part) : (s.modPart n f).launches = s.launches := rfl
@[simp] theorem State.modPart_cgs (s : State) (n : Nat) (f : Part → Part) : (s.modPart n f).cgs = s.cgs := rfl
@[simp] theorem State.modPart_wgs (s : State) (n : Nat) (f : Part → Part) : (s.modPart n f).wgs = s.wgs := rfl
@[simp] theorem State.modPart_savedWgs (s : State) (n : Nat) (f : Part → Part) : (s.modPart n f).savedWgs = s.savedWgs := rfl
@[simp] theorem State.modPart_convoys (s : State) (n : Nat) (f : Part → Part) : (s.modPart n f).convoys = s.convoys := rfl
@[simp] theorem State.modPart_reserved (s : State) (n : Nat) (f : Part → Part) : (s.modPart n f).reserved = s.reserved := rfl
@[simp] theorem State.modPart_reelQ (s : State) (n : Nat) (f : Part → Part) : (s.modPart n f).reelQ = s.reelQ := rfl
@[simp] theorem State.modPart_matQ (s : State) (n : Nat) (f : Part → Part) : (s.modPart n f).matQ = s.matQ := rfl
@[simp] theorem State.modPart_cruQ (s : State) (n : Nat) (f : Part → Part) : (s.modPart n f).cruQ = s.cruQ := rfl
@[simp] theorem State.modPart_ampQ (s : State) (n : Nat) (f : Part → Part) : (s.modPart n f).ampQ = s.ampQ := rfl
@[simp] theorem State.modPart_qfences (s : State) (n : Nat) (f : Part → Part) : (s.modPart n f).qfences = s.qfences := rfl
@[simp] theorem State.modPart_seqrs (s : State) (n : Nat) (f : Part → Part) : (s.modPart n f).seqrs = s.seqrs := rfl
@[simp] theorem State.modPart_qmaps (s : State) (n : Nat) (f : Part → Part) : (s.modPart n f).qmaps = s.qmaps := rfl
@[simp] theorem State.modPart_ampMsgs (s : State) (n : Nat) (f : Part → Part) : (s.modPart n f).ampMsgs = s.ampMsgs := rfl
@[simp] theorem State.modPart_ampGrants (s : State) (n : Nat) (f : Part → Part) : (s.modPart n f).ampGrants = s.ampGrants := rfl
@[simp] theorem State.modPart_reelOff (s : State) (n : Nat) (f : Part → Part) : (s.modPart n f).reelOff = s.reelOff := rfl
@[simp] theorem State.modPart_matOff (s : State) (n : Nat) (f : Part → Part) : (s.modPart n f).matOff = s.matOff := rfl
@[simp] theorem State.modPart_ampOff (s : State) (n : Nat) (f : Part → Part) : (s.modPart n f).ampOff = s.ampOff := rfl
@[simp] theorem State.modPart_mem (s : State) (n : Nat) (f : Part → Part) : (s.modPart n f).mem = s.mem := rfl
@[simp] theorem State.modPart_hostMem (s : State) (n : Nat) (f : Part → Part) : (s.modPart n f).hostMem = s.hostMem := rfl
@[simp] theorem State.modPart_peerMem (s : State) (n : Nat) (f : Part → Part) : (s.modPart n f).peerMem = s.peerMem := rfl
@[simp] theorem State.modPart_peerPages (s : State) (n : Nat) (f : Part → Part) : (s.modPart n f).peerPages = s.peerPages := rfl
@[simp] theorem State.modPart_writes (s : State) (n : Nat) (f : Part → Part) : (s.modPart n f).writes = s.writes := rfl
@[simp] theorem State.modPart_reads (s : State) (n : Nat) (f : Part → Part) : (s.modPart n f).reads = s.reads := rfl
@[simp] theorem State.modPart_pending (s : State) (n : Nat) (f : Part → Part) : (s.modPart n f).pending = s.pending := rfl
@[simp] theorem State.modPart_contribs (s : State) (n : Nat) (f : Part → Part) : (s.modPart n f).contribs = s.contribs := rfl
@[simp] theorem State.modPart_seqs (s : State) (n : Nat) (f : Part → Part) : (s.modPart n f).seqs = s.seqs := rfl
@[simp] theorem State.modPart_poison (s : State) (n : Nat) (f : Part → Part) : (s.modPart n f).poison = s.poison := rfl
@[simp] theorem State.modPart_tcache (s : State) (n : Nat) (f : Part → Part) : (s.modPart n f).tcache = s.tcache := rfl
@[simp] theorem State.modPart_migs (s : State) (n : Nat) (f : Part → Part) : (s.modPart n f).migs = s.migs := rfl
@[simp] theorem State.modPart_migRetry (s : State) (n : Nat) (f : Part → Part) : (s.modPart n f).migRetry = s.migRetry := rfl
@[simp] theorem State.modPart_shoots (s : State) (n : Nat) (f : Part → Part) : (s.modPart n f).shoots = s.shoots := rfl
@[simp] theorem State.modPart_fencedRanks (s : State) (n : Nat) (f : Part → Part) : (s.modPart n f).fencedRanks = s.fencedRanks := rfl
@[simp] theorem State.modPart_msgs (s : State) (n : Nat) (f : Part → Part) : (s.modPart n f).msgs = s.msgs := rfl
@[simp] theorem State.modPart_sends (s : State) (n : Nat) (f : Part → Part) : (s.modPart n f).sends = s.sends := rfl
@[simp] theorem State.modPart_usedHandles (s : State) (n : Nat) (f : Part → Part) : (s.modPart n f).usedHandles = s.usedHandles := rfl
@[simp] theorem State.modPart_pkts (s : State) (n : Nat) (f : Part → Part) : (s.modPart n f).pkts = s.pkts := rfl
@[simp] theorem State.modPart_replies (s : State) (n : Nat) (f : Part → Part) : (s.modPart n f).replies = s.replies := rfl
@[simp] theorem State.modPart_genUpds (s : State) (n : Nat) (f : Part → Part) : (s.modPart n f).genUpds = s.genUpds := rfl
@[simp] theorem State.modPart_genTab (s : State) (n : Nat) (f : Part → Part) : (s.modPart n f).genTab = s.genTab := rfl
@[simp] theorem State.modPart_colls (s : State) (n : Nat) (f : Part → Part) : (s.modPart n f).colls = s.colls := rfl
@[simp] theorem State.modPart_doneTickets (s : State) (n : Nat) (f : Part → Part) : (s.modPart n f).doneTickets = s.doneTickets := rfl
@[simp] theorem State.modPart_collEarly (s : State) (n : Nat) (f : Part → Part) : (s.modPart n f).collEarly = s.collEarly := rfl
@[simp] theorem State.modPart_collBad (s : State) (n : Nat) (f : Part → Part) : (s.modPart n f).collBad = s.collBad := rfl
@[simp] theorem State.modPart_winches (s : State) (n : Nat) (f : Part → Part) : (s.modPart n f).winches = s.winches := rfl
@[simp] theorem State.modPart_spares (s : State) (n : Nat) (f : Part → Part) : (s.modPart n f).spares = s.spares := rfl
@[simp] theorem State.modPart_tports (s : State) (n : Nat) (f : Part → Part) : (s.modPart n f).tports = s.tports := rfl
@[simp] theorem State.modPart_routes (s : State) (n : Nat) (f : Part → Part) : (s.modPart n f).routes = s.routes := rfl
@[simp] theorem State.modPart_tilicOut (s : State) (n : Nat) (f : Part → Part) : (s.modPart n f).tilicOut = s.tilicOut := rfl
@[simp] theorem State.modPart_peerReqs (s : State) (n : Nat) (f : Part → Part) : (s.modPart n f).peerReqs = s.peerReqs := rfl
@[simp] theorem State.modPart_routers (s : State) (n : Nat) (f : Part → Part) : (s.modPart n f).routers = s.routers := rfl
@[simp] theorem State.modPart_crossed (s : State) (n : Nat) (f : Part → Part) : (s.modPart n f).crossed = s.crossed := rfl
@[simp] theorem State.modPart_ctxs (s : State) (n : Nat) (f : Part → Part) : (s.modPart n f).ctxs = s.ctxs := rfl
@[simp] theorem State.modPart_parts (s : State) (n : Nat) (f : Part → Part) : (s.modPart n f).parts = updateWhere (·.num == n) f s.parts := rfl
@[simp] theorem State.modPart_ports (s : State) (n : Nat) (f : Part → Part) : (s.modPart n f).ports = s.ports := rfl
@[simp] theorem State.modPart_slots (s : State) (n : Nat) (f : Part → Part) : (s.modPart n f).slots = s.slots := rfl
@[simp] theorem State.modPart_sems (s : State) (n : Nat) (f : Part → Part) : (s.modPart n f).sems = s.sems := rfl
@[simp] theorem State.modPart_lastRead (s : State) (n : Nat) (f : Part → Part) : (s.modPart n f).lastRead = s.lastRead := rfl
@[simp] theorem State.modPart_args (s : State) (n : Nat) (f : Part → Part) : (s.modPart n f).args = s.args := rfl
@[simp] theorem State.modPart_cmd (s : State) (n : Nat) (f : Part → Part) : (s.modPart n f).cmd = s.cmd := rfl
@[simp] theorem State.modPart_cstErr (s : State) (n : Nat) (f : Part → Part) : (s.modPart n f).cstErr = s.cstErr := rfl
@[simp] theorem State.modPart_cstRes (s : State) (n : Nat) (f : Part → Part) : (s.modPart n f).cstRes = s.cstRes := rfl
@[simp] theorem State.modPart_cstSer (s : State) (n : Nat) (f : Part → Part) : (s.modPart n f).cstSer = s.cstSer := rfl
@[simp] theorem State.modPart_semErr (s : State) (n : Nat) (f : Part → Part) : (s.modPart n f).semErr = s.semErr := rfl
@[simp] theorem State.modPart_cfgErr (s : State) (n : Nat) (f : Part → Part) : (s.modPart n f).cfgErr = s.cfgErr := rfl
@[simp] theorem State.modPart_slotErr (s : State) (n : Nat) (f : Part → Part) : (s.modPart n f).slotErr = s.slotErr := rfl
@[simp] theorem State.modPart_otsRem (s : State) (n : Nat) (f : Part → Part) : (s.modPart n f).otsRem = s.otsRem := rfl
@[simp] theorem State.modPart_rootHash (s : State) (n : Nat) (f : Part → Part) : (s.modPart n f).rootHash = s.rootHash := rfl
@[simp] theorem State.modPart_idHash (s : State) (n : Nat) (f : Part → Part) : (s.modPart n f).idHash = s.idHash := rfl
@[simp] theorem State.modPart_fuseVer (s : State) (n : Nat) (f : Part → Part) : (s.modPart n f).fuseVer = s.fuseVer := rfl
@[simp] theorem State.modPart_step (s : State) (n : Nat) (f : Part → Part) : (s.modPart n f).step = s.step := rfl
@[simp] theorem State.modPart_stt (s : State) (n : Nat) (f : Part → Part) : (s.modPart n f).stt = s.stt := rfl
@[simp] theorem State.modPart_startRec (s : State) (n : Nat) (f : Part → Part) : (s.modPart n f).startRec = s.startRec := rfl
@[simp] theorem State.modPart_downPorts (s : State) (n : Nat) (f : Part → Part) : (s.modPart n f).downPorts = s.downPorts := rfl
@[simp] theorem State.modPart_marked (s : State) (n : Nat) (f : Part → Part) : (s.modPart n f).marked = s.marked := rfl
@[simp] theorem State.modPart_failedCores (s : State) (n : Nat) (f : Part → Part) : (s.modPart n f).failedCores = s.failedCores := rfl
@[simp] theorem State.modPart_env (s : State) (n : Nat) (f : Part → Part) : (s.modPart n f).env = s.env := rfl
@[simp] theorem State.modPart_envAct (s : State) (n : Nat) (f : Part → Part) : (s.modPart n f).envAct = s.envAct := rfl
@[simp] theorem State.modPart_envTarget (s : State) (n : Nat) (f : Part → Part) : (s.modPart n f).envTarget = s.envTarget := rfl
@[simp] theorem State.modPart_envSeen (s : State) (n : Nat) (f : Part → Part) : (s.modPart n f).envSeen = s.envSeen := rfl
@[simp] theorem State.modPart_retPol (s : State) (n : Nat) (f : Part → Part) : (s.modPart n f).retPol = s.retPol := rfl
@[simp] theorem State.modPart_refr (s : State) (n : Nat) (f : Part → Part) : (s.modPart n f).refr = s.refr := rfl
@[simp] theorem State.modPart_hot (s : State) (n : Nat) (f : Part → Part) : (s.modPart n f).hot = s.hot := rfl
@[simp] theorem State.modPart_cnt (s : State) (n : Nat) (f : Part → Part) : (s.modPart n f).cnt = s.cnt := rfl
@[simp] theorem State.modPart_thr (s : State) (n : Nat) (f : Part → Part) : (s.modPart n f).thr = s.thr := rfl
@[simp] theorem State.modPart_rowLim (s : State) (n : Nat) (f : Part → Part) : (s.modPart n f).rowLim = s.rowLim := rfl
@[simp] theorem State.modPart_rowTab (s : State) (n : Nat) (f : Part → Part) : (s.modPart n f).rowTab = s.rowTab := rfl
@[simp] theorem State.modPart_rowCopies (s : State) (n : Nat) (f : Part → Part) : (s.modPart n f).rowCopies = s.rowCopies := rfl
@[simp] theorem State.modPart_rowSpares (s : State) (n : Nat) (f : Part → Part) : (s.modPart n f).rowSpares = s.rowSpares := rfl
@[simp] theorem State.modPart_remapped (s : State) (n : Nat) (f : Part → Part) : (s.modPart n f).remapped = s.remapped := rfl
@[simp] theorem State.modPart_badBanks (s : State) (n : Nat) (f : Part → Part) : (s.modPart n f).badBanks = s.badBanks := rfl
@[simp] theorem State.modPart_bankSpares (s : State) (n : Nat) (f : Part → Part) : (s.modPart n f).bankSpares = s.bankSpares := rfl
@[simp] theorem State.modPart_tel (s : State) (n : Nat) (f : Part → Part) : (s.modPart n f).tel = s.tel := rfl

@[simp] theorem State.modLaunch_cur (s : State) (id : Nat) (f : Launch → Launch) : (s.modLaunch id f).cur = s.cur := rfl
@[simp] theorem State.modLaunch_ev (s : State) (id : Nat) (f : Launch → Launch) : (s.modLaunch id f).ev = s.ev := rfl
@[simp] theorem State.modLaunch_agenda (s : State) (id : Nat) (f : Launch → Launch) : (s.modLaunch id f).agenda = s.agenda := rfl
@[simp] theorem State.modLaunch_free (s : State) (id : Nat) (f : Launch → Launch) : (s.modLaunch id f).free = s.free := rfl
@[simp] theorem State.modLaunch_nextId (s : State) (id : Nat) (f : Launch → Launch) : (s.modLaunch id f).nextId = s.nextId := rfl
@[simp] theorem State.modLaunch_single (s : State) (id : Nat) (f : Launch → Launch) : (s.modLaunch id f).single = s.single := rfl
@[simp] theorem State.modLaunch_clk (s : State) (id : Nat) (f : Launch → Launch) : (s.modLaunch id f).clk = s.clk := rfl
@[simp] theorem State.modLaunch_time (s : State) (id : Nat) (f : Launch → Launch) : (s.modLaunch id f).time = s.time := rfl
@[simp] theorem State.modLaunch_coreMap (s : State) (id : Nat) (f : Launch → Launch) : (s.modLaunch id f).coreMap = s.coreMap := rfl
@[simp] theorem State.modLaunch_rank (s : State) (id : Nat) (f : Launch → Launch) : (s.modLaunch id f).rank = s.rank := rfl
@[simp] theorem State.modLaunch_ranked (s : State) (id : Nat) (f : Launch → Launch) : (s.modLaunch id f).ranked = s.ranked := rfl
@[simp] theorem State.modLaunch_domain (s : State) (id : Nat) (f : Launch → Launch) : (s.modLaunch id f).domain = s.domain := rfl
@[simp] theorem State.modLaunch_warps (s : State) (id : Nat) (f : Launch → Launch) : (s.modLaunch id f).warps = s.warps := rfl
@[simp] theorem State.modLaunch_evicted (s : State) (id : Nat) (f : Launch → Launch) : (s.modLaunch id f).evicted = s.evicted := rfl
@[simp] theorem State.modLaunch_lastSel (s : State) (id : Nat) (f : Launch → Launch) : (s.modLaunch id f).lastSel = s.lastSel := rfl
@[simp] theorem State.modLaunch_rrPart (s : State) (id : Nat) (f : Launch → Launch) : (s.modLaunch id f).rrPart = s.rrPart := rfl
@[simp] theorem State.modLaunch_scr (s : State) (id : Nat) (f : Launch → Launch) : (s.modLaunch id f).scr = s.scr := rfl
@[simp] theorem State.modLaunch_fe (s : State) (id : Nat) (f : Launch → Launch) : (s.modLaunch id f).fe = s.fe := rfl
@[simp] theorem State.modLaunch_scrOwner (s : State) (id : Nat) (f : Launch → Launch) : (s.modLaunch id f).scrOwner = s.scrOwner := rfl
@[simp] theorem State.modLaunch_tiles (s : State) (id : Nat) (f : Launch → Launch) : (s.modLaunch id f).tiles = s.tiles := rfl
@[simp] theorem State.modLaunch_tileOf (s : State) (id : Nat) (f : Launch → Launch) : (s.modLaunch id f).tileOf = s.tileOf := rfl
@[simp] theorem State.modLaunch_tileOwner (s : State) (id : Nat) (f : Launch → Launch) : (s.modLaunch id f).tileOwner = s.tileOwner := rfl
@[simp] theorem State.modLaunch_banks (s : State) (id : Nat) (f : Launch → Launch) : (s.modLaunch id f).banks = s.banks := rfl
@[simp] theorem State.modLaunch_bankOf (s : State) (id : Nat) (f : Launch → Launch) : (s.modLaunch id f).bankOf = s.bankOf := rfl
@[simp] theorem State.modLaunch_bankOwner (s : State) (id : Nat) (f : Launch → Launch) : (s.modLaunch id f).bankOwner = s.bankOwner := rfl
@[simp] theorem State.modLaunch_l1 (s : State) (id : Nat) (f : Launch → Launch) : (s.modLaunch id f).l1 = s.l1 := rfl
@[simp] theorem State.modLaunch_ret (s : State) (id : Nat) (f : Launch → Launch) : (s.modLaunch id f).ret = s.ret := rfl
@[simp] theorem State.modLaunch_segAccess (s : State) (id : Nat) (f : Launch → Launch) : (s.modLaunch id f).segAccess = s.segAccess := rfl
@[simp] theorem State.modLaunch_launches (s : State) (id : Nat) (f : Launch → Launch) : (s.modLaunch id f).launches = updateWhere (·.id == id) f s.launches := rfl
@[simp] theorem State.modLaunch_cgs (s : State) (id : Nat) (f : Launch → Launch) : (s.modLaunch id f).cgs = s.cgs := rfl
@[simp] theorem State.modLaunch_wgs (s : State) (id : Nat) (f : Launch → Launch) : (s.modLaunch id f).wgs = s.wgs := rfl
@[simp] theorem State.modLaunch_savedWgs (s : State) (id : Nat) (f : Launch → Launch) : (s.modLaunch id f).savedWgs = s.savedWgs := rfl
@[simp] theorem State.modLaunch_convoys (s : State) (id : Nat) (f : Launch → Launch) : (s.modLaunch id f).convoys = s.convoys := rfl
@[simp] theorem State.modLaunch_reserved (s : State) (id : Nat) (f : Launch → Launch) : (s.modLaunch id f).reserved = s.reserved := rfl
@[simp] theorem State.modLaunch_reelQ (s : State) (id : Nat) (f : Launch → Launch) : (s.modLaunch id f).reelQ = s.reelQ := rfl
@[simp] theorem State.modLaunch_matQ (s : State) (id : Nat) (f : Launch → Launch) : (s.modLaunch id f).matQ = s.matQ := rfl
@[simp] theorem State.modLaunch_cruQ (s : State) (id : Nat) (f : Launch → Launch) : (s.modLaunch id f).cruQ = s.cruQ := rfl
@[simp] theorem State.modLaunch_ampQ (s : State) (id : Nat) (f : Launch → Launch) : (s.modLaunch id f).ampQ = s.ampQ := rfl
@[simp] theorem State.modLaunch_qfences (s : State) (id : Nat) (f : Launch → Launch) : (s.modLaunch id f).qfences = s.qfences := rfl
@[simp] theorem State.modLaunch_seqrs (s : State) (id : Nat) (f : Launch → Launch) : (s.modLaunch id f).seqrs = s.seqrs := rfl
@[simp] theorem State.modLaunch_qmaps (s : State) (id : Nat) (f : Launch → Launch) : (s.modLaunch id f).qmaps = s.qmaps := rfl
@[simp] theorem State.modLaunch_ampMsgs (s : State) (id : Nat) (f : Launch → Launch) : (s.modLaunch id f).ampMsgs = s.ampMsgs := rfl
@[simp] theorem State.modLaunch_ampGrants (s : State) (id : Nat) (f : Launch → Launch) : (s.modLaunch id f).ampGrants = s.ampGrants := rfl
@[simp] theorem State.modLaunch_reelOff (s : State) (id : Nat) (f : Launch → Launch) : (s.modLaunch id f).reelOff = s.reelOff := rfl
@[simp] theorem State.modLaunch_matOff (s : State) (id : Nat) (f : Launch → Launch) : (s.modLaunch id f).matOff = s.matOff := rfl
@[simp] theorem State.modLaunch_ampOff (s : State) (id : Nat) (f : Launch → Launch) : (s.modLaunch id f).ampOff = s.ampOff := rfl
@[simp] theorem State.modLaunch_mem (s : State) (id : Nat) (f : Launch → Launch) : (s.modLaunch id f).mem = s.mem := rfl
@[simp] theorem State.modLaunch_hostMem (s : State) (id : Nat) (f : Launch → Launch) : (s.modLaunch id f).hostMem = s.hostMem := rfl
@[simp] theorem State.modLaunch_peerMem (s : State) (id : Nat) (f : Launch → Launch) : (s.modLaunch id f).peerMem = s.peerMem := rfl
@[simp] theorem State.modLaunch_peerPages (s : State) (id : Nat) (f : Launch → Launch) : (s.modLaunch id f).peerPages = s.peerPages := rfl
@[simp] theorem State.modLaunch_writes (s : State) (id : Nat) (f : Launch → Launch) : (s.modLaunch id f).writes = s.writes := rfl
@[simp] theorem State.modLaunch_reads (s : State) (id : Nat) (f : Launch → Launch) : (s.modLaunch id f).reads = s.reads := rfl
@[simp] theorem State.modLaunch_pending (s : State) (id : Nat) (f : Launch → Launch) : (s.modLaunch id f).pending = s.pending := rfl
@[simp] theorem State.modLaunch_contribs (s : State) (id : Nat) (f : Launch → Launch) : (s.modLaunch id f).contribs = s.contribs := rfl
@[simp] theorem State.modLaunch_seqs (s : State) (id : Nat) (f : Launch → Launch) : (s.modLaunch id f).seqs = s.seqs := rfl
@[simp] theorem State.modLaunch_poison (s : State) (id : Nat) (f : Launch → Launch) : (s.modLaunch id f).poison = s.poison := rfl
@[simp] theorem State.modLaunch_tcache (s : State) (id : Nat) (f : Launch → Launch) : (s.modLaunch id f).tcache = s.tcache := rfl
@[simp] theorem State.modLaunch_migs (s : State) (id : Nat) (f : Launch → Launch) : (s.modLaunch id f).migs = s.migs := rfl
@[simp] theorem State.modLaunch_migRetry (s : State) (id : Nat) (f : Launch → Launch) : (s.modLaunch id f).migRetry = s.migRetry := rfl
@[simp] theorem State.modLaunch_shoots (s : State) (id : Nat) (f : Launch → Launch) : (s.modLaunch id f).shoots = s.shoots := rfl
@[simp] theorem State.modLaunch_fencedRanks (s : State) (id : Nat) (f : Launch → Launch) : (s.modLaunch id f).fencedRanks = s.fencedRanks := rfl
@[simp] theorem State.modLaunch_msgs (s : State) (id : Nat) (f : Launch → Launch) : (s.modLaunch id f).msgs = s.msgs := rfl
@[simp] theorem State.modLaunch_sends (s : State) (id : Nat) (f : Launch → Launch) : (s.modLaunch id f).sends = s.sends := rfl
@[simp] theorem State.modLaunch_usedHandles (s : State) (id : Nat) (f : Launch → Launch) : (s.modLaunch id f).usedHandles = s.usedHandles := rfl
@[simp] theorem State.modLaunch_pkts (s : State) (id : Nat) (f : Launch → Launch) : (s.modLaunch id f).pkts = s.pkts := rfl
@[simp] theorem State.modLaunch_replies (s : State) (id : Nat) (f : Launch → Launch) : (s.modLaunch id f).replies = s.replies := rfl
@[simp] theorem State.modLaunch_genUpds (s : State) (id : Nat) (f : Launch → Launch) : (s.modLaunch id f).genUpds = s.genUpds := rfl
@[simp] theorem State.modLaunch_genTab (s : State) (id : Nat) (f : Launch → Launch) : (s.modLaunch id f).genTab = s.genTab := rfl
@[simp] theorem State.modLaunch_colls (s : State) (id : Nat) (f : Launch → Launch) : (s.modLaunch id f).colls = s.colls := rfl
@[simp] theorem State.modLaunch_doneTickets (s : State) (id : Nat) (f : Launch → Launch) : (s.modLaunch id f).doneTickets = s.doneTickets := rfl
@[simp] theorem State.modLaunch_collEarly (s : State) (id : Nat) (f : Launch → Launch) : (s.modLaunch id f).collEarly = s.collEarly := rfl
@[simp] theorem State.modLaunch_collBad (s : State) (id : Nat) (f : Launch → Launch) : (s.modLaunch id f).collBad = s.collBad := rfl
@[simp] theorem State.modLaunch_winches (s : State) (id : Nat) (f : Launch → Launch) : (s.modLaunch id f).winches = s.winches := rfl
@[simp] theorem State.modLaunch_spares (s : State) (id : Nat) (f : Launch → Launch) : (s.modLaunch id f).spares = s.spares := rfl
@[simp] theorem State.modLaunch_tports (s : State) (id : Nat) (f : Launch → Launch) : (s.modLaunch id f).tports = s.tports := rfl
@[simp] theorem State.modLaunch_routes (s : State) (id : Nat) (f : Launch → Launch) : (s.modLaunch id f).routes = s.routes := rfl
@[simp] theorem State.modLaunch_tilicOut (s : State) (id : Nat) (f : Launch → Launch) : (s.modLaunch id f).tilicOut = s.tilicOut := rfl
@[simp] theorem State.modLaunch_peerReqs (s : State) (id : Nat) (f : Launch → Launch) : (s.modLaunch id f).peerReqs = s.peerReqs := rfl
@[simp] theorem State.modLaunch_routers (s : State) (id : Nat) (f : Launch → Launch) : (s.modLaunch id f).routers = s.routers := rfl
@[simp] theorem State.modLaunch_crossed (s : State) (id : Nat) (f : Launch → Launch) : (s.modLaunch id f).crossed = s.crossed := rfl
@[simp] theorem State.modLaunch_ctxs (s : State) (id : Nat) (f : Launch → Launch) : (s.modLaunch id f).ctxs = s.ctxs := rfl
@[simp] theorem State.modLaunch_parts (s : State) (id : Nat) (f : Launch → Launch) : (s.modLaunch id f).parts = s.parts := rfl
@[simp] theorem State.modLaunch_ports (s : State) (id : Nat) (f : Launch → Launch) : (s.modLaunch id f).ports = s.ports := rfl
@[simp] theorem State.modLaunch_slots (s : State) (id : Nat) (f : Launch → Launch) : (s.modLaunch id f).slots = s.slots := rfl
@[simp] theorem State.modLaunch_sems (s : State) (id : Nat) (f : Launch → Launch) : (s.modLaunch id f).sems = s.sems := rfl
@[simp] theorem State.modLaunch_lastRead (s : State) (id : Nat) (f : Launch → Launch) : (s.modLaunch id f).lastRead = s.lastRead := rfl
@[simp] theorem State.modLaunch_args (s : State) (id : Nat) (f : Launch → Launch) : (s.modLaunch id f).args = s.args := rfl
@[simp] theorem State.modLaunch_cmd (s : State) (id : Nat) (f : Launch → Launch) : (s.modLaunch id f).cmd = s.cmd := rfl
@[simp] theorem State.modLaunch_cstErr (s : State) (id : Nat) (f : Launch → Launch) : (s.modLaunch id f).cstErr = s.cstErr := rfl
@[simp] theorem State.modLaunch_cstRes (s : State) (id : Nat) (f : Launch → Launch) : (s.modLaunch id f).cstRes = s.cstRes := rfl
@[simp] theorem State.modLaunch_cstSer (s : State) (id : Nat) (f : Launch → Launch) : (s.modLaunch id f).cstSer = s.cstSer := rfl
@[simp] theorem State.modLaunch_semErr (s : State) (id : Nat) (f : Launch → Launch) : (s.modLaunch id f).semErr = s.semErr := rfl
@[simp] theorem State.modLaunch_cfgErr (s : State) (id : Nat) (f : Launch → Launch) : (s.modLaunch id f).cfgErr = s.cfgErr := rfl
@[simp] theorem State.modLaunch_slotErr (s : State) (id : Nat) (f : Launch → Launch) : (s.modLaunch id f).slotErr = s.slotErr := rfl
@[simp] theorem State.modLaunch_otsRem (s : State) (id : Nat) (f : Launch → Launch) : (s.modLaunch id f).otsRem = s.otsRem := rfl
@[simp] theorem State.modLaunch_rootHash (s : State) (id : Nat) (f : Launch → Launch) : (s.modLaunch id f).rootHash = s.rootHash := rfl
@[simp] theorem State.modLaunch_idHash (s : State) (id : Nat) (f : Launch → Launch) : (s.modLaunch id f).idHash = s.idHash := rfl
@[simp] theorem State.modLaunch_fuseVer (s : State) (id : Nat) (f : Launch → Launch) : (s.modLaunch id f).fuseVer = s.fuseVer := rfl
@[simp] theorem State.modLaunch_step (s : State) (id : Nat) (f : Launch → Launch) : (s.modLaunch id f).step = s.step := rfl
@[simp] theorem State.modLaunch_stt (s : State) (id : Nat) (f : Launch → Launch) : (s.modLaunch id f).stt = s.stt := rfl
@[simp] theorem State.modLaunch_startRec (s : State) (id : Nat) (f : Launch → Launch) : (s.modLaunch id f).startRec = s.startRec := rfl
@[simp] theorem State.modLaunch_downPorts (s : State) (id : Nat) (f : Launch → Launch) : (s.modLaunch id f).downPorts = s.downPorts := rfl
@[simp] theorem State.modLaunch_marked (s : State) (id : Nat) (f : Launch → Launch) : (s.modLaunch id f).marked = s.marked := rfl
@[simp] theorem State.modLaunch_failedCores (s : State) (id : Nat) (f : Launch → Launch) : (s.modLaunch id f).failedCores = s.failedCores := rfl
@[simp] theorem State.modLaunch_env (s : State) (id : Nat) (f : Launch → Launch) : (s.modLaunch id f).env = s.env := rfl
@[simp] theorem State.modLaunch_envAct (s : State) (id : Nat) (f : Launch → Launch) : (s.modLaunch id f).envAct = s.envAct := rfl
@[simp] theorem State.modLaunch_envTarget (s : State) (id : Nat) (f : Launch → Launch) : (s.modLaunch id f).envTarget = s.envTarget := rfl
@[simp] theorem State.modLaunch_envSeen (s : State) (id : Nat) (f : Launch → Launch) : (s.modLaunch id f).envSeen = s.envSeen := rfl
@[simp] theorem State.modLaunch_retPol (s : State) (id : Nat) (f : Launch → Launch) : (s.modLaunch id f).retPol = s.retPol := rfl
@[simp] theorem State.modLaunch_refr (s : State) (id : Nat) (f : Launch → Launch) : (s.modLaunch id f).refr = s.refr := rfl
@[simp] theorem State.modLaunch_hot (s : State) (id : Nat) (f : Launch → Launch) : (s.modLaunch id f).hot = s.hot := rfl
@[simp] theorem State.modLaunch_cnt (s : State) (id : Nat) (f : Launch → Launch) : (s.modLaunch id f).cnt = s.cnt := rfl
@[simp] theorem State.modLaunch_thr (s : State) (id : Nat) (f : Launch → Launch) : (s.modLaunch id f).thr = s.thr := rfl
@[simp] theorem State.modLaunch_rowLim (s : State) (id : Nat) (f : Launch → Launch) : (s.modLaunch id f).rowLim = s.rowLim := rfl
@[simp] theorem State.modLaunch_rowTab (s : State) (id : Nat) (f : Launch → Launch) : (s.modLaunch id f).rowTab = s.rowTab := rfl
@[simp] theorem State.modLaunch_rowCopies (s : State) (id : Nat) (f : Launch → Launch) : (s.modLaunch id f).rowCopies = s.rowCopies := rfl
@[simp] theorem State.modLaunch_rowSpares (s : State) (id : Nat) (f : Launch → Launch) : (s.modLaunch id f).rowSpares = s.rowSpares := rfl
@[simp] theorem State.modLaunch_remapped (s : State) (id : Nat) (f : Launch → Launch) : (s.modLaunch id f).remapped = s.remapped := rfl
@[simp] theorem State.modLaunch_badBanks (s : State) (id : Nat) (f : Launch → Launch) : (s.modLaunch id f).badBanks = s.badBanks := rfl
@[simp] theorem State.modLaunch_bankSpares (s : State) (id : Nat) (f : Launch → Launch) : (s.modLaunch id f).bankSpares = s.bankSpares := rfl
@[simp] theorem State.modLaunch_tel (s : State) (id : Nat) (f : Launch → Launch) : (s.modLaunch id f).tel = s.tel := rfl

@[simp] theorem State.modCg_cur (s : State) (launch c : Nat) (f : Cg → Cg) : (s.modCg launch c f).cur = s.cur := rfl
@[simp] theorem State.modCg_ev (s : State) (launch c : Nat) (f : Cg → Cg) : (s.modCg launch c f).ev = s.ev := rfl
@[simp] theorem State.modCg_agenda (s : State) (launch c : Nat) (f : Cg → Cg) : (s.modCg launch c f).agenda = s.agenda := rfl
@[simp] theorem State.modCg_free (s : State) (launch c : Nat) (f : Cg → Cg) : (s.modCg launch c f).free = s.free := rfl
@[simp] theorem State.modCg_nextId (s : State) (launch c : Nat) (f : Cg → Cg) : (s.modCg launch c f).nextId = s.nextId := rfl
@[simp] theorem State.modCg_single (s : State) (launch c : Nat) (f : Cg → Cg) : (s.modCg launch c f).single = s.single := rfl
@[simp] theorem State.modCg_clk (s : State) (launch c : Nat) (f : Cg → Cg) : (s.modCg launch c f).clk = s.clk := rfl
@[simp] theorem State.modCg_time (s : State) (launch c : Nat) (f : Cg → Cg) : (s.modCg launch c f).time = s.time := rfl
@[simp] theorem State.modCg_coreMap (s : State) (launch c : Nat) (f : Cg → Cg) : (s.modCg launch c f).coreMap = s.coreMap := rfl
@[simp] theorem State.modCg_rank (s : State) (launch c : Nat) (f : Cg → Cg) : (s.modCg launch c f).rank = s.rank := rfl
@[simp] theorem State.modCg_ranked (s : State) (launch c : Nat) (f : Cg → Cg) : (s.modCg launch c f).ranked = s.ranked := rfl
@[simp] theorem State.modCg_domain (s : State) (launch c : Nat) (f : Cg → Cg) : (s.modCg launch c f).domain = s.domain := rfl
@[simp] theorem State.modCg_warps (s : State) (launch c : Nat) (f : Cg → Cg) : (s.modCg launch c f).warps = s.warps := rfl
@[simp] theorem State.modCg_evicted (s : State) (launch c : Nat) (f : Cg → Cg) : (s.modCg launch c f).evicted = s.evicted := rfl
@[simp] theorem State.modCg_lastSel (s : State) (launch c : Nat) (f : Cg → Cg) : (s.modCg launch c f).lastSel = s.lastSel := rfl
@[simp] theorem State.modCg_rrPart (s : State) (launch c : Nat) (f : Cg → Cg) : (s.modCg launch c f).rrPart = s.rrPart := rfl
@[simp] theorem State.modCg_scr (s : State) (launch c : Nat) (f : Cg → Cg) : (s.modCg launch c f).scr = s.scr := rfl
@[simp] theorem State.modCg_fe (s : State) (launch c : Nat) (f : Cg → Cg) : (s.modCg launch c f).fe = s.fe := rfl
@[simp] theorem State.modCg_scrOwner (s : State) (launch c : Nat) (f : Cg → Cg) : (s.modCg launch c f).scrOwner = s.scrOwner := rfl
@[simp] theorem State.modCg_tiles (s : State) (launch c : Nat) (f : Cg → Cg) : (s.modCg launch c f).tiles = s.tiles := rfl
@[simp] theorem State.modCg_tileOf (s : State) (launch c : Nat) (f : Cg → Cg) : (s.modCg launch c f).tileOf = s.tileOf := rfl
@[simp] theorem State.modCg_tileOwner (s : State) (launch c : Nat) (f : Cg → Cg) : (s.modCg launch c f).tileOwner = s.tileOwner := rfl
@[simp] theorem State.modCg_banks (s : State) (launch c : Nat) (f : Cg → Cg) : (s.modCg launch c f).banks = s.banks := rfl
@[simp] theorem State.modCg_bankOf (s : State) (launch c : Nat) (f : Cg → Cg) : (s.modCg launch c f).bankOf = s.bankOf := rfl
@[simp] theorem State.modCg_bankOwner (s : State) (launch c : Nat) (f : Cg → Cg) : (s.modCg launch c f).bankOwner = s.bankOwner := rfl
@[simp] theorem State.modCg_l1 (s : State) (launch c : Nat) (f : Cg → Cg) : (s.modCg launch c f).l1 = s.l1 := rfl
@[simp] theorem State.modCg_ret (s : State) (launch c : Nat) (f : Cg → Cg) : (s.modCg launch c f).ret = s.ret := rfl
@[simp] theorem State.modCg_segAccess (s : State) (launch c : Nat) (f : Cg → Cg) : (s.modCg launch c f).segAccess = s.segAccess := rfl
@[simp] theorem State.modCg_launches (s : State) (launch c : Nat) (f : Cg → Cg) : (s.modCg launch c f).launches = s.launches := rfl
@[simp] theorem State.modCg_cgs (s : State) (launch c : Nat) (f : Cg → Cg) : (s.modCg launch c f).cgs = updateWhere (fun g => g.launch == launch && g.c == c) f s.cgs := rfl
@[simp] theorem State.modCg_wgs (s : State) (launch c : Nat) (f : Cg → Cg) : (s.modCg launch c f).wgs = s.wgs := rfl
@[simp] theorem State.modCg_savedWgs (s : State) (launch c : Nat) (f : Cg → Cg) : (s.modCg launch c f).savedWgs = s.savedWgs := rfl
@[simp] theorem State.modCg_convoys (s : State) (launch c : Nat) (f : Cg → Cg) : (s.modCg launch c f).convoys = s.convoys := rfl
@[simp] theorem State.modCg_reserved (s : State) (launch c : Nat) (f : Cg → Cg) : (s.modCg launch c f).reserved = s.reserved := rfl
@[simp] theorem State.modCg_reelQ (s : State) (launch c : Nat) (f : Cg → Cg) : (s.modCg launch c f).reelQ = s.reelQ := rfl
@[simp] theorem State.modCg_matQ (s : State) (launch c : Nat) (f : Cg → Cg) : (s.modCg launch c f).matQ = s.matQ := rfl
@[simp] theorem State.modCg_cruQ (s : State) (launch c : Nat) (f : Cg → Cg) : (s.modCg launch c f).cruQ = s.cruQ := rfl
@[simp] theorem State.modCg_ampQ (s : State) (launch c : Nat) (f : Cg → Cg) : (s.modCg launch c f).ampQ = s.ampQ := rfl
@[simp] theorem State.modCg_qfences (s : State) (launch c : Nat) (f : Cg → Cg) : (s.modCg launch c f).qfences = s.qfences := rfl
@[simp] theorem State.modCg_seqrs (s : State) (launch c : Nat) (f : Cg → Cg) : (s.modCg launch c f).seqrs = s.seqrs := rfl
@[simp] theorem State.modCg_qmaps (s : State) (launch c : Nat) (f : Cg → Cg) : (s.modCg launch c f).qmaps = s.qmaps := rfl
@[simp] theorem State.modCg_ampMsgs (s : State) (launch c : Nat) (f : Cg → Cg) : (s.modCg launch c f).ampMsgs = s.ampMsgs := rfl
@[simp] theorem State.modCg_ampGrants (s : State) (launch c : Nat) (f : Cg → Cg) : (s.modCg launch c f).ampGrants = s.ampGrants := rfl
@[simp] theorem State.modCg_reelOff (s : State) (launch c : Nat) (f : Cg → Cg) : (s.modCg launch c f).reelOff = s.reelOff := rfl
@[simp] theorem State.modCg_matOff (s : State) (launch c : Nat) (f : Cg → Cg) : (s.modCg launch c f).matOff = s.matOff := rfl
@[simp] theorem State.modCg_ampOff (s : State) (launch c : Nat) (f : Cg → Cg) : (s.modCg launch c f).ampOff = s.ampOff := rfl
@[simp] theorem State.modCg_mem (s : State) (launch c : Nat) (f : Cg → Cg) : (s.modCg launch c f).mem = s.mem := rfl
@[simp] theorem State.modCg_hostMem (s : State) (launch c : Nat) (f : Cg → Cg) : (s.modCg launch c f).hostMem = s.hostMem := rfl
@[simp] theorem State.modCg_peerMem (s : State) (launch c : Nat) (f : Cg → Cg) : (s.modCg launch c f).peerMem = s.peerMem := rfl
@[simp] theorem State.modCg_peerPages (s : State) (launch c : Nat) (f : Cg → Cg) : (s.modCg launch c f).peerPages = s.peerPages := rfl
@[simp] theorem State.modCg_writes (s : State) (launch c : Nat) (f : Cg → Cg) : (s.modCg launch c f).writes = s.writes := rfl
@[simp] theorem State.modCg_reads (s : State) (launch c : Nat) (f : Cg → Cg) : (s.modCg launch c f).reads = s.reads := rfl
@[simp] theorem State.modCg_pending (s : State) (launch c : Nat) (f : Cg → Cg) : (s.modCg launch c f).pending = s.pending := rfl
@[simp] theorem State.modCg_contribs (s : State) (launch c : Nat) (f : Cg → Cg) : (s.modCg launch c f).contribs = s.contribs := rfl
@[simp] theorem State.modCg_seqs (s : State) (launch c : Nat) (f : Cg → Cg) : (s.modCg launch c f).seqs = s.seqs := rfl
@[simp] theorem State.modCg_poison (s : State) (launch c : Nat) (f : Cg → Cg) : (s.modCg launch c f).poison = s.poison := rfl
@[simp] theorem State.modCg_tcache (s : State) (launch c : Nat) (f : Cg → Cg) : (s.modCg launch c f).tcache = s.tcache := rfl
@[simp] theorem State.modCg_migs (s : State) (launch c : Nat) (f : Cg → Cg) : (s.modCg launch c f).migs = s.migs := rfl
@[simp] theorem State.modCg_migRetry (s : State) (launch c : Nat) (f : Cg → Cg) : (s.modCg launch c f).migRetry = s.migRetry := rfl
@[simp] theorem State.modCg_shoots (s : State) (launch c : Nat) (f : Cg → Cg) : (s.modCg launch c f).shoots = s.shoots := rfl
@[simp] theorem State.modCg_fencedRanks (s : State) (launch c : Nat) (f : Cg → Cg) : (s.modCg launch c f).fencedRanks = s.fencedRanks := rfl
@[simp] theorem State.modCg_msgs (s : State) (launch c : Nat) (f : Cg → Cg) : (s.modCg launch c f).msgs = s.msgs := rfl
@[simp] theorem State.modCg_sends (s : State) (launch c : Nat) (f : Cg → Cg) : (s.modCg launch c f).sends = s.sends := rfl
@[simp] theorem State.modCg_usedHandles (s : State) (launch c : Nat) (f : Cg → Cg) : (s.modCg launch c f).usedHandles = s.usedHandles := rfl
@[simp] theorem State.modCg_pkts (s : State) (launch c : Nat) (f : Cg → Cg) : (s.modCg launch c f).pkts = s.pkts := rfl
@[simp] theorem State.modCg_replies (s : State) (launch c : Nat) (f : Cg → Cg) : (s.modCg launch c f).replies = s.replies := rfl
@[simp] theorem State.modCg_genUpds (s : State) (launch c : Nat) (f : Cg → Cg) : (s.modCg launch c f).genUpds = s.genUpds := rfl
@[simp] theorem State.modCg_genTab (s : State) (launch c : Nat) (f : Cg → Cg) : (s.modCg launch c f).genTab = s.genTab := rfl
@[simp] theorem State.modCg_colls (s : State) (launch c : Nat) (f : Cg → Cg) : (s.modCg launch c f).colls = s.colls := rfl
@[simp] theorem State.modCg_doneTickets (s : State) (launch c : Nat) (f : Cg → Cg) : (s.modCg launch c f).doneTickets = s.doneTickets := rfl
@[simp] theorem State.modCg_collEarly (s : State) (launch c : Nat) (f : Cg → Cg) : (s.modCg launch c f).collEarly = s.collEarly := rfl
@[simp] theorem State.modCg_collBad (s : State) (launch c : Nat) (f : Cg → Cg) : (s.modCg launch c f).collBad = s.collBad := rfl
@[simp] theorem State.modCg_winches (s : State) (launch c : Nat) (f : Cg → Cg) : (s.modCg launch c f).winches = s.winches := rfl
@[simp] theorem State.modCg_spares (s : State) (launch c : Nat) (f : Cg → Cg) : (s.modCg launch c f).spares = s.spares := rfl
@[simp] theorem State.modCg_tports (s : State) (launch c : Nat) (f : Cg → Cg) : (s.modCg launch c f).tports = s.tports := rfl
@[simp] theorem State.modCg_routes (s : State) (launch c : Nat) (f : Cg → Cg) : (s.modCg launch c f).routes = s.routes := rfl
@[simp] theorem State.modCg_tilicOut (s : State) (launch c : Nat) (f : Cg → Cg) : (s.modCg launch c f).tilicOut = s.tilicOut := rfl
@[simp] theorem State.modCg_peerReqs (s : State) (launch c : Nat) (f : Cg → Cg) : (s.modCg launch c f).peerReqs = s.peerReqs := rfl
@[simp] theorem State.modCg_routers (s : State) (launch c : Nat) (f : Cg → Cg) : (s.modCg launch c f).routers = s.routers := rfl
@[simp] theorem State.modCg_crossed (s : State) (launch c : Nat) (f : Cg → Cg) : (s.modCg launch c f).crossed = s.crossed := rfl
@[simp] theorem State.modCg_ctxs (s : State) (launch c : Nat) (f : Cg → Cg) : (s.modCg launch c f).ctxs = s.ctxs := rfl
@[simp] theorem State.modCg_parts (s : State) (launch c : Nat) (f : Cg → Cg) : (s.modCg launch c f).parts = s.parts := rfl
@[simp] theorem State.modCg_ports (s : State) (launch c : Nat) (f : Cg → Cg) : (s.modCg launch c f).ports = s.ports := rfl
@[simp] theorem State.modCg_slots (s : State) (launch c : Nat) (f : Cg → Cg) : (s.modCg launch c f).slots = s.slots := rfl
@[simp] theorem State.modCg_sems (s : State) (launch c : Nat) (f : Cg → Cg) : (s.modCg launch c f).sems = s.sems := rfl
@[simp] theorem State.modCg_lastRead (s : State) (launch c : Nat) (f : Cg → Cg) : (s.modCg launch c f).lastRead = s.lastRead := rfl
@[simp] theorem State.modCg_args (s : State) (launch c : Nat) (f : Cg → Cg) : (s.modCg launch c f).args = s.args := rfl
@[simp] theorem State.modCg_cmd (s : State) (launch c : Nat) (f : Cg → Cg) : (s.modCg launch c f).cmd = s.cmd := rfl
@[simp] theorem State.modCg_cstErr (s : State) (launch c : Nat) (f : Cg → Cg) : (s.modCg launch c f).cstErr = s.cstErr := rfl
@[simp] theorem State.modCg_cstRes (s : State) (launch c : Nat) (f : Cg → Cg) : (s.modCg launch c f).cstRes = s.cstRes := rfl
@[simp] theorem State.modCg_cstSer (s : State) (launch c : Nat) (f : Cg → Cg) : (s.modCg launch c f).cstSer = s.cstSer := rfl
@[simp] theorem State.modCg_semErr (s : State) (launch c : Nat) (f : Cg → Cg) : (s.modCg launch c f).semErr = s.semErr := rfl
@[simp] theorem State.modCg_cfgErr (s : State) (launch c : Nat) (f : Cg → Cg) : (s.modCg launch c f).cfgErr = s.cfgErr := rfl
@[simp] theorem State.modCg_slotErr (s : State) (launch c : Nat) (f : Cg → Cg) : (s.modCg launch c f).slotErr = s.slotErr := rfl
@[simp] theorem State.modCg_otsRem (s : State) (launch c : Nat) (f : Cg → Cg) : (s.modCg launch c f).otsRem = s.otsRem := rfl
@[simp] theorem State.modCg_rootHash (s : State) (launch c : Nat) (f : Cg → Cg) : (s.modCg launch c f).rootHash = s.rootHash := rfl
@[simp] theorem State.modCg_idHash (s : State) (launch c : Nat) (f : Cg → Cg) : (s.modCg launch c f).idHash = s.idHash := rfl
@[simp] theorem State.modCg_fuseVer (s : State) (launch c : Nat) (f : Cg → Cg) : (s.modCg launch c f).fuseVer = s.fuseVer := rfl
@[simp] theorem State.modCg_step (s : State) (launch c : Nat) (f : Cg → Cg) : (s.modCg launch c f).step = s.step := rfl
@[simp] theorem State.modCg_stt (s : State) (launch c : Nat) (f : Cg → Cg) : (s.modCg launch c f).stt = s.stt := rfl
@[simp] theorem State.modCg_startRec (s : State) (launch c : Nat) (f : Cg → Cg) : (s.modCg launch c f).startRec = s.startRec := rfl
@[simp] theorem State.modCg_downPorts (s : State) (launch c : Nat) (f : Cg → Cg) : (s.modCg launch c f).downPorts = s.downPorts := rfl
@[simp] theorem State.modCg_marked (s : State) (launch c : Nat) (f : Cg → Cg) : (s.modCg launch c f).marked = s.marked := rfl
@[simp] theorem State.modCg_failedCores (s : State) (launch c : Nat) (f : Cg → Cg) : (s.modCg launch c f).failedCores = s.failedCores := rfl
@[simp] theorem State.modCg_env (s : State) (launch c : Nat) (f : Cg → Cg) : (s.modCg launch c f).env = s.env := rfl
@[simp] theorem State.modCg_envAct (s : State) (launch c : Nat) (f : Cg → Cg) : (s.modCg launch c f).envAct = s.envAct := rfl
@[simp] theorem State.modCg_envTarget (s : State) (launch c : Nat) (f : Cg → Cg) : (s.modCg launch c f).envTarget = s.envTarget := rfl
@[simp] theorem State.modCg_envSeen (s : State) (launch c : Nat) (f : Cg → Cg) : (s.modCg launch c f).envSeen = s.envSeen := rfl
@[simp] theorem State.modCg_retPol (s : State) (launch c : Nat) (f : Cg → Cg) : (s.modCg launch c f).retPol = s.retPol := rfl
@[simp] theorem State.modCg_refr (s : State) (launch c : Nat) (f : Cg → Cg) : (s.modCg launch c f).refr = s.refr := rfl
@[simp] theorem State.modCg_hot (s : State) (launch c : Nat) (f : Cg → Cg) : (s.modCg launch c f).hot = s.hot := rfl
@[simp] theorem State.modCg_cnt (s : State) (launch c : Nat) (f : Cg → Cg) : (s.modCg launch c f).cnt = s.cnt := rfl
@[simp] theorem State.modCg_thr (s : State) (launch c : Nat) (f : Cg → Cg) : (s.modCg launch c f).thr = s.thr := rfl
@[simp] theorem State.modCg_rowLim (s : State) (launch c : Nat) (f : Cg → Cg) : (s.modCg launch c f).rowLim = s.rowLim := rfl
@[simp] theorem State.modCg_rowTab (s : State) (launch c : Nat) (f : Cg → Cg) : (s.modCg launch c f).rowTab = s.rowTab := rfl
@[simp] theorem State.modCg_rowCopies (s : State) (launch c : Nat) (f : Cg → Cg) : (s.modCg launch c f).rowCopies = s.rowCopies := rfl
@[simp] theorem State.modCg_rowSpares (s : State) (launch c : Nat) (f : Cg → Cg) : (s.modCg launch c f).rowSpares = s.rowSpares := rfl
@[simp] theorem State.modCg_remapped (s : State) (launch c : Nat) (f : Cg → Cg) : (s.modCg launch c f).remapped = s.remapped := rfl
@[simp] theorem State.modCg_badBanks (s : State) (launch c : Nat) (f : Cg → Cg) : (s.modCg launch c f).badBanks = s.badBanks := rfl
@[simp] theorem State.modCg_bankSpares (s : State) (launch c : Nat) (f : Cg → Cg) : (s.modCg launch c f).bankSpares = s.bankSpares := rfl
@[simp] theorem State.modCg_tel (s : State) (launch c : Nat) (f : Cg → Cg) : (s.modCg launch c f).tel = s.tel := rfl

@[simp] theorem State.modWarp_cur (s : State) (core slot : Nat) (f : Warp → Warp) : (s.modWarp core slot f).cur = s.cur := by
  unfold State.modWarp; split <;> rfl
@[simp] theorem State.modWarp_ev (s : State) (core slot : Nat) (f : Warp → Warp) : (s.modWarp core slot f).ev = s.ev := by
  unfold State.modWarp; split <;> rfl
@[simp] theorem State.modWarp_agenda (s : State) (core slot : Nat) (f : Warp → Warp) : (s.modWarp core slot f).agenda = s.agenda := by
  unfold State.modWarp; split <;> rfl
@[simp] theorem State.modWarp_free (s : State) (core slot : Nat) (f : Warp → Warp) : (s.modWarp core slot f).free = s.free := by
  unfold State.modWarp; split <;> rfl
@[simp] theorem State.modWarp_nextId (s : State) (core slot : Nat) (f : Warp → Warp) : (s.modWarp core slot f).nextId = s.nextId := by
  unfold State.modWarp; split <;> rfl
@[simp] theorem State.modWarp_single (s : State) (core slot : Nat) (f : Warp → Warp) : (s.modWarp core slot f).single = s.single := by
  unfold State.modWarp; split <;> rfl
@[simp] theorem State.modWarp_clk (s : State) (core slot : Nat) (f : Warp → Warp) : (s.modWarp core slot f).clk = s.clk := by
  unfold State.modWarp; split <;> rfl
@[simp] theorem State.modWarp_time (s : State) (core slot : Nat) (f : Warp → Warp) : (s.modWarp core slot f).time = s.time := by
  unfold State.modWarp; split <;> rfl
@[simp] theorem State.modWarp_coreMap (s : State) (core slot : Nat) (f : Warp → Warp) : (s.modWarp core slot f).coreMap = s.coreMap := by
  unfold State.modWarp; split <;> rfl
@[simp] theorem State.modWarp_rank (s : State) (core slot : Nat) (f : Warp → Warp) : (s.modWarp core slot f).rank = s.rank := by
  unfold State.modWarp; split <;> rfl
@[simp] theorem State.modWarp_ranked (s : State) (core slot : Nat) (f : Warp → Warp) : (s.modWarp core slot f).ranked = s.ranked := by
  unfold State.modWarp; split <;> rfl
@[simp] theorem State.modWarp_domain (s : State) (core slot : Nat) (f : Warp → Warp) : (s.modWarp core slot f).domain = s.domain := by
  unfold State.modWarp; split <;> rfl
@[simp] theorem State.modWarp_evicted (s : State) (core slot : Nat) (f : Warp → Warp) : (s.modWarp core slot f).evicted = s.evicted := by
  unfold State.modWarp; split <;> rfl
@[simp] theorem State.modWarp_lastSel (s : State) (core slot : Nat) (f : Warp → Warp) : (s.modWarp core slot f).lastSel = s.lastSel := by
  unfold State.modWarp; split <;> rfl
@[simp] theorem State.modWarp_rrPart (s : State) (core slot : Nat) (f : Warp → Warp) : (s.modWarp core slot f).rrPart = s.rrPart := by
  unfold State.modWarp; split <;> rfl
@[simp] theorem State.modWarp_scr (s : State) (core slot : Nat) (f : Warp → Warp) : (s.modWarp core slot f).scr = s.scr := by
  unfold State.modWarp; split <;> rfl
@[simp] theorem State.modWarp_fe (s : State) (core slot : Nat) (f : Warp → Warp) : (s.modWarp core slot f).fe = s.fe := by
  unfold State.modWarp; split <;> rfl
@[simp] theorem State.modWarp_scrOwner (s : State) (core slot : Nat) (f : Warp → Warp) : (s.modWarp core slot f).scrOwner = s.scrOwner := by
  unfold State.modWarp; split <;> rfl
@[simp] theorem State.modWarp_tiles (s : State) (core slot : Nat) (f : Warp → Warp) : (s.modWarp core slot f).tiles = s.tiles := by
  unfold State.modWarp; split <;> rfl
@[simp] theorem State.modWarp_tileOf (s : State) (core slot : Nat) (f : Warp → Warp) : (s.modWarp core slot f).tileOf = s.tileOf := by
  unfold State.modWarp; split <;> rfl
@[simp] theorem State.modWarp_tileOwner (s : State) (core slot : Nat) (f : Warp → Warp) : (s.modWarp core slot f).tileOwner = s.tileOwner := by
  unfold State.modWarp; split <;> rfl
@[simp] theorem State.modWarp_banks (s : State) (core slot : Nat) (f : Warp → Warp) : (s.modWarp core slot f).banks = s.banks := by
  unfold State.modWarp; split <;> rfl
@[simp] theorem State.modWarp_bankOf (s : State) (core slot : Nat) (f : Warp → Warp) : (s.modWarp core slot f).bankOf = s.bankOf := by
  unfold State.modWarp; split <;> rfl
@[simp] theorem State.modWarp_bankOwner (s : State) (core slot : Nat) (f : Warp → Warp) : (s.modWarp core slot f).bankOwner = s.bankOwner := by
  unfold State.modWarp; split <;> rfl
@[simp] theorem State.modWarp_l1 (s : State) (core slot : Nat) (f : Warp → Warp) : (s.modWarp core slot f).l1 = s.l1 := by
  unfold State.modWarp; split <;> rfl
@[simp] theorem State.modWarp_ret (s : State) (core slot : Nat) (f : Warp → Warp) : (s.modWarp core slot f).ret = s.ret := by
  unfold State.modWarp; split <;> rfl
@[simp] theorem State.modWarp_segAccess (s : State) (core slot : Nat) (f : Warp → Warp) : (s.modWarp core slot f).segAccess = s.segAccess := by
  unfold State.modWarp; split <;> rfl
@[simp] theorem State.modWarp_launches (s : State) (core slot : Nat) (f : Warp → Warp) : (s.modWarp core slot f).launches = s.launches := by
  unfold State.modWarp; split <;> rfl
@[simp] theorem State.modWarp_cgs (s : State) (core slot : Nat) (f : Warp → Warp) : (s.modWarp core slot f).cgs = s.cgs := by
  unfold State.modWarp; split <;> rfl
@[simp] theorem State.modWarp_wgs (s : State) (core slot : Nat) (f : Warp → Warp) : (s.modWarp core slot f).wgs = s.wgs := by
  unfold State.modWarp; split <;> rfl
@[simp] theorem State.modWarp_savedWgs (s : State) (core slot : Nat) (f : Warp → Warp) : (s.modWarp core slot f).savedWgs = s.savedWgs := by
  unfold State.modWarp; split <;> rfl
@[simp] theorem State.modWarp_convoys (s : State) (core slot : Nat) (f : Warp → Warp) : (s.modWarp core slot f).convoys = s.convoys := by
  unfold State.modWarp; split <;> rfl
@[simp] theorem State.modWarp_reserved (s : State) (core slot : Nat) (f : Warp → Warp) : (s.modWarp core slot f).reserved = s.reserved := by
  unfold State.modWarp; split <;> rfl
@[simp] theorem State.modWarp_reelQ (s : State) (core slot : Nat) (f : Warp → Warp) : (s.modWarp core slot f).reelQ = s.reelQ := by
  unfold State.modWarp; split <;> rfl
@[simp] theorem State.modWarp_matQ (s : State) (core slot : Nat) (f : Warp → Warp) : (s.modWarp core slot f).matQ = s.matQ := by
  unfold State.modWarp; split <;> rfl
@[simp] theorem State.modWarp_cruQ (s : State) (core slot : Nat) (f : Warp → Warp) : (s.modWarp core slot f).cruQ = s.cruQ := by
  unfold State.modWarp; split <;> rfl
@[simp] theorem State.modWarp_ampQ (s : State) (core slot : Nat) (f : Warp → Warp) : (s.modWarp core slot f).ampQ = s.ampQ := by
  unfold State.modWarp; split <;> rfl
@[simp] theorem State.modWarp_qfences (s : State) (core slot : Nat) (f : Warp → Warp) : (s.modWarp core slot f).qfences = s.qfences := by
  unfold State.modWarp; split <;> rfl
@[simp] theorem State.modWarp_seqrs (s : State) (core slot : Nat) (f : Warp → Warp) : (s.modWarp core slot f).seqrs = s.seqrs := by
  unfold State.modWarp; split <;> rfl
@[simp] theorem State.modWarp_qmaps (s : State) (core slot : Nat) (f : Warp → Warp) : (s.modWarp core slot f).qmaps = s.qmaps := by
  unfold State.modWarp; split <;> rfl
@[simp] theorem State.modWarp_ampMsgs (s : State) (core slot : Nat) (f : Warp → Warp) : (s.modWarp core slot f).ampMsgs = s.ampMsgs := by
  unfold State.modWarp; split <;> rfl
@[simp] theorem State.modWarp_ampGrants (s : State) (core slot : Nat) (f : Warp → Warp) : (s.modWarp core slot f).ampGrants = s.ampGrants := by
  unfold State.modWarp; split <;> rfl
@[simp] theorem State.modWarp_reelOff (s : State) (core slot : Nat) (f : Warp → Warp) : (s.modWarp core slot f).reelOff = s.reelOff := by
  unfold State.modWarp; split <;> rfl
@[simp] theorem State.modWarp_matOff (s : State) (core slot : Nat) (f : Warp → Warp) : (s.modWarp core slot f).matOff = s.matOff := by
  unfold State.modWarp; split <;> rfl
@[simp] theorem State.modWarp_ampOff (s : State) (core slot : Nat) (f : Warp → Warp) : (s.modWarp core slot f).ampOff = s.ampOff := by
  unfold State.modWarp; split <;> rfl
@[simp] theorem State.modWarp_mem (s : State) (core slot : Nat) (f : Warp → Warp) : (s.modWarp core slot f).mem = s.mem := by
  unfold State.modWarp; split <;> rfl
@[simp] theorem State.modWarp_hostMem (s : State) (core slot : Nat) (f : Warp → Warp) : (s.modWarp core slot f).hostMem = s.hostMem := by
  unfold State.modWarp; split <;> rfl
@[simp] theorem State.modWarp_peerMem (s : State) (core slot : Nat) (f : Warp → Warp) : (s.modWarp core slot f).peerMem = s.peerMem := by
  unfold State.modWarp; split <;> rfl
@[simp] theorem State.modWarp_peerPages (s : State) (core slot : Nat) (f : Warp → Warp) : (s.modWarp core slot f).peerPages = s.peerPages := by
  unfold State.modWarp; split <;> rfl
@[simp] theorem State.modWarp_writes (s : State) (core slot : Nat) (f : Warp → Warp) : (s.modWarp core slot f).writes = s.writes := by
  unfold State.modWarp; split <;> rfl
@[simp] theorem State.modWarp_reads (s : State) (core slot : Nat) (f : Warp → Warp) : (s.modWarp core slot f).reads = s.reads := by
  unfold State.modWarp; split <;> rfl
@[simp] theorem State.modWarp_pending (s : State) (core slot : Nat) (f : Warp → Warp) : (s.modWarp core slot f).pending = s.pending := by
  unfold State.modWarp; split <;> rfl
@[simp] theorem State.modWarp_contribs (s : State) (core slot : Nat) (f : Warp → Warp) : (s.modWarp core slot f).contribs = s.contribs := by
  unfold State.modWarp; split <;> rfl
@[simp] theorem State.modWarp_seqs (s : State) (core slot : Nat) (f : Warp → Warp) : (s.modWarp core slot f).seqs = s.seqs := by
  unfold State.modWarp; split <;> rfl
@[simp] theorem State.modWarp_poison (s : State) (core slot : Nat) (f : Warp → Warp) : (s.modWarp core slot f).poison = s.poison := by
  unfold State.modWarp; split <;> rfl
@[simp] theorem State.modWarp_tcache (s : State) (core slot : Nat) (f : Warp → Warp) : (s.modWarp core slot f).tcache = s.tcache := by
  unfold State.modWarp; split <;> rfl
@[simp] theorem State.modWarp_migs (s : State) (core slot : Nat) (f : Warp → Warp) : (s.modWarp core slot f).migs = s.migs := by
  unfold State.modWarp; split <;> rfl
@[simp] theorem State.modWarp_migRetry (s : State) (core slot : Nat) (f : Warp → Warp) : (s.modWarp core slot f).migRetry = s.migRetry := by
  unfold State.modWarp; split <;> rfl
@[simp] theorem State.modWarp_shoots (s : State) (core slot : Nat) (f : Warp → Warp) : (s.modWarp core slot f).shoots = s.shoots := by
  unfold State.modWarp; split <;> rfl
@[simp] theorem State.modWarp_fencedRanks (s : State) (core slot : Nat) (f : Warp → Warp) : (s.modWarp core slot f).fencedRanks = s.fencedRanks := by
  unfold State.modWarp; split <;> rfl
@[simp] theorem State.modWarp_msgs (s : State) (core slot : Nat) (f : Warp → Warp) : (s.modWarp core slot f).msgs = s.msgs := by
  unfold State.modWarp; split <;> rfl
@[simp] theorem State.modWarp_sends (s : State) (core slot : Nat) (f : Warp → Warp) : (s.modWarp core slot f).sends = s.sends := by
  unfold State.modWarp; split <;> rfl
@[simp] theorem State.modWarp_usedHandles (s : State) (core slot : Nat) (f : Warp → Warp) : (s.modWarp core slot f).usedHandles = s.usedHandles := by
  unfold State.modWarp; split <;> rfl
@[simp] theorem State.modWarp_pkts (s : State) (core slot : Nat) (f : Warp → Warp) : (s.modWarp core slot f).pkts = s.pkts := by
  unfold State.modWarp; split <;> rfl
@[simp] theorem State.modWarp_replies (s : State) (core slot : Nat) (f : Warp → Warp) : (s.modWarp core slot f).replies = s.replies := by
  unfold State.modWarp; split <;> rfl
@[simp] theorem State.modWarp_genUpds (s : State) (core slot : Nat) (f : Warp → Warp) : (s.modWarp core slot f).genUpds = s.genUpds := by
  unfold State.modWarp; split <;> rfl
@[simp] theorem State.modWarp_genTab (s : State) (core slot : Nat) (f : Warp → Warp) : (s.modWarp core slot f).genTab = s.genTab := by
  unfold State.modWarp; split <;> rfl
@[simp] theorem State.modWarp_colls (s : State) (core slot : Nat) (f : Warp → Warp) : (s.modWarp core slot f).colls = s.colls := by
  unfold State.modWarp; split <;> rfl
@[simp] theorem State.modWarp_doneTickets (s : State) (core slot : Nat) (f : Warp → Warp) : (s.modWarp core slot f).doneTickets = s.doneTickets := by
  unfold State.modWarp; split <;> rfl
@[simp] theorem State.modWarp_collEarly (s : State) (core slot : Nat) (f : Warp → Warp) : (s.modWarp core slot f).collEarly = s.collEarly := by
  unfold State.modWarp; split <;> rfl
@[simp] theorem State.modWarp_collBad (s : State) (core slot : Nat) (f : Warp → Warp) : (s.modWarp core slot f).collBad = s.collBad := by
  unfold State.modWarp; split <;> rfl
@[simp] theorem State.modWarp_winches (s : State) (core slot : Nat) (f : Warp → Warp) : (s.modWarp core slot f).winches = s.winches := by
  unfold State.modWarp; split <;> rfl
@[simp] theorem State.modWarp_spares (s : State) (core slot : Nat) (f : Warp → Warp) : (s.modWarp core slot f).spares = s.spares := by
  unfold State.modWarp; split <;> rfl
@[simp] theorem State.modWarp_tports (s : State) (core slot : Nat) (f : Warp → Warp) : (s.modWarp core slot f).tports = s.tports := by
  unfold State.modWarp; split <;> rfl
@[simp] theorem State.modWarp_routes (s : State) (core slot : Nat) (f : Warp → Warp) : (s.modWarp core slot f).routes = s.routes := by
  unfold State.modWarp; split <;> rfl
@[simp] theorem State.modWarp_tilicOut (s : State) (core slot : Nat) (f : Warp → Warp) : (s.modWarp core slot f).tilicOut = s.tilicOut := by
  unfold State.modWarp; split <;> rfl
@[simp] theorem State.modWarp_peerReqs (s : State) (core slot : Nat) (f : Warp → Warp) : (s.modWarp core slot f).peerReqs = s.peerReqs := by
  unfold State.modWarp; split <;> rfl
@[simp] theorem State.modWarp_routers (s : State) (core slot : Nat) (f : Warp → Warp) : (s.modWarp core slot f).routers = s.routers := by
  unfold State.modWarp; split <;> rfl
@[simp] theorem State.modWarp_crossed (s : State) (core slot : Nat) (f : Warp → Warp) : (s.modWarp core slot f).crossed = s.crossed := by
  unfold State.modWarp; split <;> rfl
@[simp] theorem State.modWarp_ctxs (s : State) (core slot : Nat) (f : Warp → Warp) : (s.modWarp core slot f).ctxs = s.ctxs := by
  unfold State.modWarp; split <;> rfl
@[simp] theorem State.modWarp_parts (s : State) (core slot : Nat) (f : Warp → Warp) : (s.modWarp core slot f).parts = s.parts := by
  unfold State.modWarp; split <;> rfl
@[simp] theorem State.modWarp_ports (s : State) (core slot : Nat) (f : Warp → Warp) : (s.modWarp core slot f).ports = s.ports := by
  unfold State.modWarp; split <;> rfl
@[simp] theorem State.modWarp_slots (s : State) (core slot : Nat) (f : Warp → Warp) : (s.modWarp core slot f).slots = s.slots := by
  unfold State.modWarp; split <;> rfl
@[simp] theorem State.modWarp_sems (s : State) (core slot : Nat) (f : Warp → Warp) : (s.modWarp core slot f).sems = s.sems := by
  unfold State.modWarp; split <;> rfl
@[simp] theorem State.modWarp_lastRead (s : State) (core slot : Nat) (f : Warp → Warp) : (s.modWarp core slot f).lastRead = s.lastRead := by
  unfold State.modWarp; split <;> rfl
@[simp] theorem State.modWarp_args (s : State) (core slot : Nat) (f : Warp → Warp) : (s.modWarp core slot f).args = s.args := by
  unfold State.modWarp; split <;> rfl
@[simp] theorem State.modWarp_cmd (s : State) (core slot : Nat) (f : Warp → Warp) : (s.modWarp core slot f).cmd = s.cmd := by
  unfold State.modWarp; split <;> rfl
@[simp] theorem State.modWarp_cstErr (s : State) (core slot : Nat) (f : Warp → Warp) : (s.modWarp core slot f).cstErr = s.cstErr := by
  unfold State.modWarp; split <;> rfl
@[simp] theorem State.modWarp_cstRes (s : State) (core slot : Nat) (f : Warp → Warp) : (s.modWarp core slot f).cstRes = s.cstRes := by
  unfold State.modWarp; split <;> rfl
@[simp] theorem State.modWarp_cstSer (s : State) (core slot : Nat) (f : Warp → Warp) : (s.modWarp core slot f).cstSer = s.cstSer := by
  unfold State.modWarp; split <;> rfl
@[simp] theorem State.modWarp_semErr (s : State) (core slot : Nat) (f : Warp → Warp) : (s.modWarp core slot f).semErr = s.semErr := by
  unfold State.modWarp; split <;> rfl
@[simp] theorem State.modWarp_cfgErr (s : State) (core slot : Nat) (f : Warp → Warp) : (s.modWarp core slot f).cfgErr = s.cfgErr := by
  unfold State.modWarp; split <;> rfl
@[simp] theorem State.modWarp_slotErr (s : State) (core slot : Nat) (f : Warp → Warp) : (s.modWarp core slot f).slotErr = s.slotErr := by
  unfold State.modWarp; split <;> rfl
@[simp] theorem State.modWarp_otsRem (s : State) (core slot : Nat) (f : Warp → Warp) : (s.modWarp core slot f).otsRem = s.otsRem := by
  unfold State.modWarp; split <;> rfl
@[simp] theorem State.modWarp_rootHash (s : State) (core slot : Nat) (f : Warp → Warp) : (s.modWarp core slot f).rootHash = s.rootHash := by
  unfold State.modWarp; split <;> rfl
@[simp] theorem State.modWarp_idHash (s : State) (core slot : Nat) (f : Warp → Warp) : (s.modWarp core slot f).idHash = s.idHash := by
  unfold State.modWarp; split <;> rfl
@[simp] theorem State.modWarp_fuseVer (s : State) (core slot : Nat) (f : Warp → Warp) : (s.modWarp core slot f).fuseVer = s.fuseVer := by
  unfold State.modWarp; split <;> rfl
@[simp] theorem State.modWarp_step (s : State) (core slot : Nat) (f : Warp → Warp) : (s.modWarp core slot f).step = s.step := by
  unfold State.modWarp; split <;> rfl
@[simp] theorem State.modWarp_stt (s : State) (core slot : Nat) (f : Warp → Warp) : (s.modWarp core slot f).stt = s.stt := by
  unfold State.modWarp; split <;> rfl
@[simp] theorem State.modWarp_startRec (s : State) (core slot : Nat) (f : Warp → Warp) : (s.modWarp core slot f).startRec = s.startRec := by
  unfold State.modWarp; split <;> rfl
@[simp] theorem State.modWarp_downPorts (s : State) (core slot : Nat) (f : Warp → Warp) : (s.modWarp core slot f).downPorts = s.downPorts := by
  unfold State.modWarp; split <;> rfl
@[simp] theorem State.modWarp_marked (s : State) (core slot : Nat) (f : Warp → Warp) : (s.modWarp core slot f).marked = s.marked := by
  unfold State.modWarp; split <;> rfl
@[simp] theorem State.modWarp_failedCores (s : State) (core slot : Nat) (f : Warp → Warp) : (s.modWarp core slot f).failedCores = s.failedCores := by
  unfold State.modWarp; split <;> rfl
@[simp] theorem State.modWarp_env (s : State) (core slot : Nat) (f : Warp → Warp) : (s.modWarp core slot f).env = s.env := by
  unfold State.modWarp; split <;> rfl
@[simp] theorem State.modWarp_envAct (s : State) (core slot : Nat) (f : Warp → Warp) : (s.modWarp core slot f).envAct = s.envAct := by
  unfold State.modWarp; split <;> rfl
@[simp] theorem State.modWarp_envTarget (s : State) (core slot : Nat) (f : Warp → Warp) : (s.modWarp core slot f).envTarget = s.envTarget := by
  unfold State.modWarp; split <;> rfl
@[simp] theorem State.modWarp_envSeen (s : State) (core slot : Nat) (f : Warp → Warp) : (s.modWarp core slot f).envSeen = s.envSeen := by
  unfold State.modWarp; split <;> rfl
@[simp] theorem State.modWarp_retPol (s : State) (core slot : Nat) (f : Warp → Warp) : (s.modWarp core slot f).retPol = s.retPol := by
  unfold State.modWarp; split <;> rfl
@[simp] theorem State.modWarp_refr (s : State) (core slot : Nat) (f : Warp → Warp) : (s.modWarp core slot f).refr = s.refr := by
  unfold State.modWarp; split <;> rfl
@[simp] theorem State.modWarp_hot (s : State) (core slot : Nat) (f : Warp → Warp) : (s.modWarp core slot f).hot = s.hot := by
  unfold State.modWarp; split <;> rfl
@[simp] theorem State.modWarp_cnt (s : State) (core slot : Nat) (f : Warp → Warp) : (s.modWarp core slot f).cnt = s.cnt := by
  unfold State.modWarp; split <;> rfl
@[simp] theorem State.modWarp_thr (s : State) (core slot : Nat) (f : Warp → Warp) : (s.modWarp core slot f).thr = s.thr := by
  unfold State.modWarp; split <;> rfl
@[simp] theorem State.modWarp_rowLim (s : State) (core slot : Nat) (f : Warp → Warp) : (s.modWarp core slot f).rowLim = s.rowLim := by
  unfold State.modWarp; split <;> rfl
@[simp] theorem State.modWarp_rowTab (s : State) (core slot : Nat) (f : Warp → Warp) : (s.modWarp core slot f).rowTab = s.rowTab := by
  unfold State.modWarp; split <;> rfl
@[simp] theorem State.modWarp_rowCopies (s : State) (core slot : Nat) (f : Warp → Warp) : (s.modWarp core slot f).rowCopies = s.rowCopies := by
  unfold State.modWarp; split <;> rfl
@[simp] theorem State.modWarp_rowSpares (s : State) (core slot : Nat) (f : Warp → Warp) : (s.modWarp core slot f).rowSpares = s.rowSpares := by
  unfold State.modWarp; split <;> rfl
@[simp] theorem State.modWarp_remapped (s : State) (core slot : Nat) (f : Warp → Warp) : (s.modWarp core slot f).remapped = s.remapped := by
  unfold State.modWarp; split <;> rfl
@[simp] theorem State.modWarp_badBanks (s : State) (core slot : Nat) (f : Warp → Warp) : (s.modWarp core slot f).badBanks = s.badBanks := by
  unfold State.modWarp; split <;> rfl
@[simp] theorem State.modWarp_bankSpares (s : State) (core slot : Nat) (f : Warp → Warp) : (s.modWarp core slot f).bankSpares = s.bankSpares := by
  unfold State.modWarp; split <;> rfl
@[simp] theorem State.modWarp_tel (s : State) (core slot : Nat) (f : Warp → Warp) : (s.modWarp core slot f).tel = s.tel := by
  unfold State.modWarp; split <;> rfl

/-! ## Updates of a warp -/

@[simp] theorem Warp.setV_wg (w : Warp) (r l : Nat) (x : Word) : (w.setV r l x).wg = w.wg := rfl
@[simp] theorem Warp.setV_widx (w : Warp) (r l : Nat) (x : Word) : (w.setV r l x).widx = w.widx := rfl
@[simp] theorem Warp.setV_lmask (w : Warp) (r l : Nat) (x : Word) : (w.setV r l x).lmask = w.lmask := rfl
@[simp] theorem Warp.setV_exited (w : Warp) (r l : Nat) (x : Word) : (w.setV r l x).exited = w.exited := rfl
@[simp] theorem Warp.setV_pcs (w : Warp) (r l : Nat) (x : Word) : (w.setV r l x).pcs = w.pcs := rfl
@[simp] theorem Warp.setV_waits (w : Warp) (r l : Nat) (x : Word) : (w.setV r l x).waits = w.waits := rfl
@[simp] theorem Warp.setV_arrived (w : Warp) (r l : Nat) (x : Word) : (w.setV r l x).arrived = w.arrived := rfl
@[simp] theorem Warp.setV_phases (w : Warp) (r l : Nat) (x : Word) : (w.setV r l x).phases = w.phases := rfl
@[simp] theorem Warp.setV_arrSaved (w : Warp) (r l : Nat) (x : Word) : (w.setV r l x).arrSaved = w.arrSaved := rfl
@[simp] theorem Warp.setV_phSaved (w : Warp) (r l : Nat) (x : Word) : (w.setV r l x).phSaved = w.phSaved := rfl
@[simp] theorem Warp.setV_cbarRec (w : Warp) (r l : Nat) (x : Word) : (w.setV r l x).cbarRec = w.cbarRec := rfl
@[simp] theorem Warp.setV_cbarPh (w : Warp) (r l : Nat) (x : Word) : (w.setV r l x).cbarPh = w.cbarPh := rfl
@[simp] theorem Warp.setV_opp (w : Warp) (r l : Nat) (x : Word) : (w.setV r l x).opp = w.opp := rfl
@[simp] theorem Warp.setV_selWait (w : Warp) (r l : Nat) (x : Word) : (w.setV r l x).selWait = w.selWait := rfl
@[simp] theorem Warp.setV_demoted (w : Warp) (r l : Nat) (x : Word) : (w.setV r l x).demoted = w.demoted := rfl
@[simp] theorem Warp.setV_vregs (w : Warp) (r l : Nat) (x : Word) : (w.setV r l x).vregs = Tbl.set 0 w.vregs (32 * r + l) x := rfl
@[simp] theorem Warp.setV_sregs (w : Warp) (r l : Nat) (x : Word) : (w.setV r l x).sregs = w.sregs := rfl
@[simp] theorem Warp.setV_preds (w : Warp) (r l : Nat) (x : Word) : (w.setV r l x).preds = w.preds := rfl
@[simp] theorem Warp.setV_rngSeed (w : Warp) (r l : Nat) (x : Word) : (w.setV r l x).rngSeed = w.rngSeed := rfl
@[simp] theorem Warp.setV_rng (w : Warp) (r l : Nat) (x : Word) : (w.setV r l x).rng = w.rng := rfl
@[simp] theorem Warp.setV_handles (w : Warp) (r l : Nat) (x : Word) : (w.setV r l x).handles = w.handles := rfl
@[simp] theorem Warp.setV_shape (w : Warp) (r l : Nat) (x : Word) : (w.setV r l x).shape = w.shape := rfl
@[simp] theorem Warp.setV_inHandler (w : Warp) (r l : Nat) (x : Word) : (w.setV r l x).inHandler = w.inHandler := rfl
@[simp] theorem Warp.setV_trcause (w : Warp) (r l : Nat) (x : Word) : (w.setV r l x).trcause = w.trcause := rfl
@[simp] theorem Warp.setV_tramask (w : Warp) (r l : Nat) (x : Word) : (w.setV r l x).tramask = w.tramask := rfl
@[simp] theorem Warp.setV_trfmask (w : Warp) (r l : Nat) (x : Word) : (w.setV r l x).trfmask = w.trfmask := rfl
@[simp] theorem Warp.setV_trpc (w : Warp) (r l : Nat) (x : Word) : (w.setV r l x).trpc = w.trpc := rfl
@[simp] theorem Warp.setV_trpcv (w : Warp) (r l : Nat) (x : Word) : (w.setV r l x).trpcv = w.trpcv := rfl
@[simp] theorem Warp.setV_traddr (w : Warp) (r l : Nat) (x : Word) : (w.setV r l x).traddr = w.traddr := rfl
@[simp] theorem Warp.setV_trinfo (w : Warp) (r l : Nat) (x : Word) : (w.setV r l x).trinfo = w.trinfo := rfl
@[simp] theorem Warp.setV_assoc (w : Warp) (r l : Nat) (x : Word) : (w.setV r l x).assoc = w.assoc := rfl
@[simp] theorem Warp.setV_cvPass (w : Warp) (r l : Nat) (x : Word) : (w.setV r l x).cvPass = w.cvPass := rfl
@[simp] theorem Warp.setV_rob (w : Warp) (r l : Nat) (x : Word) : (w.setV r l x).rob = w.rob := rfl
@[simp] theorem Warp.setV_forks (w : Warp) (r l : Nat) (x : Word) : (w.setV r l x).forks = w.forks := rfl
@[simp] theorem Warp.setV_feeding (w : Warp) (r l : Nat) (x : Word) : (w.setV r l x).feeding = w.feeding := rfl
@[simp] theorem Warp.setV_evicting (w : Warp) (r l : Nat) (x : Word) : (w.setV r l x).evicting = w.evicting := rfl

@[simp] theorem Warp.setS_wg (w : Warp) (r : Nat) (x : Word) : (w.setS r x).wg = w.wg := rfl
@[simp] theorem Warp.setS_widx (w : Warp) (r : Nat) (x : Word) : (w.setS r x).widx = w.widx := rfl
@[simp] theorem Warp.setS_lmask (w : Warp) (r : Nat) (x : Word) : (w.setS r x).lmask = w.lmask := rfl
@[simp] theorem Warp.setS_exited (w : Warp) (r : Nat) (x : Word) : (w.setS r x).exited = w.exited := rfl
@[simp] theorem Warp.setS_pcs (w : Warp) (r : Nat) (x : Word) : (w.setS r x).pcs = w.pcs := rfl
@[simp] theorem Warp.setS_waits (w : Warp) (r : Nat) (x : Word) : (w.setS r x).waits = w.waits := rfl
@[simp] theorem Warp.setS_arrived (w : Warp) (r : Nat) (x : Word) : (w.setS r x).arrived = w.arrived := rfl
@[simp] theorem Warp.setS_phases (w : Warp) (r : Nat) (x : Word) : (w.setS r x).phases = w.phases := rfl
@[simp] theorem Warp.setS_arrSaved (w : Warp) (r : Nat) (x : Word) : (w.setS r x).arrSaved = w.arrSaved := rfl
@[simp] theorem Warp.setS_phSaved (w : Warp) (r : Nat) (x : Word) : (w.setS r x).phSaved = w.phSaved := rfl
@[simp] theorem Warp.setS_cbarRec (w : Warp) (r : Nat) (x : Word) : (w.setS r x).cbarRec = w.cbarRec := rfl
@[simp] theorem Warp.setS_cbarPh (w : Warp) (r : Nat) (x : Word) : (w.setS r x).cbarPh = w.cbarPh := rfl
@[simp] theorem Warp.setS_opp (w : Warp) (r : Nat) (x : Word) : (w.setS r x).opp = w.opp := rfl
@[simp] theorem Warp.setS_selWait (w : Warp) (r : Nat) (x : Word) : (w.setS r x).selWait = w.selWait := rfl
@[simp] theorem Warp.setS_demoted (w : Warp) (r : Nat) (x : Word) : (w.setS r x).demoted = w.demoted := rfl
@[simp] theorem Warp.setS_vregs (w : Warp) (r : Nat) (x : Word) : (w.setS r x).vregs = w.vregs := rfl
@[simp] theorem Warp.setS_sregs (w : Warp) (r : Nat) (x : Word) : (w.setS r x).sregs = Tbl.set 0 w.sregs r x := rfl
@[simp] theorem Warp.setS_preds (w : Warp) (r : Nat) (x : Word) : (w.setS r x).preds = w.preds := rfl
@[simp] theorem Warp.setS_rngSeed (w : Warp) (r : Nat) (x : Word) : (w.setS r x).rngSeed = w.rngSeed := rfl
@[simp] theorem Warp.setS_rng (w : Warp) (r : Nat) (x : Word) : (w.setS r x).rng = w.rng := rfl
@[simp] theorem Warp.setS_handles (w : Warp) (r : Nat) (x : Word) : (w.setS r x).handles = w.handles := rfl
@[simp] theorem Warp.setS_shape (w : Warp) (r : Nat) (x : Word) : (w.setS r x).shape = w.shape := rfl
@[simp] theorem Warp.setS_inHandler (w : Warp) (r : Nat) (x : Word) : (w.setS r x).inHandler = w.inHandler := rfl
@[simp] theorem Warp.setS_trcause (w : Warp) (r : Nat) (x : Word) : (w.setS r x).trcause = w.trcause := rfl
@[simp] theorem Warp.setS_tramask (w : Warp) (r : Nat) (x : Word) : (w.setS r x).tramask = w.tramask := rfl
@[simp] theorem Warp.setS_trfmask (w : Warp) (r : Nat) (x : Word) : (w.setS r x).trfmask = w.trfmask := rfl
@[simp] theorem Warp.setS_trpc (w : Warp) (r : Nat) (x : Word) : (w.setS r x).trpc = w.trpc := rfl
@[simp] theorem Warp.setS_trpcv (w : Warp) (r : Nat) (x : Word) : (w.setS r x).trpcv = w.trpcv := rfl
@[simp] theorem Warp.setS_traddr (w : Warp) (r : Nat) (x : Word) : (w.setS r x).traddr = w.traddr := rfl
@[simp] theorem Warp.setS_trinfo (w : Warp) (r : Nat) (x : Word) : (w.setS r x).trinfo = w.trinfo := rfl
@[simp] theorem Warp.setS_assoc (w : Warp) (r : Nat) (x : Word) : (w.setS r x).assoc = w.assoc := rfl
@[simp] theorem Warp.setS_cvPass (w : Warp) (r : Nat) (x : Word) : (w.setS r x).cvPass = w.cvPass := rfl
@[simp] theorem Warp.setS_rob (w : Warp) (r : Nat) (x : Word) : (w.setS r x).rob = w.rob := rfl
@[simp] theorem Warp.setS_forks (w : Warp) (r : Nat) (x : Word) : (w.setS r x).forks = w.forks := rfl
@[simp] theorem Warp.setS_feeding (w : Warp) (r : Nat) (x : Word) : (w.setS r x).feeding = w.feeding := rfl
@[simp] theorem Warp.setS_evicting (w : Warp) (r : Nat) (x : Word) : (w.setS r x).evicting = w.evicting := rfl

@[simp] theorem Warp.advance_wg (w : Warp) (pc : DWord) (ls : List Nat) : (w.advance pc ls).wg = w.wg := rfl
@[simp] theorem Warp.advance_widx (w : Warp) (pc : DWord) (ls : List Nat) : (w.advance pc ls).widx = w.widx := rfl
@[simp] theorem Warp.advance_lmask (w : Warp) (pc : DWord) (ls : List Nat) : (w.advance pc ls).lmask = w.lmask := rfl
@[simp] theorem Warp.advance_exited (w : Warp) (pc : DWord) (ls : List Nat) : (w.advance pc ls).exited = w.exited := rfl
@[simp] theorem Warp.advance_pcs (w : Warp) (pc : DWord) (ls : List Nat) : (w.advance pc ls).pcs = ls.foldl (fun p l => Tbl.set 0 p l (pc + 8)) w.pcs := rfl
@[simp] theorem Warp.advance_waits (w : Warp) (pc : DWord) (ls : List Nat) : (w.advance pc ls).waits = w.waits := rfl
@[simp] theorem Warp.advance_arrived (w : Warp) (pc : DWord) (ls : List Nat) : (w.advance pc ls).arrived = w.arrived := rfl
@[simp] theorem Warp.advance_phases (w : Warp) (pc : DWord) (ls : List Nat) : (w.advance pc ls).phases = w.phases := rfl
@[simp] theorem Warp.advance_arrSaved (w : Warp) (pc : DWord) (ls : List Nat) : (w.advance pc ls).arrSaved = w.arrSaved := rfl
@[simp] theorem Warp.advance_phSaved (w : Warp) (pc : DWord) (ls : List Nat) : (w.advance pc ls).phSaved = w.phSaved := rfl
@[simp] theorem Warp.advance_cbarRec (w : Warp) (pc : DWord) (ls : List Nat) : (w.advance pc ls).cbarRec = w.cbarRec := rfl
@[simp] theorem Warp.advance_cbarPh (w : Warp) (pc : DWord) (ls : List Nat) : (w.advance pc ls).cbarPh = w.cbarPh := rfl
@[simp] theorem Warp.advance_opp (w : Warp) (pc : DWord) (ls : List Nat) : (w.advance pc ls).opp = w.opp := rfl
@[simp] theorem Warp.advance_selWait (w : Warp) (pc : DWord) (ls : List Nat) : (w.advance pc ls).selWait = w.selWait := rfl
@[simp] theorem Warp.advance_demoted (w : Warp) (pc : DWord) (ls : List Nat) : (w.advance pc ls).demoted = w.demoted := rfl
@[simp] theorem Warp.advance_vregs (w : Warp) (pc : DWord) (ls : List Nat) : (w.advance pc ls).vregs = w.vregs := rfl
@[simp] theorem Warp.advance_sregs (w : Warp) (pc : DWord) (ls : List Nat) : (w.advance pc ls).sregs = w.sregs := rfl
@[simp] theorem Warp.advance_preds (w : Warp) (pc : DWord) (ls : List Nat) : (w.advance pc ls).preds = w.preds := rfl
@[simp] theorem Warp.advance_rngSeed (w : Warp) (pc : DWord) (ls : List Nat) : (w.advance pc ls).rngSeed = w.rngSeed := rfl
@[simp] theorem Warp.advance_rng (w : Warp) (pc : DWord) (ls : List Nat) : (w.advance pc ls).rng = w.rng := rfl
@[simp] theorem Warp.advance_handles (w : Warp) (pc : DWord) (ls : List Nat) : (w.advance pc ls).handles = w.handles := rfl
@[simp] theorem Warp.advance_shape (w : Warp) (pc : DWord) (ls : List Nat) : (w.advance pc ls).shape = w.shape := rfl
@[simp] theorem Warp.advance_inHandler (w : Warp) (pc : DWord) (ls : List Nat) : (w.advance pc ls).inHandler = w.inHandler := rfl
@[simp] theorem Warp.advance_trcause (w : Warp) (pc : DWord) (ls : List Nat) : (w.advance pc ls).trcause = w.trcause := rfl
@[simp] theorem Warp.advance_tramask (w : Warp) (pc : DWord) (ls : List Nat) : (w.advance pc ls).tramask = w.tramask := rfl
@[simp] theorem Warp.advance_trfmask (w : Warp) (pc : DWord) (ls : List Nat) : (w.advance pc ls).trfmask = w.trfmask := rfl
@[simp] theorem Warp.advance_trpc (w : Warp) (pc : DWord) (ls : List Nat) : (w.advance pc ls).trpc = w.trpc := rfl
@[simp] theorem Warp.advance_trpcv (w : Warp) (pc : DWord) (ls : List Nat) : (w.advance pc ls).trpcv = w.trpcv := rfl
@[simp] theorem Warp.advance_traddr (w : Warp) (pc : DWord) (ls : List Nat) : (w.advance pc ls).traddr = w.traddr := rfl
@[simp] theorem Warp.advance_trinfo (w : Warp) (pc : DWord) (ls : List Nat) : (w.advance pc ls).trinfo = w.trinfo := rfl
@[simp] theorem Warp.advance_assoc (w : Warp) (pc : DWord) (ls : List Nat) : (w.advance pc ls).assoc = w.assoc := rfl
@[simp] theorem Warp.advance_cvPass (w : Warp) (pc : DWord) (ls : List Nat) : (w.advance pc ls).cvPass = w.cvPass := rfl
@[simp] theorem Warp.advance_rob (w : Warp) (pc : DWord) (ls : List Nat) : (w.advance pc ls).rob = w.rob := rfl
@[simp] theorem Warp.advance_forks (w : Warp) (pc : DWord) (ls : List Nat) : (w.advance pc ls).forks = w.forks := rfl
@[simp] theorem Warp.advance_feeding (w : Warp) (pc : DWord) (ls : List Nat) : (w.advance pc ls).feeding = w.feeding := rfl
@[simp] theorem Warp.advance_evicting (w : Warp) (pc : DWord) (ls : List Nat) : (w.advance pc ls).evicting = w.evicting := rfl

@[simp] theorem Warp.sendTo_wg (w : Warp) (tgt : Tbl DWord) : (w.sendTo tgt).wg = w.wg := rfl
@[simp] theorem Warp.sendTo_widx (w : Warp) (tgt : Tbl DWord) : (w.sendTo tgt).widx = w.widx := rfl
@[simp] theorem Warp.sendTo_lmask (w : Warp) (tgt : Tbl DWord) : (w.sendTo tgt).lmask = w.lmask := rfl
@[simp] theorem Warp.sendTo_exited (w : Warp) (tgt : Tbl DWord) : (w.sendTo tgt).exited = w.exited := rfl
@[simp] theorem Warp.sendTo_pcs (w : Warp) (tgt : Tbl DWord) : (w.sendTo tgt).pcs = tgt.foldl (fun p e => Tbl.set 0 p e.1 e.2) w.pcs := rfl
@[simp] theorem Warp.sendTo_waits (w : Warp) (tgt : Tbl DWord) : (w.sendTo tgt).waits = w.waits := rfl
@[simp] theorem Warp.sendTo_arrived (w : Warp) (tgt : Tbl DWord) : (w.sendTo tgt).arrived = w.arrived := rfl
@[simp] theorem Warp.sendTo_phases (w : Warp) (tgt : Tbl DWord) : (w.sendTo tgt).phases = w.phases := rfl
@[simp] theorem Warp.sendTo_arrSaved (w : Warp) (tgt : Tbl DWord) : (w.sendTo tgt).arrSaved = w.arrSaved := rfl
@[simp] theorem Warp.sendTo_phSaved (w : Warp) (tgt : Tbl DWord) : (w.sendTo tgt).phSaved = w.phSaved := rfl
@[simp] theorem Warp.sendTo_cbarRec (w : Warp) (tgt : Tbl DWord) : (w.sendTo tgt).cbarRec = w.cbarRec := rfl
@[simp] theorem Warp.sendTo_cbarPh (w : Warp) (tgt : Tbl DWord) : (w.sendTo tgt).cbarPh = w.cbarPh := rfl
@[simp] theorem Warp.sendTo_opp (w : Warp) (tgt : Tbl DWord) : (w.sendTo tgt).opp = w.opp := rfl
@[simp] theorem Warp.sendTo_selWait (w : Warp) (tgt : Tbl DWord) : (w.sendTo tgt).selWait = w.selWait := rfl
@[simp] theorem Warp.sendTo_demoted (w : Warp) (tgt : Tbl DWord) : (w.sendTo tgt).demoted = w.demoted := rfl
@[simp] theorem Warp.sendTo_vregs (w : Warp) (tgt : Tbl DWord) : (w.sendTo tgt).vregs = w.vregs := rfl
@[simp] theorem Warp.sendTo_sregs (w : Warp) (tgt : Tbl DWord) : (w.sendTo tgt).sregs = w.sregs := rfl
@[simp] theorem Warp.sendTo_preds (w : Warp) (tgt : Tbl DWord) : (w.sendTo tgt).preds = w.preds := rfl
@[simp] theorem Warp.sendTo_rngSeed (w : Warp) (tgt : Tbl DWord) : (w.sendTo tgt).rngSeed = w.rngSeed := rfl
@[simp] theorem Warp.sendTo_rng (w : Warp) (tgt : Tbl DWord) : (w.sendTo tgt).rng = w.rng := rfl
@[simp] theorem Warp.sendTo_handles (w : Warp) (tgt : Tbl DWord) : (w.sendTo tgt).handles = w.handles := rfl
@[simp] theorem Warp.sendTo_shape (w : Warp) (tgt : Tbl DWord) : (w.sendTo tgt).shape = w.shape := rfl
@[simp] theorem Warp.sendTo_inHandler (w : Warp) (tgt : Tbl DWord) : (w.sendTo tgt).inHandler = w.inHandler := rfl
@[simp] theorem Warp.sendTo_trcause (w : Warp) (tgt : Tbl DWord) : (w.sendTo tgt).trcause = w.trcause := rfl
@[simp] theorem Warp.sendTo_tramask (w : Warp) (tgt : Tbl DWord) : (w.sendTo tgt).tramask = w.tramask := rfl
@[simp] theorem Warp.sendTo_trfmask (w : Warp) (tgt : Tbl DWord) : (w.sendTo tgt).trfmask = w.trfmask := rfl
@[simp] theorem Warp.sendTo_trpc (w : Warp) (tgt : Tbl DWord) : (w.sendTo tgt).trpc = w.trpc := rfl
@[simp] theorem Warp.sendTo_trpcv (w : Warp) (tgt : Tbl DWord) : (w.sendTo tgt).trpcv = w.trpcv := rfl
@[simp] theorem Warp.sendTo_traddr (w : Warp) (tgt : Tbl DWord) : (w.sendTo tgt).traddr = w.traddr := rfl
@[simp] theorem Warp.sendTo_trinfo (w : Warp) (tgt : Tbl DWord) : (w.sendTo tgt).trinfo = w.trinfo := rfl
@[simp] theorem Warp.sendTo_assoc (w : Warp) (tgt : Tbl DWord) : (w.sendTo tgt).assoc = w.assoc := rfl
@[simp] theorem Warp.sendTo_cvPass (w : Warp) (tgt : Tbl DWord) : (w.sendTo tgt).cvPass = w.cvPass := rfl
@[simp] theorem Warp.sendTo_rob (w : Warp) (tgt : Tbl DWord) : (w.sendTo tgt).rob = w.rob := rfl
@[simp] theorem Warp.sendTo_forks (w : Warp) (tgt : Tbl DWord) : (w.sendTo tgt).forks = w.forks := rfl
@[simp] theorem Warp.sendTo_feeding (w : Warp) (tgt : Tbl DWord) : (w.sendTo tgt).feeding = w.feeding := rfl
@[simp] theorem Warp.sendTo_evicting (w : Warp) (tgt : Tbl DWord) : (w.sendTo tgt).evicting = w.evicting := rfl

@[simp] theorem Warp.setV64_wg (w : Warp) (r l : Nat) (x : DWord) : (w.setV64 r l x).wg = w.wg := rfl
@[simp] theorem Warp.setV64_widx (w : Warp) (r l : Nat) (x : DWord) : (w.setV64 r l x).widx = w.widx := rfl
@[simp] theorem Warp.setV64_lmask (w : Warp) (r l : Nat) (x : DWord) : (w.setV64 r l x).lmask = w.lmask := rfl
@[simp] theorem Warp.setV64_exited (w : Warp) (r l : Nat) (x : DWord) : (w.setV64 r l x).exited = w.exited := rfl
@[simp] theorem Warp.setV64_pcs (w : Warp) (r l : Nat) (x : DWord) : (w.setV64 r l x).pcs = w.pcs := rfl
@[simp] theorem Warp.setV64_waits (w : Warp) (r l : Nat) (x : DWord) : (w.setV64 r l x).waits = w.waits := rfl
@[simp] theorem Warp.setV64_arrived (w : Warp) (r l : Nat) (x : DWord) : (w.setV64 r l x).arrived = w.arrived := rfl
@[simp] theorem Warp.setV64_phases (w : Warp) (r l : Nat) (x : DWord) : (w.setV64 r l x).phases = w.phases := rfl
@[simp] theorem Warp.setV64_arrSaved (w : Warp) (r l : Nat) (x : DWord) : (w.setV64 r l x).arrSaved = w.arrSaved := rfl
@[simp] theorem Warp.setV64_phSaved (w : Warp) (r l : Nat) (x : DWord) : (w.setV64 r l x).phSaved = w.phSaved := rfl
@[simp] theorem Warp.setV64_cbarRec (w : Warp) (r l : Nat) (x : DWord) : (w.setV64 r l x).cbarRec = w.cbarRec := rfl
@[simp] theorem Warp.setV64_cbarPh (w : Warp) (r l : Nat) (x : DWord) : (w.setV64 r l x).cbarPh = w.cbarPh := rfl
@[simp] theorem Warp.setV64_opp (w : Warp) (r l : Nat) (x : DWord) : (w.setV64 r l x).opp = w.opp := rfl
@[simp] theorem Warp.setV64_selWait (w : Warp) (r l : Nat) (x : DWord) : (w.setV64 r l x).selWait = w.selWait := rfl
@[simp] theorem Warp.setV64_demoted (w : Warp) (r l : Nat) (x : DWord) : (w.setV64 r l x).demoted = w.demoted := rfl
@[simp] theorem Warp.setV64_sregs (w : Warp) (r l : Nat) (x : DWord) : (w.setV64 r l x).sregs = w.sregs := rfl
@[simp] theorem Warp.setV64_preds (w : Warp) (r l : Nat) (x : DWord) : (w.setV64 r l x).preds = w.preds := rfl
@[simp] theorem Warp.setV64_rngSeed (w : Warp) (r l : Nat) (x : DWord) : (w.setV64 r l x).rngSeed = w.rngSeed := rfl
@[simp] theorem Warp.setV64_rng (w : Warp) (r l : Nat) (x : DWord) : (w.setV64 r l x).rng = w.rng := rfl
@[simp] theorem Warp.setV64_handles (w : Warp) (r l : Nat) (x : DWord) : (w.setV64 r l x).handles = w.handles := rfl
@[simp] theorem Warp.setV64_shape (w : Warp) (r l : Nat) (x : DWord) : (w.setV64 r l x).shape = w.shape := rfl
@[simp] theorem Warp.setV64_inHandler (w : Warp) (r l : Nat) (x : DWord) : (w.setV64 r l x).inHandler = w.inHandler := rfl
@[simp] theorem Warp.setV64_trcause (w : Warp) (r l : Nat) (x : DWord) : (w.setV64 r l x).trcause = w.trcause := rfl
@[simp] theorem Warp.setV64_tramask (w : Warp) (r l : Nat) (x : DWord) : (w.setV64 r l x).tramask = w.tramask := rfl
@[simp] theorem Warp.setV64_trfmask (w : Warp) (r l : Nat) (x : DWord) : (w.setV64 r l x).trfmask = w.trfmask := rfl
@[simp] theorem Warp.setV64_trpc (w : Warp) (r l : Nat) (x : DWord) : (w.setV64 r l x).trpc = w.trpc := rfl
@[simp] theorem Warp.setV64_trpcv (w : Warp) (r l : Nat) (x : DWord) : (w.setV64 r l x).trpcv = w.trpcv := rfl
@[simp] theorem Warp.setV64_traddr (w : Warp) (r l : Nat) (x : DWord) : (w.setV64 r l x).traddr = w.traddr := rfl
@[simp] theorem Warp.setV64_trinfo (w : Warp) (r l : Nat) (x : DWord) : (w.setV64 r l x).trinfo = w.trinfo := rfl
@[simp] theorem Warp.setV64_assoc (w : Warp) (r l : Nat) (x : DWord) : (w.setV64 r l x).assoc = w.assoc := rfl
@[simp] theorem Warp.setV64_cvPass (w : Warp) (r l : Nat) (x : DWord) : (w.setV64 r l x).cvPass = w.cvPass := rfl
@[simp] theorem Warp.setV64_rob (w : Warp) (r l : Nat) (x : DWord) : (w.setV64 r l x).rob = w.rob := rfl
@[simp] theorem Warp.setV64_forks (w : Warp) (r l : Nat) (x : DWord) : (w.setV64 r l x).forks = w.forks := rfl
@[simp] theorem Warp.setV64_feeding (w : Warp) (r l : Nat) (x : DWord) : (w.setV64 r l x).feeding = w.feeding := rfl
@[simp] theorem Warp.setV64_evicting (w : Warp) (r l : Nat) (x : DWord) : (w.setV64 r l x).evicting = w.evicting := rfl

@[simp] theorem Warp.setS64_wg (w : Warp) (r : Nat) (x : DWord) : (w.setS64 r x).wg = w.wg := rfl
@[simp] theorem Warp.setS64_widx (w : Warp) (r : Nat) (x : DWord) : (w.setS64 r x).widx = w.widx := rfl
@[simp] theorem Warp.setS64_lmask (w : Warp) (r : Nat) (x : DWord) : (w.setS64 r x).lmask = w.lmask := rfl
@[simp] theorem Warp.setS64_exited (w : Warp) (r : Nat) (x : DWord) : (w.setS64 r x).exited = w.exited := rfl
@[simp] theorem Warp.setS64_pcs (w : Warp) (r : Nat) (x : DWord) : (w.setS64 r x).pcs = w.pcs := rfl
@[simp] theorem Warp.setS64_waits (w : Warp) (r : Nat) (x : DWord) : (w.setS64 r x).waits = w.waits := rfl
@[simp] theorem Warp.setS64_arrived (w : Warp) (r : Nat) (x : DWord) : (w.setS64 r x).arrived = w.arrived := rfl
@[simp] theorem Warp.setS64_phases (w : Warp) (r : Nat) (x : DWord) : (w.setS64 r x).phases = w.phases := rfl
@[simp] theorem Warp.setS64_arrSaved (w : Warp) (r : Nat) (x : DWord) : (w.setS64 r x).arrSaved = w.arrSaved := rfl
@[simp] theorem Warp.setS64_phSaved (w : Warp) (r : Nat) (x : DWord) : (w.setS64 r x).phSaved = w.phSaved := rfl
@[simp] theorem Warp.setS64_cbarRec (w : Warp) (r : Nat) (x : DWord) : (w.setS64 r x).cbarRec = w.cbarRec := rfl
@[simp] theorem Warp.setS64_cbarPh (w : Warp) (r : Nat) (x : DWord) : (w.setS64 r x).cbarPh = w.cbarPh := rfl
@[simp] theorem Warp.setS64_opp (w : Warp) (r : Nat) (x : DWord) : (w.setS64 r x).opp = w.opp := rfl
@[simp] theorem Warp.setS64_selWait (w : Warp) (r : Nat) (x : DWord) : (w.setS64 r x).selWait = w.selWait := rfl
@[simp] theorem Warp.setS64_demoted (w : Warp) (r : Nat) (x : DWord) : (w.setS64 r x).demoted = w.demoted := rfl
@[simp] theorem Warp.setS64_vregs (w : Warp) (r : Nat) (x : DWord) : (w.setS64 r x).vregs = w.vregs := rfl
@[simp] theorem Warp.setS64_preds (w : Warp) (r : Nat) (x : DWord) : (w.setS64 r x).preds = w.preds := rfl
@[simp] theorem Warp.setS64_rngSeed (w : Warp) (r : Nat) (x : DWord) : (w.setS64 r x).rngSeed = w.rngSeed := rfl
@[simp] theorem Warp.setS64_rng (w : Warp) (r : Nat) (x : DWord) : (w.setS64 r x).rng = w.rng := rfl
@[simp] theorem Warp.setS64_handles (w : Warp) (r : Nat) (x : DWord) : (w.setS64 r x).handles = w.handles := rfl
@[simp] theorem Warp.setS64_shape (w : Warp) (r : Nat) (x : DWord) : (w.setS64 r x).shape = w.shape := rfl
@[simp] theorem Warp.setS64_inHandler (w : Warp) (r : Nat) (x : DWord) : (w.setS64 r x).inHandler = w.inHandler := rfl
@[simp] theorem Warp.setS64_trcause (w : Warp) (r : Nat) (x : DWord) : (w.setS64 r x).trcause = w.trcause := rfl
@[simp] theorem Warp.setS64_tramask (w : Warp) (r : Nat) (x : DWord) : (w.setS64 r x).tramask = w.tramask := rfl
@[simp] theorem Warp.setS64_trfmask (w : Warp) (r : Nat) (x : DWord) : (w.setS64 r x).trfmask = w.trfmask := rfl
@[simp] theorem Warp.setS64_trpc (w : Warp) (r : Nat) (x : DWord) : (w.setS64 r x).trpc = w.trpc := rfl
@[simp] theorem Warp.setS64_trpcv (w : Warp) (r : Nat) (x : DWord) : (w.setS64 r x).trpcv = w.trpcv := rfl
@[simp] theorem Warp.setS64_traddr (w : Warp) (r : Nat) (x : DWord) : (w.setS64 r x).traddr = w.traddr := rfl
@[simp] theorem Warp.setS64_trinfo (w : Warp) (r : Nat) (x : DWord) : (w.setS64 r x).trinfo = w.trinfo := rfl
@[simp] theorem Warp.setS64_assoc (w : Warp) (r : Nat) (x : DWord) : (w.setS64 r x).assoc = w.assoc := rfl
@[simp] theorem Warp.setS64_cvPass (w : Warp) (r : Nat) (x : DWord) : (w.setS64 r x).cvPass = w.cvPass := rfl
@[simp] theorem Warp.setS64_rob (w : Warp) (r : Nat) (x : DWord) : (w.setS64 r x).rob = w.rob := rfl
@[simp] theorem Warp.setS64_forks (w : Warp) (r : Nat) (x : DWord) : (w.setS64 r x).forks = w.forks := rfl
@[simp] theorem Warp.setS64_feeding (w : Warp) (r : Nat) (x : DWord) : (w.setS64 r x).feeding = w.feeding := rfl
@[simp] theorem Warp.setS64_evicting (w : Warp) (r : Nat) (x : DWord) : (w.setS64 r x).evicting = w.evicting := rfl

@[simp] theorem Warp.retireHead_wg (w : Warp) (mask : LaneMask) : (w.retireHead mask).wg = w.wg := rfl
@[simp] theorem Warp.retireHead_widx (w : Warp) (mask : LaneMask) : (w.retireHead mask).widx = w.widx := rfl
@[simp] theorem Warp.retireHead_lmask (w : Warp) (mask : LaneMask) : (w.retireHead mask).lmask = w.lmask := rfl
@[simp] theorem Warp.retireHead_exited (w : Warp) (mask : LaneMask) : (w.retireHead mask).exited = w.exited := rfl
@[simp] theorem Warp.retireHead_pcs (w : Warp) (mask : LaneMask) : (w.retireHead mask).pcs = w.pcs := rfl
@[simp] theorem Warp.retireHead_waits (w : Warp) (mask : LaneMask) : (w.retireHead mask).waits = (lanesOf mask).foldl (fun t l => Tbl.del t l) w.waits := rfl
@[simp] theorem Warp.retireHead_arrived (w : Warp) (mask : LaneMask) : (w.retireHead mask).arrived = w.arrived &&& ~~~mask := rfl
@[simp] theorem Warp.retireHead_phases (w : Warp) (mask : LaneMask) : (w.retireHead mask).phases = w.phases := rfl
@[simp] theorem Warp.retireHead_arrSaved (w : Warp) (mask : LaneMask) : (w.retireHead mask).arrSaved = w.arrSaved := rfl
@[simp] theorem Warp.retireHead_phSaved (w : Warp) (mask : LaneMask) : (w.retireHead mask).phSaved = w.phSaved := rfl
@[simp] theorem Warp.retireHead_cbarRec (w : Warp) (mask : LaneMask) : (w.retireHead mask).cbarRec = w.cbarRec := rfl
@[simp] theorem Warp.retireHead_cbarPh (w : Warp) (mask : LaneMask) : (w.retireHead mask).cbarPh = w.cbarPh := rfl
@[simp] theorem Warp.retireHead_opp (w : Warp) (mask : LaneMask) : (w.retireHead mask).opp = (w.readied (lanesOf mask)).opp := rfl
@[simp] theorem Warp.retireHead_selWait (w : Warp) (mask : LaneMask) : (w.retireHead mask).selWait = (w.readied (lanesOf mask)).selWait := rfl
@[simp] theorem Warp.retireHead_demoted (w : Warp) (mask : LaneMask) : (w.retireHead mask).demoted = w.demoted := rfl
@[simp] theorem Warp.retireHead_vregs (w : Warp) (mask : LaneMask) : (w.retireHead mask).vregs = w.vregs := rfl
@[simp] theorem Warp.retireHead_sregs (w : Warp) (mask : LaneMask) : (w.retireHead mask).sregs = w.sregs := rfl
@[simp] theorem Warp.retireHead_preds (w : Warp) (mask : LaneMask) : (w.retireHead mask).preds = w.preds := rfl
@[simp] theorem Warp.retireHead_rngSeed (w : Warp) (mask : LaneMask) : (w.retireHead mask).rngSeed = w.rngSeed := rfl
@[simp] theorem Warp.retireHead_rng (w : Warp) (mask : LaneMask) : (w.retireHead mask).rng = w.rng := rfl
@[simp] theorem Warp.retireHead_handles (w : Warp) (mask : LaneMask) : (w.retireHead mask).handles = w.handles := rfl
@[simp] theorem Warp.retireHead_shape (w : Warp) (mask : LaneMask) : (w.retireHead mask).shape = w.shape := rfl
@[simp] theorem Warp.retireHead_inHandler (w : Warp) (mask : LaneMask) : (w.retireHead mask).inHandler = w.inHandler := rfl
@[simp] theorem Warp.retireHead_trcause (w : Warp) (mask : LaneMask) : (w.retireHead mask).trcause = w.trcause := rfl
@[simp] theorem Warp.retireHead_tramask (w : Warp) (mask : LaneMask) : (w.retireHead mask).tramask = w.tramask := rfl
@[simp] theorem Warp.retireHead_trfmask (w : Warp) (mask : LaneMask) : (w.retireHead mask).trfmask = w.trfmask := rfl
@[simp] theorem Warp.retireHead_trpc (w : Warp) (mask : LaneMask) : (w.retireHead mask).trpc = w.trpc := rfl
@[simp] theorem Warp.retireHead_trpcv (w : Warp) (mask : LaneMask) : (w.retireHead mask).trpcv = w.trpcv := rfl
@[simp] theorem Warp.retireHead_traddr (w : Warp) (mask : LaneMask) : (w.retireHead mask).traddr = w.traddr := rfl
@[simp] theorem Warp.retireHead_trinfo (w : Warp) (mask : LaneMask) : (w.retireHead mask).trinfo = w.trinfo := rfl
@[simp] theorem Warp.retireHead_assoc (w : Warp) (mask : LaneMask) : (w.retireHead mask).assoc = w.assoc := rfl
@[simp] theorem Warp.retireHead_cvPass (w : Warp) (mask : LaneMask) : (w.retireHead mask).cvPass = false := rfl
@[simp] theorem Warp.retireHead_rob (w : Warp) (mask : LaneMask) : (w.retireHead mask).rob = w.rob.tail := rfl
@[simp] theorem Warp.retireHead_forks (w : Warp) (mask : LaneMask) : (w.retireHead mask).forks = w.forks := rfl
@[simp] theorem Warp.retireHead_feeding (w : Warp) (mask : LaneMask) : (w.retireHead mask).feeding = w.feeding := rfl
@[simp] theorem Warp.retireHead_evicting (w : Warp) (mask : LaneMask) : (w.retireHead mask).evicting = w.evicting := rfl
@[simp] theorem Warp.setP_wg (w : Warp) (p l : Nat) (b : Bool) : (w.setP p l b).wg = w.wg := by
  unfold Warp.setP; split <;> rfl
@[simp] theorem Warp.setP_widx (w : Warp) (p l : Nat) (b : Bool) : (w.setP p l b).widx = w.widx := by
  unfold Warp.setP; split <;> rfl
@[simp] theorem Warp.setP_lmask (w : Warp) (p l : Nat) (b : Bool) : (w.setP p l b).lmask = w.lmask := by
  unfold Warp.setP; split <;> rfl
@[simp] theorem Warp.setP_exited (w : Warp) (p l : Nat) (b : Bool) : (w.setP p l b).exited = w.exited := by
  unfold Warp.setP; split <;> rfl
@[simp] theorem Warp.setP_pcs (w : Warp) (p l : Nat) (b : Bool) : (w.setP p l b).pcs = w.pcs := by
  unfold Warp.setP; split <;> rfl
@[simp] theorem Warp.setP_waits (w : Warp) (p l : Nat) (b : Bool) : (w.setP p l b).waits = w.waits := by
  unfold Warp.setP; split <;> rfl
@[simp] theorem Warp.setP_arrived (w : Warp) (p l : Nat) (b : Bool) : (w.setP p l b).arrived = w.arrived := by
  unfold Warp.setP; split <;> rfl
@[simp] theorem Warp.setP_phases (w : Warp) (p l : Nat) (b : Bool) : (w.setP p l b).phases = w.phases := by
  unfold Warp.setP; split <;> rfl
@[simp] theorem Warp.setP_arrSaved (w : Warp) (p l : Nat) (b : Bool) : (w.setP p l b).arrSaved = w.arrSaved := by
  unfold Warp.setP; split <;> rfl
@[simp] theorem Warp.setP_phSaved (w : Warp) (p l : Nat) (b : Bool) : (w.setP p l b).phSaved = w.phSaved := by
  unfold Warp.setP; split <;> rfl
@[simp] theorem Warp.setP_cbarRec (w : Warp) (p l : Nat) (b : Bool) : (w.setP p l b).cbarRec = w.cbarRec := by
  unfold Warp.setP; split <;> rfl
@[simp] theorem Warp.setP_cbarPh (w : Warp) (p l : Nat) (b : Bool) : (w.setP p l b).cbarPh = w.cbarPh := by
  unfold Warp.setP; split <;> rfl
@[simp] theorem Warp.setP_opp (w : Warp) (p l : Nat) (b : Bool) : (w.setP p l b).opp = w.opp := by
  unfold Warp.setP; split <;> rfl
@[simp] theorem Warp.setP_selWait (w : Warp) (p l : Nat) (b : Bool) : (w.setP p l b).selWait = w.selWait := by
  unfold Warp.setP; split <;> rfl
@[simp] theorem Warp.setP_demoted (w : Warp) (p l : Nat) (b : Bool) : (w.setP p l b).demoted = w.demoted := by
  unfold Warp.setP; split <;> rfl
@[simp] theorem Warp.setP_vregs (w : Warp) (p l : Nat) (b : Bool) : (w.setP p l b).vregs = w.vregs := by
  unfold Warp.setP; split <;> rfl
@[simp] theorem Warp.setP_sregs (w : Warp) (p l : Nat) (b : Bool) : (w.setP p l b).sregs = w.sregs := by
  unfold Warp.setP; split <;> rfl
@[simp] theorem Warp.setP_rngSeed (w : Warp) (p l : Nat) (b : Bool) : (w.setP p l b).rngSeed = w.rngSeed := by
  unfold Warp.setP; split <;> rfl
@[simp] theorem Warp.setP_rng (w : Warp) (p l : Nat) (b : Bool) : (w.setP p l b).rng = w.rng := by
  unfold Warp.setP; split <;> rfl
@[simp] theorem Warp.setP_handles (w : Warp) (p l : Nat) (b : Bool) : (w.setP p l b).handles = w.handles := by
  unfold Warp.setP; split <;> rfl
@[simp] theorem Warp.setP_shape (w : Warp) (p l : Nat) (b : Bool) : (w.setP p l b).shape = w.shape := by
  unfold Warp.setP; split <;> rfl
@[simp] theorem Warp.setP_inHandler (w : Warp) (p l : Nat) (b : Bool) : (w.setP p l b).inHandler = w.inHandler := by
  unfold Warp.setP; split <;> rfl
@[simp] theorem Warp.setP_trcause (w : Warp) (p l : Nat) (b : Bool) : (w.setP p l b).trcause = w.trcause := by
  unfold Warp.setP; split <;> rfl
@[simp] theorem Warp.setP_tramask (w : Warp) (p l : Nat) (b : Bool) : (w.setP p l b).tramask = w.tramask := by
  unfold Warp.setP; split <;> rfl
@[simp] theorem Warp.setP_trfmask (w : Warp) (p l : Nat) (b : Bool) : (w.setP p l b).trfmask = w.trfmask := by
  unfold Warp.setP; split <;> rfl
@[simp] theorem Warp.setP_trpc (w : Warp) (p l : Nat) (b : Bool) : (w.setP p l b).trpc = w.trpc := by
  unfold Warp.setP; split <;> rfl
@[simp] theorem Warp.setP_trpcv (w : Warp) (p l : Nat) (b : Bool) : (w.setP p l b).trpcv = w.trpcv := by
  unfold Warp.setP; split <;> rfl
@[simp] theorem Warp.setP_traddr (w : Warp) (p l : Nat) (b : Bool) : (w.setP p l b).traddr = w.traddr := by
  unfold Warp.setP; split <;> rfl
@[simp] theorem Warp.setP_trinfo (w : Warp) (p l : Nat) (b : Bool) : (w.setP p l b).trinfo = w.trinfo := by
  unfold Warp.setP; split <;> rfl
@[simp] theorem Warp.setP_assoc (w : Warp) (p l : Nat) (b : Bool) : (w.setP p l b).assoc = w.assoc := by
  unfold Warp.setP; split <;> rfl
@[simp] theorem Warp.setP_cvPass (w : Warp) (p l : Nat) (b : Bool) : (w.setP p l b).cvPass = w.cvPass := by
  unfold Warp.setP; split <;> rfl
@[simp] theorem Warp.setP_rob (w : Warp) (p l : Nat) (b : Bool) : (w.setP p l b).rob = w.rob := by
  unfold Warp.setP; split <;> rfl
@[simp] theorem Warp.setP_forks (w : Warp) (p l : Nat) (b : Bool) : (w.setP p l b).forks = w.forks := by
  unfold Warp.setP; split <;> rfl
@[simp] theorem Warp.setP_feeding (w : Warp) (p l : Nat) (b : Bool) : (w.setP p l b).feeding = w.feeding := by
  unfold Warp.setP; split <;> rfl
@[simp] theorem Warp.setP_evicting (w : Warp) (p l : Nat) (b : Bool) : (w.setP p l b).evicting = w.evicting := by
  unfold Warp.setP; split <;> rfl

end Sys2Proof.Machine
end

