-- ==== Sys2Proof/Laws/Memory.lean ====
section
/-!
SUPPORT. Laws/Memory.lean: reads after writes of bytes, that a write leaves every other byte alone, and that every operation
that stores to a memory keeps the canonical form.
-/

namespace Sys2Proof.Machine

/-! ## Bytes -/

theorem writeBytes_wf {m : Memory} (a : Nat) (bs : List Byte) (h : Memory.wf m = true) : Memory.wf (writeBytes m a bs) = true := by
  induction bs generalizing m a with
  | nil => exact h
  | cons b bs ih => exact ih (a + 1) (Tbl.wf_set 0 a b h)

/-- A byte after a write: the byte written there, or the byte as it was. -/
theorem get_writeBytes {m : Memory} (a : Nat) (bs : List Byte) (j : Nat) (h : Memory.wf m = true) :
    Tbl.get 0 (writeBytes m a bs) j = if a ≤ j ∧ j < a + bs.length then bs.getD (j - a) 0 else Tbl.get 0 m j := by
  induction bs generalizing m a with
  | nil =>
    have : ¬ (a ≤ j ∧ j < a + ([] : List Byte).length) := by simp only [List.length_nil]; omega
    rw [if_neg this]; rfl
  | cons b bs ih =>
    rw [writeBytes, ih (a + 1) (Tbl.wf_set 0 a b h), Tbl.get_set 0 a j b h]
    simp only [List.length_cons]
    by_cases hj : j = a
    · subst hj
      have h1 : ¬ (j + 1 ≤ j ∧ j < j + 1 + bs.length) := by omega
      rw [if_neg h1, if_pos rfl, if_pos (by omega)]; simp
    · by_cases hr : a + 1 ≤ j ∧ j < a + 1 + bs.length
      · rw [if_pos hr, if_pos (by omega), show j - a = (j - (a + 1)) + 1 by omega, List.getD_cons_succ]
      · rw [if_neg hr, if_neg hj, if_neg (by omega)]

@[simp] theorem readBytes_length (m : Memory) (a n : Nat) : (readBytes m a n).length = n := by simp [readBytes]

/-- What was written is read. -/
theorem readBytes_writeBytes_self {m : Memory} (a : Nat) (bs : List Byte) (h : Memory.wf m = true) :
    readBytes (writeBytes m a bs) a bs.length = bs := by
  apply List.ext_getElem
  · simp
  · intro i h1 h2
    simp only [readBytes, List.getElem_map, List.getElem_range]
    rw [get_writeBytes a bs _ h, if_pos (by omega), Nat.add_sub_cancel_left, List.getD_eq_getElem _ _ h2]

/-- A write elsewhere leaves what is read. -/
theorem readBytes_writeBytes_of_disjoint {m : Memory} (a : Nat) (bs : List Byte) (b n : Nat) (h : Memory.wf m = true)
    (hd : b + n ≤ a ∨ a + bs.length ≤ b) : readBytes (writeBytes m a bs) b n = readBytes m b n := by
  apply List.map_congr_left
  intro i hi
  rw [List.mem_range] at hi
  rw [get_writeBytes a bs _ h, if_neg (by omega)]

@[simp] theorem leBytes_length (n v : Nat) : (leBytes n v).length = n := by simp [leBytes]

theorem leBytes_succ (n v : Nat) : leBytes (n + 1) v = BitVec.ofNat 8 v :: leBytes n (v / 256) := by
  simp [leBytes, List.range_succ_eq_map, Function.comp_def, Nat.pow_succ', Nat.div_div_eq_div_mul]

/-- Bytes of a number give the number back, as far as they reach. -/
theorem leNat_leBytes (n v : Nat) : leNat (leBytes n v) = v % 256 ^ n := by
  induction n generalizing v with
  | zero => simp [leBytes, leNat, Nat.mod_one]
  | succ n ih =>
    rw [leBytes_succ, show leNat (BitVec.ofNat 8 v :: leBytes n (v / 256)) = (BitVec.ofNat 8 v).toNat + 256 * leNat (leBytes n (v / 256)) from rfl,
      ih, Nat.pow_succ', Nat.mod_mul]
    simp

/-- A number that was written is read. -/
theorem readLe_writeBytes_self {m : Memory} (a n v : Nat) (h : Memory.wf m = true) :
    readLe (writeBytes m a (leBytes n v)) a n = v % 256 ^ n := by
  have := readBytes_writeBytes_self a (leBytes n v) h
  rw [leBytes_length] at this
  rw [readLe, this, leNat_leBytes]

theorem readBytes_nil (a n : Nat) : readBytes [] a n = List.replicate n 0 := by
  apply List.ext_getElem
  · simp
  · intro i h1 h2
    simp [readBytes, Tbl.get]

/-! ## Canonical memories -/

/-- A fold keeps what each of its steps keeps. -/
theorem foldl_canonical {α : Type} (f : State → α → State) (hf : ∀ s a, s.canonical → (f s a).canonical) (l : List α) {s : State}
    (h : s.canonical) : (l.foldl f s).canonical := by
  induction l generalizing s with
  | nil => exact h
  | cons a l ih => exact ih (hf s a h)

/-- Tables of bytes that a fold writes keep the canonical form. -/
theorem foldl_wf {α : Type} (f : Memory → α → Memory) (hf : ∀ m a, Memory.wf m = true → Memory.wf (f m a) = true) (l : List α)
    {m : Memory} (h : Memory.wf m = true) : Memory.wf (l.foldl f m) = true := by
  induction l generalizing m with
  | nil => exact h
  | cons a l ih => exact ih (hf m a h)

/-- A state with the six memories of a canonical one is canonical. -/
theorem State.canonical_of_eq {s t : State} (h : s.canonical) (h1 : t.mem = s.mem) (h2 : t.hostMem = s.hostMem)
    (h3 : t.peerMem = s.peerMem) (h4 : t.scr = s.scr) (h5 : t.tiles = s.tiles) (h6 : t.banks = s.banks) : t.canonical := by
  unfold State.canonical; rw [h1, h2, h3, h4, h5, h6]; exact h

theorem State.canonical_reset : State.reset.canonical := by decide

theorem State.canonical_setWarp {s : State} (core slot : Nat) (w : Warp) (h : s.canonical) : (s.setWarp core slot w).canonical := h

theorem State.canonical_modWarp {s : State} (core slot : Nat) (f : Warp → Warp) (h : s.canonical) :
    (s.modWarp core slot f).canonical := by
  unfold State.modWarp
  split
  · exact h
  · exact h

theorem State.canonical_commit {s : State} (w : InFlight) (h : s.canonical) : (s.commit w).canonical := by
  obtain ⟨hm, h⟩ := h
  refine ⟨?_, h⟩
  unfold State.commit
  split <;> simp only [writeBytes_wf, hm]

theorem State.canonical_drain {s : State} (p : InFlight → Bool) (h : s.canonical) : (s.drain p).canonical :=
  show (List.foldl State.commit s (splitDue (s.unitDue p) s.writes).1).canonical from
    foldl_canonical _ (fun _ w hs => State.canonical_commit w hs) _ h

theorem State.canonical_drainDie {s : State} (die : Nat) (h : s.canonical) : (s.drainDie die).canonical := s.canonical_drain _ h

theorem State.canonical_writeHome {s : State} (die pa : Nat) (mir : Option Nat) (bs : List Byte) (h : s.canonical) :
    (s.writeHome die pa mir bs).canonical := State.canonical_commit _ (State.canonical_drain _ h)

theorem State.canonical_touch {s : State} (core a n : Nat) (h : s.canonical) : (s.touch core a n).canonical := by
  unfold State.touch
  exact foldl_canonical (fun (s : State) (i : Nat) => s.touchSeg core (a / 2048 + i)) (fun _ _ hs => hs) _ h

theorem State.canonical_touchTile {s : State} (core t : Nat) (h : s.canonical) : (s.touchTile core t).canonical :=
  foldl_canonical (fun (s : State) (i : Nat) => s.touchSeg core (512 + 6 * t + i)) (fun _ _ hs => hs) _ h

theorem State.canonical_touchBanks {s : State} (core : Nat) (bs : List Nat) (h : s.canonical) : (s.touchBanks core bs).canonical := by
  unfold State.touchBanks
  exact foldl_canonical (fun (s : State) (b : Nat) => s.touchSeg core (896 + b)) (fun _ _ hs => hs) _ h

theorem State.canonical_touchVec {s : State} (core slot : Nat) (h : s.canonical) : (s.touchVec core slot).canonical := by
  unfold State.touchVec
  exact foldl_canonical (fun (s : State) (e : Nat × RetSt) => s.touchSeg core (e.1 % 2048)) (fun _ _ hs => hs) _ h

theorem State.canonical_touchWarp {s : State} (core slot : Nat) (h : s.canonical) : (s.touchWarp core slot).canonical := by
  unfold State.touchWarp
  exact State.canonical_touchVec _ _ (State.canonical_touchBanks _ _
    (foldl_canonical (fun (s : State) (t : Nat) => s.touchTile core t) (fun _ t hs => State.canonical_touchTile core t hs) _ h))

/-- Noting an access leaves the scratchpad as it was. -/
theorem State.touch_scr (s : State) (core a n : Nat) : (s.touch core a n).scr = s.scr := by
  unfold State.touch
  exact List.foldlRecOn (motive := fun t : State => t.scr = s.scr) _ _ rfl (fun _ ht _ _ => ht)

theorem State.canonical_scrWrite {s : State} (core a : Nat) (bs : List Byte) (h : s.canonical) : (s.scrWrite core a bs).canonical := by
  obtain ⟨h1, h2, h3, h4, h5⟩ := State.canonical_touch core a bs.length h
  exact ⟨h1, h2, h3, writeBytes_wf _ _ h.2.2.2.1, h5⟩

theorem State.canonical_hostWrite {s : State} (port a : Nat) (bs : List Byte) (h : s.canonical) : (s.hostWrite port a bs).canonical :=
  ⟨h.1, writeBytes_wf _ _ h.2.1, h.2.2⟩

theorem State.canonical_peerWrite {s : State} (rank va : Nat) (bs : List Byte) (h : s.canonical) : (s.peerWrite rank va bs).canonical :=
  ⟨h.1, h.2.1, writeBytes_wf _ _ h.2.2.1, h.2.2.2⟩

theorem State.canonical_tileWrite {s : State} (t off : Nat) (bs : List Byte) (h : s.canonical) : (s.tileWrite t off bs).canonical :=
  ⟨h.1, h.2.1, h.2.2.1, h.2.2.2.1, writeBytes_wf _ _ h.2.2.2.2.1, h.2.2.2.2.2⟩

theorem State.canonical_accPut {s : State} (core : Nat) (banks : List Nat) (i v : Nat) (h : s.canonical) :
    (s.accPut core banks i v).canonical :=
  ⟨h.1, h.2.1, h.2.2.1, h.2.2.2.1, h.2.2.2.2.1, writeBytes_wf _ _ h.2.2.2.2.2⟩

/-- Clearing part of a memory keeps the form. -/
theorem clear_wf {m : Memory} (lo n : Nat) (h : Memory.wf m = true) : Memory.wf (Tbl.clear m lo n) = true := Tbl.wf_clear 0 lo n h

theorem startBlock_wf (free ctx : Nat) {t : Memory} (own : Tbl Nat) (k n : Nat) (h : Memory.wf t = true) :
    Memory.wf (startBlock free ctx t own k n).1 = true := by
  unfold startBlock
  dsimp only
  split
  · exact h
  · split
    · split
      · exact h
      · exact clear_wf _ _ h
    · exact clear_wf _ _ h

theorem State.canonical_startScratch {s : State} (core ctx blk n : Nat) (h : s.canonical) : (s.startScratch core ctx blk n).canonical := by
  refine foldl_canonical _ (fun s i hs => ?_) _ (State.canonical_touch _ _ _ h)
  exact ⟨hs.1, hs.2.1, hs.2.2.1, startBlock_wf _ _ _ _ _ hs.2.2.2.1, hs.2.2.2.2⟩

theorem State.canonical_startTiles {s : State} (core ctx : Nat) (ts : List Nat) (h : s.canonical) : (s.startTiles core ctx ts).canonical := by
  refine foldl_canonical _ (fun s i hs => ?_) _ h
  exact ⟨hs.1, hs.2.1, hs.2.2.1, hs.2.2.2.1, startBlock_wf _ _ _ _ _ hs.2.2.2.2.1, hs.2.2.2.2.2⟩

theorem State.canonical_seatWarp {s : State} (core slot ctx : Nat) (w : Warp) (p : Packet) (tiles banks : Tbl Byte) (h : s.canonical) :
    (s.seatWarp core slot ctx w p tiles banks).canonical :=
  State.canonical_touchWarp _ _ ⟨h.1, h.2.1, h.2.2.1, h.2.2.2.1, foldl_wf _ (fun _ _ hm => writeBytes_wf _ _ hm) _ h.2.2.2.2.1,
    foldl_wf _ (fun _ _ hm => writeBytes_wf _ _ hm) _ h.2.2.2.2.2⟩

theorem State.canonical_putAt {s : State} (pl : Nat × Option Nat) (bs : List Byte) (h : s.canonical) : (s.putAt pl bs).canonical := by
  obtain ⟨hm, h⟩ := h
  refine ⟨?_, h⟩
  unfold State.putAt
  dsimp only
  split
  · exact writeBytes_wf _ _ (writeBytes_wf _ _ hm)
  · exact writeBytes_wf _ _ hm

/-! ## Mailbox events -/

theorem State.canonical_postEvent {s : State} (a b c d e : Nat) (h : s.canonical) : (s.postEvent a b c d e).canonical := h

theorem State.canonical_bump {s : State} (die k v : Nat) (core : Option Nat) (h : s.canonical) : (s.bump die k v core).canonical := by
  unfold State.bump
  dsimp only
  split
  · exact h
  · split
    · have hp := State.canonical_postEvent 4 0 die k v
        (s := { s with cnt := Tbl.set 0 s.cnt (8 * die + k) (s.counter die k + 1) }) h
      split
      · split <;> exact hp
      · exact hp
    · exact h

theorem State.canonical_checkLine {s t : State} (die pa : Nat) (mir : Option Nat) (h : s.canonical) (ht : s.checkLine die pa mir = .ok t) :
    t.canonical := by
  unfold State.checkLine at ht
  dsimp only at ht
  split at ht
  · cases ht; exact h
  · split at ht
    · cases ht
    · split at ht
      · cases ht
      · cases ht
        exact State.canonical_bump _ _ _ _ ⟨writeBytes_wf _ _ h.1, h.2⟩

theorem State.canonical_checkReads {s t : State} (cs : List Chunk) (h : s.canonical) (ht : s.checkReads cs = .ok t) : t.canonical := by
  unfold State.checkReads at ht
  refine List.foldlRecOn (motive := fun acc : Except CFault State => ∀ t, acc = .ok t → t.canonical) _ _
    (fun t ht => by cases ht; exact h) (fun acc hacc c _ t ht => ?_) t ht
  split at ht
  · cases ht
  · split at ht
    · split at ht
      · cases ht
      · cases ht; exact State.canonical_checkLine _ _ _ (hacc _ rfl) ‹_›
    · cases ht; exact hacc _ rfl

/-! ## Accesses -/

theorem State.canonical_l1Update {s : State} (core pa : Nat) (bs : List Byte) (h : s.canonical) : (s.l1Update core pa bs).canonical := h

theorem State.canonical_l1Drop {s : State} (core line : Nat) (h : s.canonical) : (s.l1Drop core line).canonical := h

theorem State.canonical_l1Flush {s : State} (core : Nat) (h : s.canonical) : (s.l1Flush core).canonical := h

theorem State.canonical_l1Read {s : State} (core die pa n : Nat) (alloc : Bool) (h : s.canonical) :
    (s.l1Read core die pa n alloc).1.canonical := by
  unfold State.l1Read
  dsimp only
  split
  · split <;> exact h
  · split
    · exact h
    · split <;> exact h

theorem State.canonical_tilicAt {s : State} (port : Nat) (pkt : TilicPkt) (h : s.canonical) : (s.tilicAt port pkt).canonical := by
  unfold State.tilicAt
  split
  · split <;> exact h
  · exact h

theorem State.canonical_tilic {s : State} (die rank : Nat) (pkt : TilicPkt) (h : s.canonical) : (s.tilic die rank pkt).canonical := by
  unfold State.tilic
  split
  · exact State.canonical_tilicAt _ _ h
  · exact h

theorem State.canonical_sendPeer {s : State} (q : PeerReq) (h : s.canonical) : (s.sendPeer q).canonical := by
  unfold State.sendPeer
  split
  · exact h
  · exact State.canonical_tilic _ _ _ h

/-- A request to a peer changes no memory of this package. -/
theorem State.canonical_askPeer {s : State} (core die rank : Nat) (write : Bool) (pkt : TilicPkt) (h : s.canonical) :
    (s.askPeer core die rank write pkt).canonical := by
  unfold State.askPeer State.egress
  exact foldl_canonical State.sendPeer (fun _ _ hs => State.canonical_sendPeer _ hs) _ h

theorem State.canonical_toPeer {s : State} (core die rank ctx va : Nat) (pkt : TilicPkt) (bs : List Byte) (h : s.canonical) :
    (s.toPeer core die rank ctx va pkt bs).canonical := by
  unfold State.toPeer
  split
  · exact h
  · exact State.canonical_peerWrite _ _ _ (State.canonical_askPeer _ _ _ _ _ h)

theorem State.canonical_readChunk {s : State} (core die : Nat) (u : L1Use) (c : Chunk) (h : s.canonical) :
    (s.readChunk core die u c).1.canonical := by
  unfold State.readChunk
  split
  · split
    · exact h
    · split
      · exact State.canonical_l1Read _ _ _ _ _ h
      · exact h
  · exact h
  · exact State.canonical_askPeer _ _ _ _ _ h

theorem State.canonical_writeChunk {s : State} (id ctx agent die : Nat) (core : Option Nat) (so : Bool) (c : Chunk) (bs : List Byte)
    (h : s.canonical) : (s.writeChunk id ctx agent die core so c bs).canonical := by
  unfold State.writeChunk
  split
  · dsimp only
    split
    · split
      · exact State.canonical_writeHome _ _ _ _ h
      · exact State.canonical_writeHome _ _ _ _ h
    · split <;> exact h
  · exact State.canonical_hostWrite _ _ _ h
  · exact State.canonical_toPeer _ _ _ _ _ _ _ h

theorem State.canonical_writeChunks {s : State} (id ctx agent die : Nat) (core : Option Nat) (so : Bool) (cs : List Chunk) (bs : List Byte)
    (h : s.canonical) : (s.writeChunks id ctx agent die core so cs bs).canonical := by
  induction cs generalizing s bs with
  | nil => exact h
  | cons c cs ih => exact ih _ (State.canonical_writeChunk _ _ _ _ _ _ _ _ h)

theorem State.canonical_homeRead {s : State} (die : Nat) (c : Chunk) (h : s.canonical) : (s.homeRead die c).1.canonical := by
  unfold State.homeRead
  split
  · exact State.canonical_drain _ h
  · exact h
  · exact h

theorem State.canonical_homeWrite {s : State} (die : Nat) (core : Option Nat) (c : Chunk) (bs : List Byte) (agent : Nat)
    (ask : Option RmwReq) (h : s.canonical) : (s.homeWrite die core c bs agent ask).canonical := by
  unfold State.homeWrite
  split
  · dsimp only
    split <;> exact State.canonical_writeHome _ _ _ _ h
  · exact State.canonical_hostWrite _ _ _ h
  · exact State.canonical_toPeer _ _ _ _ _ _ _ h

end Sys2Proof.Machine
end

