-- ==== Sys2Proof/Laws/Registers.lean ====
section
/-!
SUPPORT. Laws/Registers.lean: reads after writes of a warp's registers, and what writing every lane of a mask does.
-/

namespace Sys2Proof.Machine

/-! ## Lanes -/

@[simp] theorem mem_lanesOf {m : LaneMask} {l : Nat} : l ∈ lanesOf m ↔ l < 32 ∧ m.getLsbD l = true := by
  simp [lanesOf]

theorem lanesOf_nodup (m : LaneMask) : (lanesOf m).Nodup := List.Nodup.filter _ List.nodup_range

/-! ## One write -/

theorem Warp.v_setV {w : Warp} (hw : Tbl.wf 0 w.vregs = true) {r l r' l' : Nat} (x : Word) (hl : l < 32) (hl' : l' < 32) :
    (w.setV r l x).v r' l' = if r' = r ∧ l' = l then x else w.v r' l' := by
  simp only [Warp.v, Warp.setV_vregs, Tbl.get_set _ _ _ _ hw]
  have : 32 * r' + l' = 32 * r + l ↔ r' = r ∧ l' = l := by omega
  simp only [this]

theorem Warp.s_setS {w : Warp} (hw : Tbl.wf 0 w.sregs = true) (r r' : Nat) (x : Word) :
    (w.setS r x).s r' = if r' = r then x else w.s r' := by
  simp only [Warp.s, Warp.setS_sregs, Tbl.get_set _ _ _ _ hw]

theorem Warp.wf_setV {w : Warp} (hw : Tbl.wf 0 w.vregs = true) (r l : Nat) (x : Word) :
    Tbl.wf 0 (w.setV r l x).vregs = true := Tbl.wf_set _ _ _ hw

theorem Warp.wf_setS {w : Warp} (hw : Tbl.wf 0 w.sregs = true) (r : Nat) (x : Word) :
    Tbl.wf 0 (w.setS r x).sregs = true := Tbl.wf_set _ _ _ hw

theorem Warp.wf_setP {w : Warp} (hw : Tbl.wf 0 w.preds = true) (p l : Nat) (b : Bool) :
    Tbl.wf 0 (w.setP p l b).preds = true := by
  unfold Warp.setP
  split
  · exact hw
  · exact Tbl.wf_set _ _ _ hw

theorem lane_bit (l : Nat) {l' : Nat} (hl' : l' < 32) : (BitVec.ofNat 32 (2 ^ l)).getLsbD l' = decide (l' = l) := by
  simp only [BitVec.getLsbD_ofNat, hl', decide_true, Bool.true_and, Nat.testBit_two_pow]
  simp [eq_comm]

/-- A predicate after a write in one lane; p7 keeps reading true (R33). -/
theorem Warp.p_setP {w : Warp} (hw : Tbl.wf 0 w.preds = true) {p l q l' : Nat} (b : Bool) (hl' : l' < 32) :
    (w.setP p l b).p q l' = if q = p ∧ l' = l ∧ p ≠ 7 then b else w.p q l' := by
  have hb := lane_bit l hl'
  unfold Warp.setP
  generalize BitVec.ofNat 32 (2 ^ l) = one at hb
  by_cases hp : p = 7
  · simp [hp]
  · simp only [hp, if_false, Warp.p]
    by_cases hq : q = 7
    · have : ¬ q = p := by omega
      simp [hq]; omega
    · simp only [hq, if_false, Tbl.get_set _ _ _ _ hw]
      by_cases hqp : q = p
      · subst hqp
        generalize Tbl.get 0 w.preds q = m
        cases b <;> by_cases h : l' = l <;> simp_all
      · simp [hqp]

/-! ## Elements -/

theorem getLsbD_join64 (lo hi : Word) (i : Nat) :
    (join64 lo hi).getLsbD i = if i < 32 then lo.getLsbD i else hi.getLsbD (i - 32) :=
  BitVec.getLsbD_append

theorem lo32_join64 (lo hi : Word) : lo32 (join64 lo hi) = lo := by
  apply BitVec.eq_of_getLsbD_eq
  intro i hi
  simp only [lo32, BitVec.getLsbD_setWidth, getLsbD_join64, hi, decide_true, Bool.true_and, if_true]

theorem hi32_join64 (lo hi : Word) : hi32 (join64 lo hi) = hi := by
  apply BitVec.eq_of_getLsbD_eq
  intro i hi
  have h1 : ¬ 32 + i < 32 := by omega
  have h2 : 32 + i - 32 = i := by omega
  simp only [hi32, BitVec.getLsbD_setWidth, BitVec.getLsbD_ushiftRight, getLsbD_join64, hi, decide_true, Bool.true_and, h1, if_false, h2]

theorem join64_lo_hi (x : DWord) : join64 (lo32 x) (hi32 x) = x := by
  apply BitVec.eq_of_getLsbD_eq
  intro i hi
  simp only [getLsbD_join64, lo32, hi32, BitVec.getLsbD_setWidth, BitVec.getLsbD_ushiftRight]
  split
  · simp [*]
  · have h1 : i - 32 < 32 := by omega
    have h2 : 32 + (i - 32) = i := by omega
    simp [h1, h2]

theorem Warp.v64_setV64 {w : Warp} (hw : Tbl.wf 0 w.vregs = true) (r : Nat) {l l' : Nat} (x : DWord) (hl : l < 32) (hl' : l' < 32) :
    (w.setV64 r l x).v64 r l' = if l' = l then x else w.v64 r l' := by
  unfold Warp.v64 Warp.setV64
  rw [Warp.v_setV (Warp.wf_setV hw _ _ _) _ hl hl', Warp.v_setV (Warp.wf_setV hw _ _ _) _ hl hl', Warp.v_setV hw _ hl hl',
    Warp.v_setV hw _ hl hl']
  by_cases h : l' = l
  · simp [h, join64_lo_hi]
  · simp [h]

theorem Warp.wf_setElem {w : Warp} (hw : Tbl.wf 0 w.vregs = true) (d : VReg) (wd l x : Nat) :
    Tbl.wf 0 (w.setElem d wd l x).vregs = true := by
  unfold Warp.setElem
  split
  · exact Warp.wf_setV (Warp.wf_setV hw _ _ _) _ _ _
  · exact Warp.wf_setV hw _ _ _

theorem Warp.setElem_rest (w : Warp) (d : VReg) (wd l x : Nat) : { w.setElem d wd l x with vregs := w.vregs } = w := by
  unfold Warp.setElem
  split <;> rfl

theorem modW_natCast (wd x : Nat) : modW wd (x : Int) = x % 2 ^ wd := by
  unfold modW; exact Int.toNat_natCast _

/-- The element after a write in some lane: the value in that lane, what stood there in every other. -/
theorem Warp.elem_setElem {w : Warp} (hw : Tbl.wf 0 w.vregs = true) (d : VReg) {wd l l' : Nat} (x : Nat)
    (hwd : wd = 32 ∨ wd = 64) (hl : l < 32) (hl' : l' < 32) :
    (w.setElem d wd l x).elem (.v d) wd l' = if l' = l then modW wd x else w.elem (.v d) wd l' := by
  have hv : ∀ w : Warp, w.src64 (.v d) l' = w.v64 d.toNat l' := fun _ => rfl
  unfold Warp.elem Warp.setElem
  rcases hwd with rfl | rfl
  · simp only [Nat.reduceEqDiff, if_false, Warp.src, Warp.v_setV hw _ hl hl', true_and, modW_natCast]
    split
    · simp
    · rfl
  · simp only [if_true, hv, Warp.v64_setV64 hw _ _ hl hl', modW_natCast]
    split
    · simp
    · rfl

/-- What a write of an element leaves of the vector registers. -/
theorem Warp.v_setElem_of_not {w : Warp} (hw : Tbl.wf 0 w.vregs = true) (d : VReg) {wd l r l' : Nat} (x : Nat)
    (hl : l < 32) (hl' : l' < 32) (h : ¬ (regsAt d.toNat (regsOf wd) r = true ∧ l' = l)) :
    (w.setElem d wd l x).v r l' = w.v r l' := by
  have h' : l' = l → ¬ (d.toNat ≤ r ∧ r < d.toNat + regsOf wd) := by
    intro e; simpa [regsAt, e] using h
  unfold Warp.setElem Warp.setV64
  unfold regsOf at h'
  split
  · rename_i h64
    simp only [h64, if_true] at h'
    rw [Warp.v_setV (Warp.wf_setV hw _ _ _) _ hl hl', Warp.v_setV hw _ hl hl', if_neg, if_neg]
    · rintro ⟨rfl, e⟩; exact h' e (by omega)
    · rintro ⟨rfl, e⟩; exact h' e (by omega)
  · rename_i h64
    simp only [h64, if_false] at h'
    rw [Warp.v_setV hw _ hl hl', if_neg]
    rintro ⟨rfl, e⟩; exact h' e (by omega)

/-! ## Writing every lane of a mask -/

/-- A predicate that a lane-wise update keeps, it keeps over a list of lanes. -/
theorem foldl_keeps {β γ : Type} (P : β → Prop) (f : β → γ → β) (ls : List γ) (b : β) (hb : P b)
    (hf : ∀ b, P b → ∀ c ∈ ls, P (f b c)) : P (ls.foldl f b) := by
  induction ls generalizing b with
  | nil => exact hb
  | cons c t ih => exact ih _ (hf b hb c (by simp)) (fun b hb c hc => hf b hb c (by simp [hc]))

/-- Writing an element in each lane of a list. -/
theorem Warp.foldl_setElem (w : Warp) (hw : Tbl.wf 0 w.vregs = true) (d : VReg) {wd : Nat} (x : Nat → Nat)
    (hwd : wd = 32 ∨ wd = 64) (ls : List Nat) (hls : ∀ l ∈ ls, l < 32) :
    let w' := ls.foldl (fun w l => w.setElem d wd l (x l)) w
    Tbl.wf 0 w'.vregs = true ∧ { w' with vregs := w.vregs } = w ∧
      (∀ l', l' < 32 → w'.elem (.v d) wd l' = if l' ∈ ls then modW wd (x l') else w.elem (.v d) wd l') ∧
      (∀ r l', l' < 32 → ¬ (regsAt d.toNat (regsOf wd) r = true ∧ l' ∈ ls) → w'.v r l' = w.v r l') := by
  induction ls generalizing w with
  | nil => exact ⟨hw, rfl, by simp, by simp⟩
  | cons l t ih =>
    have hl : l < 32 := hls l (by simp)
    have h := ih (w.setElem d wd l (x l)) (Warp.wf_setElem hw _ _ _ _) (fun k hk => hls k (by simp [hk]))
    simp only [List.foldl_cons] at h ⊢
    refine ⟨h.1, ?_, ?_, ?_⟩
    · have := congrArg (fun v : Warp => { v with vregs := w.vregs }) h.2.1
      exact this.trans (Warp.setElem_rest w d wd l (x l))
    · intro l' hl'
      rw [h.2.2.1 l' hl', Warp.elem_setElem hw d _ hwd hl hl']
      by_cases h1 : l' ∈ t <;> by_cases h2 : l' = l <;> simp_all
    · intro r l' hl' hn
      rw [h.2.2.2 r l' hl' (by simp_all), Warp.v_setElem_of_not hw d _ hl hl' (by simp_all)]

/-- The register-class words write their elements in the lanes of g and nothing else (R146). -/
theorem Warp.wrote_overLanes (w : Warp) (hw : w.canonical) (g : LaneMask) (d : VReg) {wd : Nat} (x : Nat → Nat)
    (hwd : wd = 32 ∨ wd = 64) : w.wrote (overLanes g (fun l w => w.setElem d wd l (x l)) w) g d wd (fun l => x l) := by
  have h := Warp.foldl_setElem w hw.1 d x hwd (lanesOf g) (fun l hl => (mem_lanesOf.mp hl).1)
  simp only at h
  refine ⟨⟨h.2.1, fun r l hl hn => h.2.2.2 r l hl ?_⟩, fun l hl hg => ?_⟩
  · simp_all
  · have := h.2.2.1 l hl
    rw [if_pos (mem_lanesOf.mpr ⟨hl, hg⟩)] at this
    exact this

/-- Writing a predicate in each lane of a list. -/
theorem Warp.foldl_setP (w : Warp) (hw : Tbl.wf 0 w.preds = true) (p : Nat) (b : Nat → Bool) (ls : List Nat) :
    let w' := ls.foldl (fun w l => w.setP p l (b l)) w
    Tbl.wf 0 w'.preds = true ∧ { w' with preds := w.preds } = w ∧
      (∀ q l', l' < 32 → w'.p q l' = if q = p ∧ l' ∈ ls ∧ p ≠ 7 then b l' else w.p q l') := by
  induction ls generalizing w with
  | nil => exact ⟨hw, rfl, by simp⟩
  | cons l t ih =>
    have h := ih (w.setP p l (b l)) (Warp.wf_setP hw _ _ _)
    simp only [List.foldl_cons] at h ⊢
    refine ⟨h.1, ?_, ?_⟩
    · have := congrArg (fun v : Warp => { v with preds := w.preds }) h.2.1
      have h2 : { w.setP p l (b l) with preds := w.preds } = w := by unfold Warp.setP; split <;> rfl
      exact this.trans h2
    · intro q l' hl'
      rw [h.2.2 q l' hl', Warp.p_setP hw _ hl']
      by_cases h1 : l' ∈ t <;> by_cases h2 : l' = l <;> by_cases h3 : q = p <;> simp_all

/-- The comparisons write their predicate in the lanes of g and nothing else (R158). -/
theorem Warp.wrotePred_overLanes (w : Warp) (hw : w.canonical) (g : LaneMask) (p : PReg) (b : Nat → Bool) :
    w.wrotePred (overLanes g (fun l w => w.setP p.toNat l (b l)) w) g p b := by
  have h := Warp.foldl_setP w hw.2.2.1 p.toNat b (lanesOf g)
  simp only at h
  refine ⟨⟨h.2.1, fun q l hl _ hn => ?_⟩, fun l hl hg => ?_⟩
  · have := h.2.2 q l hl
    simp only [overLanes]
    rw [this, if_neg]
    rintro ⟨rfl, hm, -⟩
    simp_all
  · have := h.2.2 p.toNat l hl
    simp only [overLanes]
    rw [this]
    by_cases h7 : p.toNat = 7
    · simp [h7, Warp.p]
    · simp [hl, hg, h7]

end Sys2Proof.Machine
end

