-- ==== Sys2Proof/Laws/Words.lean ====
section
/-!
SUPPORT. Laws/Words.lean: how the meaning of a word ends, said once for every class.
-/

namespace Sys2Proof.Machine

/-! ## The records of an executing word -/

/-- What `State.env?` looked up. -/
theorem State.env?_eq {s : State} {e : Env} (h : s.env? = some e) :
    s.cur = some e.c ∧ s.warp? e.c.core e.c.slot = some e.w ∧ s.wg? e.w.wg = some e.wg ∧
      s.launch? e.wg.launch = some e.l ∧ s.ctx? e.l.ctx = some e.x := by
  unfold State.env? at h
  split at h
  · cases h
  · split at h
    · cases h
    · split at h
      · cases h
      · split at h
        · cases h
        · split at h
          · cases h
          · cases h; exact ⟨‹_›, ‹_›, ‹_›, ‹_›, ‹_›⟩

theorem State.warp?_of_env? {s : State} {e : Env} (h : s.env? = some e) : s.warp? e.c.core e.c.slot = some e.w :=
  (State.env?_eq h).2.1

/-! ## Performing an operation -/

theorem performOp_of {s : State} {e : Env} (h : s.env? = some e) (op : Op) :
    performOp op s = .next (e.finish s (op e s)) := by
  unfold performOp; rw [h]

/-- A word with no executing entry is the one fault of the model. -/
theorem performOp_none {s : State} (h : s.env? = none) (op : Op) : performOp op s = .fault .noEntry := by
  unfold performOp; rw [h]

@[simp] theorem State.warp?_setWarp (s : State) (core slot : Nat) (w : Warp) :
    (s.setWarp core slot w).warp? core slot = some w := by
  simp [State.warp?, State.setWarp]

theorem State.warp?_setWarp_of_ne (s : State) {core slot core' slot' : Nat} (w : Warp)
    (h : 32 * core' + slot' ≠ 32 * core + slot) : (s.setWarp core slot w).warp? core' slot' = s.warp? core' slot' := by
  simp [State.warp?, State.setWarp, Tbl.find?_put_of_ne _ _ _ _ h]

@[simp] theorem State.setWarp_setWarp (s : State) (core slot : Nat) (v w : Warp) :
    (s.setWarp core slot v).setWarp core slot w = s.setWarp core slot w := by
  simp [State.setWarp, Tbl.put_put]

/-- Changing a warp just written. -/
theorem State.modWarp_setWarp (s : State) (core slot : Nat) (w : Warp) (f : Warp → Warp) :
    (s.setWarp core slot w).modWarp core slot f = s.setWarp core slot (f w) := by
  simp [State.modWarp]

theorem State.modWarp_of {s : State} {core slot : Nat} {w : Warp} (h : s.warp? core slot = some w) (f : Warp → Warp) :
    s.modWarp core slot f = s.setWarp core slot (f w) := by
  simp [State.modWarp, h]

/-- A word that changed only its warp retires. -/
theorem Env.finish_setWarp (e : Env) (s : State) (w : Warp) :
    e.finish s (.ok (s.setWarp e.c.core e.c.slot w)) = e.retired s w := by
  simp only [Env.finish, Env.upd, State.modWarp_setWarp, Env.retired]

/-- A word that changed nothing retires. -/
theorem Env.finish_same {e : Env} {s : State} (h : s.env? = some e) : e.finish s (.ok s) = e.retired s e.w := by
  simp only [Env.finish, Env.upd, State.modWarp_of (State.warp?_of_env? h), Env.retired]

/-- A register-class word that is not refused: the machine after it. -/
theorem performOp_aluOp {s : State} {e : Env} {f : AluOp} {w : Warp} (h : s.env? = some e) (hf : f e e.w = .ok w) :
    performOp (aluOp f) s = .next (e.retired s w) := by
  rw [performOp_of h]
  simp only [aluOp, State.warp?_of_env? h, hf, Env.finish_setWarp]

/-- A register-class word that is refused: the refusal is taken. -/
theorem performOp_aluOp_error {s : State} {e : Env} {f : AluOp} {st : Stop} (h : s.env? = some e) (hf : f e e.w = .error st) :
    performOp (aluOp f) s = .next (e.finish s st.res) := by
  rw [performOp_of h]
  simp only [aluOp, State.warp?_of_env? h, hf]

/-! ## The checks -/

theorem Env.need_of_usable {e : Env} {us : List Use} (h : e.usable us) : e.need us = .ok () := by
  unfold Env.need; rw [show e.uses us = none from h]

theorem Env.need_of_uses {e : Env} {us : List Use} {st : Stop} (h : e.uses us = some st) : e.need us = .error st := by
  unfold Env.need; rw [h]

theorem Env.intType_of {e : Env} {ty : Fmt} {wd : Nat} (h : ty.intWidth = some wd) : e.intType ty = .ok wd := by
  unfold Env.intType; rw [h]

theorem intWidth_cases {ty : Fmt} {wd : Nat} (h : ty.intWidth = some wd) : wd = 32 ∨ wd = 64 := by
  cases ty <;> simp_all [Fmt.intWidth]

/-- The misaligned group is reported before an index beyond the declaration (R42, R307). -/
theorem Env.uses_misaligned {e : Env} {us : List Use} {b : Nat} (h : us.findSome? Use.misaligned = some b) :
    e.uses us = some (e.ill b) := by
  unfold Env.uses; rw [h]

/-- An index beyond the declaration traps with cause 4 (R34). -/
theorem Env.uses_beyond {e : Env} {us : List Use} {i c : Nat} (h : us.findSome? Use.misaligned = none)
    (hb : us.findSome? (Use.beyond e.l.pk) = some (i, c)) : e.uses us = some (e.regTrap i c) := by
  unfold Env.uses; rw [h]; simp only [hb]

/-- Bind of two checks. -/
theorem except_bind_ok {ε α β : Type} {x : Except ε α} {a : α} (h : x = .ok a) (f : α → Except ε β) : (x >>= f) = f a := by
  rw [h]; rfl

theorem except_bind_error {ε α β : Type} {x : Except ε α} {e : ε} (h : x = .error e) (f : α → Except ε β) :
    (x >>= f) = .error e := by
  rw [h]; rfl

end Sys2Proof.Machine
end

