-- ==== Sys2Proof/Tests/Slice0.lean ====
section
/-!
SUPPORT. Tests/Slice0.lean: words written out field by field from the encoding tables, decoded; terms that are not well formed, one for each
check; results of single steps taken from the spec; and, for every obligation with hypotheses, states and operands that meet them.
-/

namespace Sys2Proof.Tests

open Sys2Proof.Machine

set_option Elab.async false

/-! ## Words built field by field from Tables 2, 5, 6, 7 and 10 of the encoding chapter, under the guard `@!p5` -/

def gd : Guard := ⟨5, true⟩
/-- The top of a full word: bit 63, OPC, PG, PN. -/
def wTop (opc : Nat) : BitVec 13 := 0#1 ++ BitVec.ofNat 8 opc ++ 5#3 ++ 1#1
/-- Register layout: D, A, B, C and the modifier field M[18:0]. -/
def wR (opc d a b c m : Nat) : DWord :=
  wTop opc ++ BitVec.ofNat 8 d ++ BitVec.ofNat 8 a ++ BitVec.ofNat 8 b ++ BitVec.ofNat 8 c ++ BitVec.ofNat 19 m
/-- I32 layout: D, A, IMM32 and the bits [2:0]. -/
def wI (opc d a imm m : Nat) : DWord :=
  wTop opc ++ BitVec.ofNat 8 d ++ BitVec.ofNat 8 a ++ BitVec.ofNat 32 imm ++ BitVec.ofNat 3 m
/-- S layout: D, A, IMM16 and M[18:0] with the I bit. -/
def wS (opc d a imm m : Nat) : DWord :=
  wTop opc ++ BitVec.ofNat 8 d ++ BitVec.ofNat 8 a ++ BitVec.ofNat 16 imm ++ BitVec.ofNat 19 m
/-- Memory layout: D, A, REC, OFF, ORD, SCP and W. -/
def wM (opc d a rk off ord scp w : Nat) : DWord :=
  wTop opc ++ BitVec.ofNat 8 d ++ BitVec.ofNat 8 a ++ BitVec.ofNat 3 rk ++ BitVec.ofNat 24 off ++ BitVec.ofNat 3 ord ++
    BitVec.ofNat 3 scp ++ BitVec.ofNat 2 w
/-- Branch layout: D, A = 0 and OFFW. -/
def wB (opc d offw : Nat) : DWord := wTop opc ++ BitVec.ofNat 8 d ++ 0#8 ++ BitVec.ofNat 32 offw ++ 0#3
/-- One slot of a pair word: SOP, G, D, S and IMM. -/
def wSlot (sop g d s imm : Nat) : BitVec 31 :=
  BitVec.ofNat 6 sop ++ BitVec.ofNat 3 g ++ BitVec.ofNat 6 d ++ BitVec.ofNat 6 s ++ BitVec.ofNat 10 imm
/-- A pair word: bits [63:62] = 0b10, slot 0, slot 1. -/
def wP (sop0 g0 d0 s0 imm0 sop1 g1 d1 s1 imm1 : Nat) : DWord := 2#2 ++ wSlot sop0 g0 d0 s0 imm0 ++ wSlot sop1 g1 d1 s1 imm1

/-- Every word of the list decodes to its instruction, which is well formed and encodes to the word. -/
def decodes (l : List (DWord × Instr)) : Bool :=
  l.all (fun p => decode p.1 == .ok p.2 && p.2.wf && encode p.2 == some p.1)

theorem test_decode_integer_1 : decodes [
    (wR 0x0 9 10 11 0 0x10800, .iadd ⟨gd, 9, (.v 10), (.s 11), .n32⟩),
    (wI 0x0 9 10 0x80000001 4, .iaddImm ⟨gd, 9, (.v 10), 0x80000001⟩),
    (wR 0x1 9 10 11 0 0x1c00, .isub ⟨gd, 9, (.v 10), (.v 11), .i64⟩),
    (wI 0x1 9 10 0x80000001 6, .isubImm ⟨gd, 9, (.s 10), 0x80000001⟩),
    (wR 0x2 9 10 11 3 0x20800, .iaddc ⟨gd, 9, (.s 10), (.v 11), 3, .n32⟩),
    (wR 0x3 9 10 11 3 0x11c00, .isubb ⟨gd, 9, (.v 10), (.s 11), 3, .i64⟩),
    (wR 0x4 9 10 11 0 0x21800, .imul ⟨gd, 9, (.s 10), (.v 11), .i32⟩),
    (wI 0x4 9 10 0x80000001 4, .imulImm ⟨gd, 9, (.v 10), 0x80000001⟩),
    (wR 0x5 9 10 11 0 0x1800, .imulhI ⟨gd, 9, (.v 10), (.v 11), .i32⟩),
    (wR 0x6 9 10 11 0 0xc00, .imulhN ⟨gd, 9, (.v 10), (.v 11), .n64⟩),
    (wR 0x7 9 10 11 12 0x8800, .imad ⟨gd, 9, (.v 10), (.v 11), (.s 12), .n32⟩),
    (wR 0x8 9 10 11 12 0x21800, .imadw ⟨gd, 9, (.s 10), (.v 11), (.v 12), .i32⟩)] = true := by decide

theorem test_decode_integer_2 : decodes [
    (wR 0x9 9 10 11 0 0x1800, .iminI ⟨gd, 9, (.v 10), (.v 11), .i32⟩),
    (wS 0x9 9 10 0x8001 0x1c04, .iminIImm ⟨gd, 9, (.v 10), 0x8001, .i64⟩),
    (wR 0xa 9 10 11 0 0x800, .iminN ⟨gd, 9, (.v 10), (.v 11), .n32⟩),
    (wS 0xa 9 10 0x8001 0x20804, .iminNImm ⟨gd, 9, (.s 10), 0x8001, .n32⟩),
    (wR 0xb 9 10 11 0 0x1800, .imaxI ⟨gd, 9, (.v 10), (.v 11), .i32⟩),
    (wS 0xb 9 10 0x8001 0x1804, .imaxIImm ⟨gd, 9, (.v 10), 0x8001, .i32⟩),
    (wR 0xc 9 10 11 0 0xc00, .imaxN ⟨gd, 9, (.v 10), (.v 11), .n64⟩),
    (wS 0xc 9 10 0x8001 0x804, .imaxNImm ⟨gd, 9, (.v 10), 0x8001, .n32⟩),
    (wR 0xd 9 10 0 0 0x1800, .iabs ⟨gd, 9, (.v 10), .i32⟩),
    (wR 0xe 9 10 11 0 0x1800, .iadds ⟨gd, 9, (.v 10), (.v 11), .i32⟩),
    (wS 0xe 9 10 0x8001 0xc04, .iaddsImm ⟨gd, 9, (.v 10), 0x8001, .n64⟩),
    (wR 0xf 9 10 11 0 0x800, .isubs ⟨gd, 9, (.v 10), (.v 11), .n32⟩)] = true := by decide

theorem test_decode_integer_3 : decodes [
    (wS 0xf 9 10 0x8001 0x1804, .isubsImm ⟨gd, 9, (.v 10), 0x8001, .i32⟩),
    (wR 0x10 9 10 11 0 0x800, .and ⟨gd, 9, (.v 10), (.v 11), .n32⟩),
    (wI 0x10 9 10 0x80000001 4, .andImm ⟨gd, 9, (.v 10), 0x80000001⟩),
    (wR 0x11 9 10 11 0 0xc00, .or ⟨gd, 9, (.v 10), (.v 11), .n64⟩),
    (wI 0x11 9 10 0x80000001 4, .orImm ⟨gd, 9, (.v 10), 0x80000001⟩),
    (wR 0x12 9 10 11 0 0x30800, .xor ⟨gd, 9, (.s 10), (.s 11), .n32⟩),
    (wI 0x12 9 10 0x80000001 4, .xorImm ⟨gd, 9, (.v 10), 0x80000001⟩),
    (wR 0x13 9 10 11 0 0x800, .andn ⟨gd, 9, (.v 10), (.v 11), .n32⟩),
    (wI 0x13 9 10 0x80000001 4, .andnImm ⟨gd, 9, (.v 10), 0x80000001⟩),
    (wR 0x14 9 10 11 0 0x800, .shl ⟨gd, 9, (.v 10), (.v 11), .n32⟩),
    (wI 0x14 9 10 0x80000001 4, .shlImm ⟨gd, 9, (.v 10), 0x80000001⟩),
    (wR 0x15 9 10 11 0 0x1c00, .shr ⟨gd, 9, (.v 10), (.v 11), .i64⟩)] = true := by decide

theorem test_decode_integer_4 : decodes [
    (wI 0x15 9 10 0x80000001 4, .shrImm ⟨gd, 9, (.v 10), 0x80000001⟩),
    (wR 0x16 9 10 11 0 0x1800, .sar ⟨gd, 9, (.v 10), (.v 11), .i32⟩),
    (wI 0x16 9 10 0x80000001 4, .sarImm ⟨gd, 9, (.v 10), 0x80000001⟩),
    (wR 0x17 9 10 11 0 0x1800, .bfx ⟨gd, 9, (.v 10), (.v 11), .i32⟩),
    (wS 0x17 9 10 0x8001 0x804, .bfxImm ⟨gd, 9, (.v 10), 0x8001, .n32⟩),
    (wR 0x18 9 10 11 12 0xc00, .bfi ⟨gd, 9, (.v 10), (.v 11), (.v 12), .n64⟩),
    (wR 0x19 9 10 0 0 0xc00, .popc ⟨gd, 9, (.v 10), .n64⟩),
    (wR 0x1a 9 10 0 0 0x20800, .clz ⟨gd, 9, (.s 10), .n32⟩),
    (wR 0x1b 5 10 11 0 0x1848, .icmp ⟨gd, 5, .v 10, .v 11, 9, .i32⟩),
    (wS 0x1b 5 10 0x8001 0xc34, .icmpImm ⟨gd, 5, .v 10, 0x8001, 6, .n64⟩)] = true := by decide

theorem test_decode_float_1 : decodes [
    (wR 0x20 9 10 11 0 0x13880, .fadd ⟨gd, 9, .v 10, .s 11, .f32, .rtz⟩),
    (wS 0x20 9 10 0x4000 0x23d04, .faddImm ⟨gd, 9, .s 10, 0x4000, .f64, .rup⟩),
    (wR 0x21 9 10 11 0 0x13180, .fsub ⟨gd, 9, .v 10, .s 11, .f16, .rdn⟩),
    (wS 0x21 9 10 0x4000 0x23604, .fsubImm ⟨gd, 9, .s 10, 0x4000, .bf16, .sr⟩),
    (wR 0x22 9 10 11 0 0x13400, .fmul ⟨gd, 9, .v 10, .s 11, .bf16, .rne⟩),
    (wS 0x22 9 10 0x4000 0x23884, .fmulImm ⟨gd, 9, .s 10, 0x4000, .f32, .rtz⟩),
    (wR 0x23 9 10 11 12 0xbd80, .ffma ⟨gd, 9, .v 10, .v 11, .s 12, .f64, .rdn⟩),
    (wR 0x24 9 10 11 0 0x13800, .fmin ⟨gd, 9, .v 10, .s 11, .f32, .rne⟩),
    (wS 0x24 9 10 0x4000 0x23804, .fminImm ⟨gd, 9, .s 10, 0x4000, .f32, .rne⟩),
    (wR 0x25 9 10 11 0 0x13000, .fmax ⟨gd, 9, .v 10, .s 11, .f16, .rne⟩),
    (wS 0x25 9 10 0x4000 0x23c04, .fmaxImm ⟨gd, 9, .s 10, 0x4000, .f64, .rne⟩),
    (wR 0x26 5 10 11 0 0x3c50, .fcmp ⟨gd, 5, .v 10, .v 11, 10, .f64, .rne⟩)] = true := by decide

theorem test_decode_float_2 : decodes [
    (wS 0x26 5 10 0xc000 0x381c, .fcmpImm ⟨gd, 5, .v 10, 0xC000, 3, .f32, .rne⟩),
    (wR 0x27 9 10 0 0 0x3c00, .fclass ⟨gd, 9, .v 10, .f64, .rne⟩),
    (wR 0x28 9 10 0 0 0x3900, .frcp ⟨gd, 9, .v 10, .f32, .rup⟩),
    (wR 0x29 9 10 0 0 0x3800, .frsq ⟨gd, 9, .v 10, .f32, .rne⟩),
    (wR 0x2a 9 10 0 0 0x3d80, .fsqrt ⟨gd, 9, .v 10, .f64, .rdn⟩),
    (wR 0x2b 9 10 0 0 0x3800, .fexp2 ⟨gd, 9, .v 10, .f32, .rne⟩),
    (wR 0x2c 9 10 0 0 0x3800, .flog2 ⟨gd, 9, .v 10, .f32, .rne⟩),
    (wR 0x2d 9 10 0 0 0x3800, .fsin ⟨gd, 9, .v 10, .f32, .rne⟩),
    (wR 0x2e 9 10 0 0 0x3800, .fcos ⟨gd, 9, .v 10, .f32, .rne⟩),
    (wR 0x2f 9 10 4 14 0x2a10, .fcvt ⟨gd, 9, .v 10, 4, 14, .f8e4, .sr, 2⟩),
    (wR 0x30 9 10 0 12 0x1c80, .fcvti ⟨gd, 9, .v 10, 12, .i64, .rtz⟩),
    (wR 0x31 9 10 0 3 0x23100, .icvtf ⟨gd, 9, .s 10, 3, .f16, .rup⟩)] = true := by decide

theorem test_decode_float_3 : decodes [
    (wR 0x32 9 10 11 12 0xb400, .fdot2 ⟨gd, 9, .v 10, .v 11, .s 12, .bf16, .rne⟩),
    (wR 0x33 8 16 0 0 0x3030, .had ⟨gd, 8, 16, .f16, .rne, 2, true⟩),
    (wR 0x34 9 16 11 0 0x12080, .qnt ⟨gd, 9, 16, .s 11, .i4, .rtz⟩),
    (wR 0x35 9 10 11 0 0x11100, .dqnt ⟨gd, 9, .v 10, .s 11, .i8, .rup⟩),
    (wR 0x36 9 10 11 0 0x13c00, .fscale ⟨gd, 9, .v 10, .s 11, .f64, .rne⟩),
    (wR 0x37 8 10 12 14 0x14198, .cmul ⟨gd, 8, .v 10, .s 12, some (.v 14), .c64, .rdn, true⟩),
    (wR 0x37 8 12 16 0 0x4400, .cmul ⟨gd, 8, .v 12, .v 16, none, .c128, .rne, false⟩)] = true := by decide

theorem test_decode_lane_1 : decodes [
    (wR 0x40 9 10 0 0 0x20c00, .mov ⟨gd, 9, .s 10, .n64⟩),
    (wI 0x41 9 0 0xffffffff 4, .movi ⟨gd, 9, 0xFFFFFFFF⟩),
    (wR 0x42 9 10 0 0 0x20800, .movs ⟨gd, 9, .scalar 10, .n32⟩),
    (wR 0x42 9 10 0 31 0xc00, .movs ⟨gd, 9, .lane 10 31, .n64⟩),
    (wR 0x42 9 0 128 1 0x1808, .movs ⟨gd, 9, .imm 0x8001, .i32⟩),
    (wR 0x43 9 10 200 0 0x800, .movri ⟨gd, 9, .v 10, 200, .n32⟩),
    (wR 0x44 9 10 200 0 0x21800, .movrw ⟨gd, 9, .s 10, 200, .i32⟩),
    (wR 0x45 9 34 0 0 0x808, .srd ⟨gd, .v 9, 34, .n32, true⟩),
    (wR 0x45 10 131 0 0 0xc10, .srd ⟨gd, .s 10, 131, .n64, false⟩),
    (wR 0x46 49 10 0 0 0x20800, .swr ⟨gd, 49, .s 10, .n32⟩),
    (wR 0x47 9 10 31 0 0x970, .shfl ⟨gd, 9, .v 10, .const 31, .n32, 2, 3⟩),
    (wR 0x47 9 10 11 0 0x11ca8, .shfl ⟨gd, 9, .v 10, .reg (.s 11), .i64, 1, 5⟩)] = true := by decide

theorem test_decode_lane_2 : decodes [
    (wR 0x48 5 6 0 0 0x838, .vote ⟨gd, .test false 5, 6, .n32, 1⟩),
    (wR 0x48 9 6 0 0 0x888, .vote ⟨gd, .count (.s 9), 6, .n32, 0⟩),
    (wR 0x49 9 10 0 0 0x3890, .redux ⟨gd, .s 9, .v 10, .f32, 2⟩),
    (wR 0x4a 9 10 0 0 0x1c88, .scan ⟨gd, 9, .v 10, .i64, 1, true⟩),
    (wR 0x4b 1 2 3 0 0x868, .plop ⟨gd, 1, 2, 3, .n32, 13⟩),
    (wR 0x4c 9 10 11 6 0x10c00, .sel ⟨gd, 9, .v 10, .s 11, 6, .n64⟩),
    (wR 0x4d 9 10 11 12 0x8800, .prmt ⟨gd, 9, .v 10, .v 11, .s 12, .n32⟩),
    (wR 0x4e 9 10 0 0 0xc08, .matchL ⟨gd, 9, .v 10, .n64, true⟩),
    (wR 0x4f 9 10 11 3 0x1008, .pack ⟨gd, 9, .v 10, .v 11, 3, .i8, true⟩),
    (wR 0x50 9 10 0 7 0x2000, .unpk ⟨gd, 9, .v 10, 7, .i4⟩),
    (wR 0x51 5 128 0 0 0x800, .elect ⟨gd, 5, none, .n32, false⟩),
    (wR 0x51 5 12 0 0 0x808, .elect ⟨gd, 5, some 12, .n32, true⟩)] = true := by decide

theorem test_decode_control_1 : decodes [
    (wB 0x60 0 0xfffffff8, .bra ⟨gd, 0xFFFFFFF8⟩),
    (wR 0x61 0 2 3 0 0x0, .brx ⟨gd, .v 2, 3⟩),
    (wB 0x62 6 0x80, .call ⟨gd, 6, 0x80⟩),
    (wR 0x63 0 12 0 0 0x20000, .ret ⟨gd, .s 12⟩),
    (wR 0x64 0 12 0 0 0x8, .wsync ⟨gd, some 12⟩),
    (wR 0x65 0 0 0 0 0x0, .exit ⟨gd⟩),
    (wR 0x66 0 0 0 0 0x0, .nop ⟨gd⟩),
    (wR 0x67 0 0 0 0 0x0, .pause ⟨gd⟩),
    (wR 0x6a 0 0 0 0 0x0, .rfe ⟨gd⟩),
    (wR 0x71 0 0 0 0 0x0, .hintnext ⟨gd⟩),
    (wR 0x72 0 0 0 0 0x0, .waitpred ⟨gd⟩),
    (wR 0x74 0 0 0 0 0x0, .rdv ⟨gd⟩)] = true := by decide

theorem test_decode_control_2 : decodes [
    (wR 0x76 0 0 0 0 0x0, .endl ⟨gd⟩),
    (wR 0x77 0 0 0 0 0x0, .endp ⟨gd⟩),
    (wR 0x68 0 0 200 0 0x0, .trap ⟨gd, 200⟩),
    (wR 0x69 0 0 201 0 0x0, .bkpt ⟨gd, 201⟩),
    (wR 0x6b 0 3 12 0 0x8, .bsync ⟨gd, 3, some 12⟩),
    (wR 0x6c 9 95 13 0 0x18, .barv ⟨gd, some 9, 95, some 13⟩),
    (wR 0x6c 0 94 0 0 0x0, .barv ⟨gd, none, 94, none⟩),
    (wR 0x6d 0 7 11 0 0x10000, .bwait ⟨gd, 7, .s 11⟩),
    (wR 0x6e 0 7 11 0 0x0, .bexpect ⟨gd, 7, 11⟩),
    (wR 0x6f 0 0 0 0 0x10, .cbar ⟨gd, 2⟩),
    (wR 0x70 10 32 0 0 0x0, .launch ⟨gd, 10, 32⟩),
    (wB 0x73 9 0x10, .fork ⟨gd, 9, 0x10⟩)] = true := by decide

theorem test_decode_control_3 : decodes [
    (wR 0x75 17 10 12 128 0x0, .loop ⟨gd, 17, 10, some 12, none⟩)] = true := by decide

theorem test_decode_memory_1 : decodes [
    (wM 0x80 9 10 5 0xfffffc 3 4 2, .ld ⟨gd, 9, 10, 5, 0xFFFFFC, .acq, .dev, 2⟩),
    (wM 0x81 9 10 6 0x10 4 5 3, .st ⟨gd, 9, 10, 6, 0x10, .rel, .sys, 3⟩),
    (wM 0x82 9 10 3 0x10 3 2 3, .lds ⟨gd, 9, 10, 3, 0x10, .acq, .cl, 3⟩),
    (wM 0x83 9 10 0 0x20 4 1 1, .sts ⟨gd, 9, 10, 0, 0x20, .rel, .wg, 1⟩),
    (wM 0x84 9 10 2 0x30 1 0 3, .ldfe ⟨gd, 9, 10, 2, 0x30, .na, .none, 3⟩),
    (wM 0x85 9 10 0 0x40 0 0 2, .stf ⟨gd, 9, 10, 0, 0x40, .relaxed, .none, 2⟩),
    (wI 0x86 0 13 0x80003 6, .feinit ⟨gd, some 13, 3, 8⟩),
    (wM 0x87 9 10 1 0x50 2 3 1, .ldw ⟨gd, 9, 10, 1, 0x50, .ef, .die, 1⟩),
    (wM 0x88 9 10 1 0x60 0 3 0, .stw ⟨gd, 9, 10, 1, 0x60, .relaxed, .die, 0⟩),
    (wM 0x89 9 10 4 0xb6ff8 5 4 0, .atom ⟨gd, 9, 10, 4, 11, 6, 0xFF8, .ar, .dev⟩),
    (wM 0x8a 9 10 5 0xb2010 3 2 0, .atoms ⟨gd, 9, 10, 5, 11, 2, 0x10, .acq, .cl⟩),
    (wM 0x8b 9 10 4 0xb0840 4 5 0, .atomo ⟨gd, 9, 10, 4, 11, 33, .rel, .sys⟩)] = true := by decide

theorem test_decode_memory_2 : decodes [
    (wM 0x8c 10 12 4 0xe07f8 0 0 0, .cas ⟨gd, 10, 12, 4, 14, 0, 0x7F8, .relaxed, .none⟩),
    (wM 0x8d 10 12 3 0xe0008 4 1 0, .cass ⟨gd, 10, 12, 3, 14, 0, 8, .rel, .wg⟩),
    (wR 0x8e 0 0 0 0 0x90, .fence ⟨gd, 2, .dev⟩),
    (wM 0x8f 9 10 1 0xa5fff0 4 2 3, .cmcast ⟨gd, 9, 10, 1, 0xA5, 0xFFF0, .rel, .cl, 3⟩),
    (wR 0x90 9 10 33 0 0x8, .migrq ⟨gd, 9, .v 10, some 33⟩),
    (wR 0x91 9 10 12 13 0x0, .tinv ⟨gd, 9, 10, 12, 13⟩),
    (wM 0x92 1 12 2 0x20 1 3 0, .recld ⟨gd, 1, some 12, 2, 0x20, .na, .die⟩),
    (wM 0x93 1 128 2 0x20 4 4 0, .recst ⟨gd, 1, none, 2, 0x20, .rel, .dev⟩)] = true := by decide

theorem test_decode_engine_1 : decodes [
    (wR 0xa0 3 2 40 17 0x18, .cpbox ⟨gd, 3, 2, 40, some 17, true, 0⟩),
    (wS 0xa0 3 2 0x123 0x4, .cpboxImm ⟨gd, 3, 2, 0x123⟩),
    (wR 0xa1 3 2 40 0 0x60, .cpstb ⟨gd, 3, 2, 40, none, false, 3⟩),
    (wS 0xa1 3 2 0x123 0x4, .cpstbImm ⟨gd, 3, 2, 0x123⟩),
    (wR 0xa2 3 2 40 42 0x10000, .cpidx ⟨gd, 3, 2, .s 40, 42⟩),
    (wS 0xa2 70 2 0x123 0x2c, .cpidxImm ⟨gd, 5, 2, 70, 0x123⟩),
    (wR 0xa3 3 10 41 95 0x8, .cpss ⟨gd, 3, 10, 41, some 95⟩),
    (wS 0xa3 3 10 0xa5 0x4, .cpssImm ⟨gd, 3, 10, 0xA5⟩),
    (wR 0xa4 3 10 41 0 0x80, .cpfill ⟨gd, 3, 10, 41, true⟩),
    (wS 0xa4 3 10 0x8001 0x4, .cpfillImm ⟨gd, 3, 10, 0x8001, false⟩),
    (wR 0xa5 0 0 0 0 0x1008, .qfence ⟨gd, 0x201⟩),
    (wR 0xa6 13 0 128 0 0x0, .cqwait ⟨gd, 13, none⟩)] = true := by decide

theorem test_decode_engine_2 : decodes [
    (wR 0xa6 8 0 33 0 0x0, .cqwait ⟨gd, 8, some 33⟩),
    (wR 0xa7 5 0 3 0 0x0, .cvjoin ⟨gd, 5, 3⟩),
    (wR 0xa8 0 0 3 0 0x0, .cvleave ⟨gd, 3⟩),
    (wM 0xa9 9 10 1 0x50 2 3 1, .cvld ⟨gd, 9, 10, 1, 0x50, .ef, .die, 1⟩),
    (wR 0xaa 9 10 11 12 0x20008, .msend ⟨gd, 9, .s 10, 11, 12, true⟩),
    (wR 0xab 9 10 11 12 0x0, .mrecv ⟨gd, 9, 10, 11, 12⟩),
    (wR 0xac 8 10 0 0 0x0, .mtest ⟨gd, 8, 10⟩),
    (wR 0xad 5 10 0 0 0x0, .mcancel ⟨gd, 5, 10⟩),
    (wR 0xae 9 10 4 12 0x0, .coll ⟨gd, 9, 10, 4, 12⟩),
    (wR 0xaf 0 10 0 0 0x0, .cwait ⟨gd, 10⟩)] = true := by decide

theorem test_decode_matrix_1 : decodes [
    (wS 0xc0 32 0 0x2108 0x3424, .shape ⟨gd, 32, 0x2108, .bf16, 1⟩),
    (wR 0xc1 7 1 128 200 0x29, .tld ⟨gd, 7, 1, none, 200, true, false, true, true⟩),
    (wR 0xc2 7 1 12 200 0x10, .tst ⟨gd, 7, 1, some 12, 200, false, true, false, false⟩),
    (wR 0xc3 7 1 12 200 0x11, .wbld ⟨gd, 7, 1, some 12, 200, false, true, false, true⟩),
    (wR 0xc4 33 7 8 3 0x2408, .mma ⟨gd, 33, 7, 8, 3, .f4, true, false⟩),
    (wR 0xc4 33 7 8 0 0x3401, .mma ⟨gd, 33, 7, 8, 0, .bf16, false, true⟩),
    (wR 0xc5 33 34 12 0 0x1, .scacc ⟨gd, 33, 34, 12, true⟩),
    (wR 0xc6 70 34 12 3 0x0, .accrd ⟨gd, 70, 34, .const 12 3⟩),
    (wR 0xc7 34 70 12 0 0x8, .accwr ⟨gd, 70, 34, .scalar 12⟩),
    (wR 0xc8 34 0 0 0 0x1, .accz ⟨gd, 34, true⟩),
    (wR 0xc9 5 34 8 0 0x0, .aballoc ⟨gd, 5, 34, 8⟩),
    (wR 0xca 0 34 0 0 0x0, .abfree ⟨gd, 34⟩)] = true := by decide

theorem test_decode_matrix_2 : decodes [
    (wR 0xcb 0 8 0 0 0x0, .cred ⟨gd, 8⟩),
    (wR 0xcc 10 8 0 0 0x4418, .qgate ⟨gd, 10, 8, .c128, 3⟩),
    (wR 0xcd 11 16 0 0 0x4000, .qmapSet ⟨gd, 11, 16, .c64, 0⟩),
    (wR 0xcd 20 12 2 0 0x8, .qmapRd ⟨gd, 20, 12, 2, .n8⟩)] = true := by decide

theorem test_decode_pair_1 : decodes [
    (wP 0 3 5 9 0x200 1 4 6 10 0x3ff, .pairIaddRr ⟨3, 5, 9, 0x200⟩ ⟨1, ⟨4, 6, 10, 0x3ff⟩⟩),
    (wP 1 3 5 9 0x155 1 4 6 10 0x3ff, .pairIaddRi ⟨3, 5, 9, 0x155⟩ ⟨1, ⟨4, 6, 10, 0x3ff⟩⟩),
    (wP 2 3 5 9 0x200 1 4 6 10 0x3ff, .pairIsubRr ⟨3, 5, 9, 0x200⟩ ⟨1, ⟨4, 6, 10, 0x3ff⟩⟩),
    (wP 3 3 5 9 0x200 1 4 6 10 0x3ff, .pairImulRr ⟨3, 5, 9, 0x200⟩ ⟨1, ⟨4, 6, 10, 0x3ff⟩⟩),
    (wP 4 3 5 9 0x155 1 4 6 10 0x3ff, .pairImulRi ⟨3, 5, 9, 0x155⟩ ⟨1, ⟨4, 6, 10, 0x3ff⟩⟩),
    (wP 5 3 5 9 0x200 1 4 6 10 0x3ff, .pairIminIRr ⟨3, 5, 9, 0x200⟩ ⟨1, ⟨4, 6, 10, 0x3ff⟩⟩),
    (wP 6 3 5 9 0x200 1 4 6 10 0x3ff, .pairImaxIRr ⟨3, 5, 9, 0x200⟩ ⟨1, ⟨4, 6, 10, 0x3ff⟩⟩),
    (wP 7 3 5 9 0x200 1 4 6 10 0x3ff, .pairIminNRr ⟨3, 5, 9, 0x200⟩ ⟨1, ⟨4, 6, 10, 0x3ff⟩⟩),
    (wP 8 3 5 9 0x200 1 4 6 10 0x3ff, .pairImaxNRr ⟨3, 5, 9, 0x200⟩ ⟨1, ⟨4, 6, 10, 0x3ff⟩⟩),
    (wP 9 3 5 9 0x200 1 4 6 10 0x3ff, .pairAndRr ⟨3, 5, 9, 0x200⟩ ⟨1, ⟨4, 6, 10, 0x3ff⟩⟩),
    (wP 10 3 5 9 0x155 1 4 6 10 0x3ff, .pairAndRi ⟨3, 5, 9, 0x155⟩ ⟨1, ⟨4, 6, 10, 0x3ff⟩⟩),
    (wP 11 3 5 9 0x200 1 4 6 10 0x3ff, .pairOrRr ⟨3, 5, 9, 0x200⟩ ⟨1, ⟨4, 6, 10, 0x3ff⟩⟩)] = true := by decide

theorem test_decode_pair_2 : decodes [
    (wP 12 3 5 9 0x155 1 4 6 10 0x3ff, .pairOrRi ⟨3, 5, 9, 0x155⟩ ⟨1, ⟨4, 6, 10, 0x3ff⟩⟩),
    (wP 13 3 5 9 0x200 1 4 6 10 0x3ff, .pairXorRr ⟨3, 5, 9, 0x200⟩ ⟨1, ⟨4, 6, 10, 0x3ff⟩⟩),
    (wP 14 3 5 9 0x155 1 4 6 10 0x3ff, .pairXorRi ⟨3, 5, 9, 0x155⟩ ⟨1, ⟨4, 6, 10, 0x3ff⟩⟩),
    (wP 15 3 5 9 0x200 1 4 6 10 0x3ff, .pairAndnRr ⟨3, 5, 9, 0x200⟩ ⟨1, ⟨4, 6, 10, 0x3ff⟩⟩),
    (wP 16 3 5 9 0x155 1 4 6 10 0x3ff, .pairShlRi ⟨3, 5, 9, 0x155⟩ ⟨1, ⟨4, 6, 10, 0x3ff⟩⟩),
    (wP 17 3 5 9 0x155 1 4 6 10 0x3ff, .pairShrRi ⟨3, 5, 9, 0x155⟩ ⟨1, ⟨4, 6, 10, 0x3ff⟩⟩),
    (wP 18 3 5 9 0x155 1 4 6 10 0x3ff, .pairSarRi ⟨3, 5, 9, 0x155⟩ ⟨1, ⟨4, 6, 10, 0x3ff⟩⟩),
    (wP 19 3 5 9 0x200 1 4 6 10 0x3ff, .pairShlRr ⟨3, 5, 9, 0x200⟩ ⟨1, ⟨4, 6, 10, 0x3ff⟩⟩),
    (wP 20 3 5 9 0x155 1 4 6 10 0x3ff, .pairIcmpPc ⟨3, 5, 9, 0x155⟩ ⟨1, ⟨4, 6, 10, 0x3ff⟩⟩),
    (wP 21 3 5 9 0x0 1 4 6 10 0x3ff, .pairPopcRm ⟨3, 5, 9, 0x0⟩ ⟨1, ⟨4, 6, 10, 0x3ff⟩⟩),
    (wP 22 3 5 9 0x0 1 4 6 10 0x3ff, .pairClzRm ⟨3, 5, 9, 0x0⟩ ⟨1, ⟨4, 6, 10, 0x3ff⟩⟩),
    (wP 23 3 5 9 0x0 1 4 6 10 0x3ff, .pairIabsRm ⟨3, 5, 9, 0x0⟩ ⟨1, ⟨4, 6, 10, 0x3ff⟩⟩)] = true := by decide

theorem test_decode_pair_3 : decodes [
    (wP 24 3 5 9 0x200 1 4 6 10 0x3ff, .pairFaddRr ⟨3, 5, 9, 0x200⟩ ⟨1, ⟨4, 6, 10, 0x3ff⟩⟩),
    (wP 25 3 5 9 0x200 1 4 6 10 0x3ff, .pairFsubRr ⟨3, 5, 9, 0x200⟩ ⟨1, ⟨4, 6, 10, 0x3ff⟩⟩),
    (wP 26 3 5 9 0x200 1 4 6 10 0x3ff, .pairFmulRr ⟨3, 5, 9, 0x200⟩ ⟨1, ⟨4, 6, 10, 0x3ff⟩⟩),
    (wP 27 3 5 9 0x200 1 4 6 10 0x3ff, .pairFminRr ⟨3, 5, 9, 0x200⟩ ⟨1, ⟨4, 6, 10, 0x3ff⟩⟩),
    (wP 28 3 5 9 0x200 1 4 6 10 0x3ff, .pairFmaxRr ⟨3, 5, 9, 0x200⟩ ⟨1, ⟨4, 6, 10, 0x3ff⟩⟩),
    (wP 29 3 5 9 0x80 1 4 6 10 0x3ff, .pairFrcpRm ⟨3, 5, 9, 0x80⟩ ⟨1, ⟨4, 6, 10, 0x3ff⟩⟩),
    (wP 30 3 5 9 0x80 1 4 6 10 0x3ff, .pairFrsqRm ⟨3, 5, 9, 0x80⟩ ⟨1, ⟨4, 6, 10, 0x3ff⟩⟩),
    (wP 31 3 5 9 0x80 1 4 6 10 0x3ff, .pairFexp2Rm ⟨3, 5, 9, 0x80⟩ ⟨1, ⟨4, 6, 10, 0x3ff⟩⟩),
    (wP 32 3 5 9 0x80 1 4 6 10 0x3ff, .pairFlog2Rm ⟨3, 5, 9, 0x80⟩ ⟨1, ⟨4, 6, 10, 0x3ff⟩⟩),
    (wP 33 3 5 9 0x0 1 4 6 10 0x3ff, .pairMovRm ⟨3, 5, 9, 0x0⟩ ⟨1, ⟨4, 6, 10, 0x3ff⟩⟩),
    (wP 34 3 5 9 0x155 1 4 6 10 0x3ff, .pairMoviMi ⟨3, 5, 9, 0x155⟩ ⟨1, ⟨4, 6, 10, 0x3ff⟩⟩),
    (wP 35 3 5 9 0x155 1 4 6 10 0x3ff, .pairIsubRi ⟨3, 5, 9, 0x155⟩ ⟨1, ⟨4, 6, 10, 0x3ff⟩⟩)] = true := by decide

theorem test_decode_pair_4 : decodes [
    (wP 36 3 5 9 0x200 1 4 6 10 0x3ff, .pairIaddsRr ⟨3, 5, 9, 0x200⟩ ⟨1, ⟨4, 6, 10, 0x3ff⟩⟩),
    (wP 37 3 5 9 0x155 1 4 6 10 0x3ff, .pairLdMr ⟨3, 5, 9, 0x155⟩ ⟨1, ⟨4, 6, 10, 0x3ff⟩⟩),
    (wP 38 3 5 9 0x155 1 4 6 10 0x3ff, .pairStMr ⟨3, 5, 9, 0x155⟩ ⟨1, ⟨4, 6, 10, 0x3ff⟩⟩),
    (wP 39 3 5 9 0x155 1 4 6 10 0x3ff, .pairLdsMs ⟨3, 5, 9, 0x155⟩ ⟨1, ⟨4, 6, 10, 0x3ff⟩⟩),
    (wP 40 3 5 9 0x155 1 4 6 10 0x3ff, .pairStsMs ⟨3, 5, 9, 0x155⟩ ⟨1, ⟨4, 6, 10, 0x3ff⟩⟩),
    (wP 41 3 5 9 0x155 1 4 6 10 0x3ff, .pairLdfeMf ⟨3, 5, 9, 0x155⟩ ⟨1, ⟨4, 6, 10, 0x3ff⟩⟩),
    (wP 1 4 6 10 0x3ff 42 3 5 9 0x155, .pairBraBr ⟨3, 5, 9, 0x155⟩ ⟨1, ⟨4, 6, 10, 0x3ff⟩⟩),
    (wP 1 4 6 10 0x3ff 43 3 0 0 0x0, .pairExitZ ⟨3, 0, 0, 0x0⟩ ⟨1, ⟨4, 6, 10, 0x3ff⟩⟩),
    (wP 1 4 6 10 0x3ff 44 3 0 0 0x0, .pairNopZ ⟨3, 0, 0, 0x0⟩ ⟨1, ⟨4, 6, 10, 0x3ff⟩⟩),
    (wP 1 4 6 10 0x3ff 45 3 0 0 0x0, .pairPauseZ ⟨3, 0, 0, 0x0⟩ ⟨1, ⟨4, 6, 10, 0x3ff⟩⟩),
    (wP 1 4 6 10 0x3ff 46 3 0 0 0x0, .pairWsyncZ ⟨3, 0, 0, 0x0⟩ ⟨1, ⟨4, 6, 10, 0x3ff⟩⟩),
    (wP 1 4 6 10 0x3ff 47 3 0 0 0x5f, .pairBsyncZb ⟨3, 0, 0, 0x5f⟩ ⟨1, ⟨4, 6, 10, 0x3ff⟩⟩)] = true := by decide

/-! ## Ill-formed instructions: one for each check of `Instr.wf` -/

def refused (l : List Instr) : Bool := l.all (fun i => !i.wf)

theorem test_wf_control : refused [.bsync ⟨gd, 96, none⟩, .barv ⟨gd, none, 96, none⟩, .bwait ⟨gd, 200, .v 1⟩, .bexpect ⟨gd, 96, 1⟩,
    .cbar ⟨gd, 3⟩, .fork ⟨gd, 14, 0⟩] = true := by decide
theorem test_wf_memory : refused [.ld ⟨gd, 9, 10, 1, 0, .rel, .dev, 0⟩, .ld ⟨gd, 9, 10, 1, 0, .acq, .none, 0⟩,
    .st ⟨gd, 9, 10, 1, 0, .na, .none, 0⟩, .lds ⟨gd, 9, 10, 0, 0, .acq, .die, 0⟩, .lds ⟨gd, 9, 10, 1, 0, .relaxed, .none, 0⟩,
    .lds ⟨gd, 9, 10, 4, 0, .relaxed, .none, 3⟩, .sts ⟨gd, 9, 10, 0, 0, .acq, .cl, 0⟩, .ldfe ⟨gd, 9, 10, 0, 0, .relaxed, .wg, 0⟩,
    .ldfe ⟨gd, 9, 10, 0, 0, .ef, .none, 0⟩, .stf ⟨gd, 9, 10, 0, 0, .rel, .none, 0⟩, .ldw ⟨gd, 9, 10, 1, 0, .relaxed, .none, 3⟩,
    .stw ⟨gd, 9, 10, 1, 0, .relaxed, .none, 3⟩, .stw ⟨gd, 9, 10, 1, 0, .acq, .dev, 0⟩, .ldw ⟨gd, 9, 10, 1, 0, .ar, .dev, 0⟩] = true := by decide
theorem test_wf_atomics : refused [.atom ⟨gd, 9, 10, 1, 11, 7, 0, .relaxed, .none⟩, .atom ⟨gd, 9, 10, 1, 11, 0, 0, .na, .none⟩,
    .atoms ⟨gd, 9, 10, 6, 11, 0, 0, .relaxed, .none⟩, .atoms ⟨gd, 9, 10, 0, 11, 0, 0, .acq, .die⟩, .atomo ⟨gd, 9, 10, 1, 11, 12, .acq, .dev⟩,
    .cas ⟨gd, 9, 10, 1, 11, 6, 0, .relaxed, .none⟩, .cass ⟨gd, 9, 10, 1, 11, 1, 0, .relaxed, .none⟩, .cass ⟨gd, 9, 10, 6, 11, 0, 0, .relaxed, .none⟩,
    .fence ⟨gd, 0, .none⟩, .cmcast ⟨gd, 9, 10, 1, 255, 0, .relaxed, .none, 0⟩, .cmcast ⟨gd, 9, 10, 0, 255, 0, .rel, .dev, 0⟩,
    .recld ⟨gd, 1, none, 2, 0, .rel, .dev⟩, .recst ⟨gd, 1, none, 2, 0, .acq, .dev⟩, .cvld ⟨gd, 9, 10, 1, 0, .acq, .dev, 0⟩] = true := by decide
theorem test_wf_engines : refused [.cpbox ⟨gd, 14, 2, 40, none, false, 0⟩, .cpbox ⟨gd, 3, 2, 40, some 96, false, 0⟩, .cpbox ⟨gd, 3, 2, 40, none, false, 1⟩,
    .cpboxImm ⟨gd, 14, 2, 0⟩, .cpstb ⟨gd, 15, 2, 40, none, false, 0⟩, .cpstb ⟨gd, 3, 2, 40, some 96, false, 0⟩, .cpstb ⟨gd, 3, 2, 40, none, true, 0⟩,
    .cpstbImm ⟨gd, 14, 2, 0⟩, .cpidx ⟨gd, 14, 2, .v 4, 42⟩, .cpidxImm ⟨gd, 14, 2, 70, 0⟩, .cpss ⟨gd, 14, 10, 41, none⟩, .cpss ⟨gd, 3, 10, 41, some 97⟩,
    .cpssImm ⟨gd, 14, 10, 1⟩, .cpfill ⟨gd, 14, 10, 41, false⟩, .cpfillImm ⟨gd, 14, 10, 0, false⟩, .cqwait ⟨gd, 14, none⟩,
    .tst ⟨gd, 7, 1, none, 0, false, false, true, false⟩, .wbld ⟨gd, 7, 1, none, 0, false, false, true, false⟩,
    .wbld ⟨gd, 7, 1, none, 0, true, false, false, false⟩, .mma ⟨gd, 33, 7, 8, 1, .bf16, false, false⟩, .qgate ⟨gd, 14, 8, .c64, 0⟩,
    .qmapSet ⟨gd, 14, 8, .c64, 0⟩, .qmapSet ⟨gd, 10, 8, .c64, 1⟩, .qmapSet ⟨gd, 10, 8, .c64, 4⟩, .qmapRd ⟨gd, 20, 14, 2, .n8⟩] = true := by decide
theorem test_wf_pairs : refused [.pairIaddRr ⟨3, 5, 9, 1⟩ ⟨1, ⟨4, 6, 10, 0⟩⟩, .pairIaddRr ⟨3, 5, 9, 0⟩ ⟨48, ⟨4, 6, 10, 0⟩⟩,
    .pairIaddRr ⟨3, 5, 9, 0⟩ ⟨1, ⟨4, 9, 10, 0⟩⟩, .pairIaddRr ⟨3, 5, 9, 0⟩ ⟨44, ⟨0, 0, 0, 0⟩⟩, .pairFrcpRm ⟨3, 5, 9, 640⟩ ⟨1, ⟨4, 6, 10, 0⟩⟩,
    .pairMovRm ⟨3, 5, 9, 8⟩ ⟨1, ⟨4, 6, 10, 0⟩⟩, .pairIcmpPc ⟨3, 8, 9, 0⟩ ⟨1, ⟨4, 6, 10, 0⟩⟩, .pairIcmpPc ⟨3, 5, 9, 0⟩ ⟨20, ⟨4, 5, 10, 0⟩⟩,
    .pairLdMr ⟨3, 5, 9, 0⟩ ⟨39, ⟨4, 6, 10, 0⟩⟩, .pairNopZ ⟨3, 1, 0, 0⟩ ⟨1, ⟨4, 6, 10, 0⟩⟩, .pairNopZ ⟨3, 0, 0, 0⟩ ⟨45, ⟨0, 0, 0, 0⟩⟩,
    .pairBsyncZb ⟨3, 0, 0, 96⟩ ⟨1, ⟨4, 6, 10, 0⟩⟩, .pairBsyncZb ⟨3, 0, 1, 0⟩ ⟨1, ⟨4, 6, 10, 0⟩⟩] = true := by decide

/-! ## Words that are no instruction (Table 14): the first failure, with its reason and bit -/

theorem test_decode_refusals : [(0xC000000000000000, 1, 62), (wR 0xE3 0 0 0 0 0, 2, 55), (wR 0x1C 0 0 0 0 0, 2, 55),
    (wP 48 0 0 0 0 1 0 0 0 0, 3, 56), (wR 0 9 10 11 0 (2 ^ 18 + 2 * 1024), 4, 18), (wR 0 9 10 11 1 (2 * 1024), 4, 19),
    (wR 0 9 10 11 0 (18 * 1024), 5, 10), (wR 0x20 9 10 11 0 (14 * 1024 + 5 * 128), 5, 7), (wM 0x80 9 10 0 0 4 4 0, 5, 5),
    (wR 0x6B 0 96 0 0 0, 5, 35), (wR 0xA6 14 0 0x80 0 0, 5, 43), (wR 2 9 10 11 3 (2 * 1024 + 4), 6, 2), (wR 0x41 9 0 0 0 0, 6, 2),
    (wP 0 7 1 2 0 0 7 5 3 0, 7, 255)].all (fun (p : DWord × Nat × Nat) => decode p.1 == .error ⟨p.2.1, p.2.2⟩) = true := by decide

/-! ## One word on a small warp: four lanes, expected values worked out by hand from the rules -/

def gt : Guard := ⟨7, false⟩

/-- A register file from (register, its first lanes). -/
def regsOfRows (l : List (Nat × List Nat)) : Tbl Word :=
  l.foldl (fun t e => (List.range e.2.length).foldl (fun t k => Tbl.set 0 t (32 * e.1 + k) (BitVec.ofNat 32 (e.2.getD k 0))) t) []

/-- Scalars: two records, at rec1 over virtual address 0x28000 (n32, 64 elements, trap at its bounds) and rec2 over the same place
with n64 elements, and constants from s40 on. -/
def scalarsT : Tbl Word :=
  [(8, 0x28000), (10, 64), (14, 0x22), (16, 0x28000), (18, 64), (22, 0x23), (40, 0x408), (41, 0x10203), (42, 2), (43, 0x3F800000),
   (44, 0x7FFD0201), (45, 0x40000000)]

def wT : Warp := { Warp.start loadedWg 0 0xF 0x20000 scalarsT with
  vregs := regsOfRows [(1, [5, 0xFFFFFFFF, 0x80000000, 7]), (2, [3, 1, 0xFFFFFFFF, 0x7FFFFFFF]), (3, [1, 2, 33, 31]), (4, [0, 4, 8, 12]),
    (8, [0x3F800000, 0xC0000000, 0x7FC00000, 0x7F800000]), (14, [9, 8, 9, 9]), (16, [0, 8, 16, 24]),
    (18, [0x40200000, 0x3F000000, 0x3F800000, 0xBF800000]), (20, [0x3F800000]), (21, [0x40000000]), (22, [0x40400000]), (23, [0x40800000]),
    (24, [0x3F800000]), (25, [0x40000000]), (26, [0xC0400000]), (27, [0x43960000]),
    (30, [0x7FC00000, 0x7F800000, 0xFF800000, 0x80000000])]
  preds := [(1, 5), (2, 3)] }

/-- The machine with warp `w` on core 0, slot 0, and its word in execution. -/
def sT (w : Warp) : State := { State.reset.loaded with warps := [(0, w)], cur := some ⟨0, 0, 0x20000, w.lmask, 0, loadedCtx.mode, none⟩ }
def eT (w : Warp) : Env := ⟨⟨0, 0, 0x20000, w.lmask, 0, loadedCtx.mode, none⟩, w, loadedWg, loadedLaunch, loadedCtx⟩

theorem test_env : (sT wT).executes (eT wT) ∧ wT.canonical ∧ (sT wT).canonical := by decide +kernel

/-- The warp after a word. -/
def ran (i : Instr) (w : Warp := wT) : Option Warp :=
  match exec i (sT w) with
  | .next t => t.warp? 0 0
  | _ => none
/-- The first four lanes of a register after a word, a scalar, a predicate's mask. -/
def got (r : Nat) (i : Instr) : List Nat := (ran i).elim [] (fun w => (List.range 4).map (fun l => (w.v r l).toNat))
def gotS (r : Nat) (i : Instr) : Option Nat := (ran i).map (fun w => (w.s r).toNat)
def gotP (p : Nat) (i : Instr) : Option Nat := (ran i).map (fun w => (Tbl.get 0 w.preds p).toNat)

theorem test_integer_two : [got 9 (.iadd ⟨gt, 9, .v 1, .v 2, .n32⟩), got 9 (.isub ⟨gt, 9, .v 1, .v 2, .i32⟩),
    got 9 (.imul ⟨gt, 9, .v 1, .v 2, .n32⟩), got 9 (.imulhI ⟨gt, 9, .v 1, .v 2, .i32⟩), got 9 (.imulhN ⟨gt, 9, .v 1, .v 2, .n32⟩),
    got 9 (.iminI ⟨gt, 9, .v 1, .v 2, .i32⟩), got 9 (.iminN ⟨gt, 9, .v 1, .v 2, .n32⟩), got 9 (.imaxI ⟨gt, 9, .v 1, .v 2, .i32⟩),
    got 9 (.imaxN ⟨gt, 9, .v 1, .v 2, .n32⟩), got 9 (.iadds ⟨gt, 9, .v 1, .v 2, .i32⟩), got 9 (.isubs ⟨gt, 9, .v 1, .v 2, .n32⟩)] =
  [[8, 0, 0x7FFFFFFF, 0x80000006], [2, 0xFFFFFFFE, 0x80000001, 0x80000008], [15, 0xFFFFFFFF, 0x80000000, 0x7FFFFFF9],
    [0, 0xFFFFFFFF, 0, 3], [0, 0, 0x7FFFFFFF, 3], [3, 0xFFFFFFFF, 0x80000000, 7], [3, 1, 0x80000000, 7], [5, 1, 0xFFFFFFFF, 0x7FFFFFFF],
    [5, 0xFFFFFFFF, 0xFFFFFFFF, 0x7FFFFFFF], [8, 0, 0x80000000, 0x7FFFFFFF], [2, 0xFFFFFFFE, 0, 0]] := by decide +kernel
theorem test_integer_bits : [got 9 (.and ⟨gt, 9, .v 1, .v 2, .n32⟩), got 9 (.or ⟨gt, 9, .v 1, .v 2, .n32⟩),
    got 9 (.xor ⟨gt, 9, .v 1, .v 2, .n32⟩), got 9 (.andn ⟨gt, 9, .v 1, .v 2, .n32⟩), got 9 (.shl ⟨gt, 9, .v 1, .v 3, .n32⟩),
    got 9 (.shr ⟨gt, 9, .v 1, .v 3, .n32⟩), got 9 (.sar ⟨gt, 9, .v 1, .v 3, .i32⟩), got 9 (.bfx ⟨gt, 9, .v 1, .s 40, .n32⟩),
    got 9 (.bfxImm ⟨gt, 9, .v 1, 0x201, .i32⟩), got 9 (.bfi ⟨gt, 9, .v 1, .v 2, .s 40, .n32⟩), got 9 (.popc ⟨gt, 9, .v 1, .n32⟩),
    got 9 (.clz ⟨gt, 9, .v 1, .n32⟩), got 9 (.iabs ⟨gt, 9, .v 1, .i32⟩)] =
  [[1, 1, 0x80000000, 7], [7, 0xFFFFFFFF, 0xFFFFFFFF, 0x7FFFFFFF], [6, 0xFFFFFFFE, 0x7FFFFFFF, 0x7FFFFFF8], [4, 0xFFFFFFFE, 0, 0],
    [10, 0xFFFFFFFC, 0, 0x80000000], [2, 0x3FFFFFFF, 0, 0], [2, 0xFFFFFFFF, 0xFFFFFFFF, 0], [0, 15, 0, 0],
    [0xFFFFFFFE, 0xFFFFFFFF, 0, 0xFFFFFFFF], [0x305, 0xFFFFF1FF, 0x80000F00, 0xF07], [2, 32, 1, 3], [29, 0, 0, 29],
    [5, 1, 0x80000000, 7]] := by decide +kernel
theorem test_integer_imm : [got 9 (.iaddImm ⟨gt, 9, .v 1, 0xFFFFFFFF⟩), got 9 (.isubImm ⟨gt, 9, .v 1, 1⟩), got 9 (.imulImm ⟨gt, 9, .v 1, 3⟩),
    got 9 (.andImm ⟨gt, 9, .v 1, 6⟩), got 9 (.orImm ⟨gt, 9, .v 1, 8⟩), got 9 (.xorImm ⟨gt, 9, .v 1, 255⟩), got 9 (.andnImm ⟨gt, 9, .v 1, 4⟩),
    got 9 (.shlImm ⟨gt, 9, .v 1, 4⟩), got 9 (.shrImm ⟨gt, 9, .v 1, 1⟩), got 9 (.sarImm ⟨gt, 9, .v 1, 31⟩),
    got 9 (.iminIImm ⟨gt, 9, .v 1, 0xFFFE, .i32⟩), got 9 (.iminNImm ⟨gt, 9, .v 1, 0xFFFF, .n32⟩), got 9 (.imaxIImm ⟨gt, 9, .v 1, 6, .i32⟩),
    got 9 (.imaxNImm ⟨gt, 9, .v 1, 6, .n32⟩), got 9 (.iaddsImm ⟨gt, 9, .v 1, 0xFFFF, .i32⟩), got 9 (.isubsImm ⟨gt, 9, .v 1, 6, .n32⟩)] =
  [[4, 0xFFFFFFFE, 0x7FFFFFFF, 6], [4, 0xFFFFFFFE, 0x7FFFFFFF, 6], [15, 0xFFFFFFFD, 0x80000000, 21], [4, 6, 0, 6],
    [13, 0xFFFFFFFF, 0x80000008, 15], [0xFA, 0xFFFFFF00, 0x800000FF, 0xF8], [1, 0xFFFFFFFB, 0x80000000, 3], [0x50, 0xFFFFFFF0, 0, 0x70],
    [2, 0x7FFFFFFF, 0x40000000, 3], [0, 0xFFFFFFFF, 0xFFFFFFFF, 0], [0xFFFFFFFE, 0xFFFFFFFE, 0x80000000, 0xFFFFFFFE],
    [5, 0xFFFFFFFF, 0x80000000, 7], [6, 6, 6, 7], [6, 0xFFFFFFFF, 0x80000000, 7], [4, 0xFFFFFFFE, 0x80000000, 6],
    [0, 0xFFFFFFF9, 0x7FFFFFFA, 1]] := by decide +kernel
theorem test_integer_carry : [got 9 (.iaddc ⟨gt, 9, .v 1, .v 2, 1, .n32⟩), got 9 (.isubb ⟨gt, 9, .v 1, .v 2, 1, .n32⟩),
    got 9 (.imad ⟨gt, 9, .v 1, .v 2, .v 3, .n32⟩), got 12 (.imadw ⟨gt, 12, .v 1, .v 2, .v 6, .i32⟩), got 13 (.imadw ⟨gt, 12, .v 1, .v 2, .v 6, .i32⟩)] =
  [[9, 0, 0x80000000, 0x80000006], [1, 0xFFFFFFFE, 0x80000000, 0x80000008], [16, 1, 0x80000021, 0x80000018],
    [15, 0xFFFFFFFF, 0x80000000, 0x7FFFFFF9], [0, 0xFFFFFFFF, 0, 3]] ∧
  [gotP 1 (.iaddc ⟨gt, 9, .v 1, .v 2, 1, .n32⟩), gotP 1 (.isubb ⟨gt, 9, .v 1, .v 2, 1, .n32⟩), gotP 3 (.icmp ⟨gt, 3, .v 1, .v 2, 2, .i32⟩),
    gotP 3 (.icmp ⟨gt, 3, .v 1, .v 2, 2, .n32⟩), gotP 3 (.icmpImm ⟨gt, 3, .v 1, 5, 0, .n32⟩)] =
  [some 6, some 12, some 14, some 12, some 1] := by decide +kernel
theorem test_lane : [got 9 (.mov ⟨gt, 9, .v 1, .n32⟩), got 9 (.movi ⟨gt, 9, 0xFFFFFFFF⟩), got 9 (.movri ⟨gt, 9, .v 3, 1, .n32⟩),
    got 21 (.movrw ⟨gt, 3, .v 1, 20, .n32⟩), got 9 (.srd ⟨gt, .v 9, 1, .n32, false⟩), got 9 (.shfl ⟨gt, 9, .v 1, .const 1, .n32, 0, 0⟩),
    got 9 (.shfl ⟨gt, 9, .v 1, .const 1, .n32, 1, 0⟩), got 9 (.shfl ⟨gt, 9, .v 1, .const 1, .n32, 3, 0⟩), got 9 (.vote ⟨gt, .mask (.v 9), 1, .n32, 0⟩),
    got 9 (.vote ⟨gt, .rank (.v 9), 1, .n32, 0⟩), got 9 (.redux ⟨gt, .v 9, .v 1, .i32, 0⟩), got 9 (.redux ⟨gt, .v 9, .v 1, .i32, 1⟩),
    got 9 (.scan ⟨gt, 9, .v 1, .n32, 0, false⟩), got 9 (.scan ⟨gt, 9, .v 1, .n32, 0, true⟩), got 9 (.sel ⟨gt, 9, .v 1, .v 2, 1, .n32⟩),
    got 9 (.prmt ⟨gt, 9, .v 1, .v 2, .s 41, .n32⟩), got 9 (.matchL ⟨gt, 9, .v 14, .n32, false⟩), got 9 (.matchL ⟨gt, 9, .v 14, .n32, true⟩),
    got 9 (.pack ⟨gt, 9, .v 1, .v 2, 1, .i8, true⟩), got 9 (.unpk ⟨gt, 9, .v 1, 0, .i8⟩)] =
  [[5, 0xFFFFFFFF, 0x80000000, 7], [0xFFFFFFFF, 0xFFFFFFFF, 0xFFFFFFFF, 0xFFFFFFFF], [3, 2, 0, 0], [5, 0, 0, 0], [0, 1, 2, 3],
    [0xFFFFFFFF, 0xFFFFFFFF, 0xFFFFFFFF, 0xFFFFFFFF], [0xFFFFFFFF, 0x80000000, 7, 0], [0xFFFFFFFF, 5, 7, 0x80000000], [5, 5, 5, 5],
    [0, 1, 1, 2], [0x8000000B, 0x8000000B, 0x8000000B, 0x8000000B], [0x80000000, 0x80000000, 0x80000000, 0x80000000],
    [5, 4, 0x80000004, 0x8000000B], [0, 5, 4, 0x80000004], [5, 1, 0x80000000, 0x7FFFFFFF], [0x05000000, 0xFFFFFFFF, 0x80, 0x07000000],
    [96, 33, 2144, 4192], [13, 2, 13, 13], [0x503, 0xFF01, 0xFFFF80FF, 0x7FFF07FF], [5, 0xFFFFFFFF, 0, 7]] := by decide +kernel
theorem test_lane_once : [gotS 50 (.movs ⟨gt, 50, .lane 1 3, .n32⟩), gotS 50 (.movs ⟨gt, 50, .imm 0x8001, .i32⟩), gotS 50 (.movs ⟨gt, 50, .scalar 40, .n32⟩),
    gotS 50 (.vote ⟨gt, .count (.s 50), 1, .n32, 0⟩), gotP 3 (.vote ⟨gt, .test false 3, 1, .n32, 0⟩), gotP 3 (.vote ⟨gt, .test false 3, 1, .n32, 1⟩),
    gotP 3 (.plop ⟨gt, 3, 1, 2, .n32, 8⟩), gotP 3 (.elect ⟨gt, 3, none, .n32, true⟩), gotS 50 (.elect ⟨gt, 3, some 50, .n32, true⟩),
    (ran (.swr ⟨gt, 49, .s 40, .n32⟩)).map (·.rngSeed.toNat)] =
  [some 7, some 0xFFFF8001, some 0x408, some 2, some 15, some 0, some 1, some 8, some 3, some 0x408] := by decide +kernel
theorem test_float : [got 9 (.fadd ⟨gt, 9, .v 8, .v 18, .f32, .rne⟩), got 9 (.fsub ⟨gt, 9, .v 8, .v 18, .f32, .rne⟩),
    got 9 (.fmul ⟨gt, 9, .v 8, .v 18, .f32, .rne⟩), got 9 (.ffma ⟨gt, 9, .v 8, .v 18, .v 8, .f32, .rne⟩), got 9 (.faddImm ⟨gt, 9, .v 8, 0x4000, .f32, .rne⟩),
    got 9 (.fsubImm ⟨gt, 9, .v 8, 0x4000, .f32, .rne⟩), got 9 (.fmulImm ⟨gt, 9, .v 8, 0x4000, .f32, .rne⟩), got 9 (.frcp ⟨gt, 9, .v 18, .f32, .rne⟩),
    got 9 (.fsqrt ⟨gt, 9, .v 18, .f32, .rne⟩), got 9 (.fcvti ⟨gt, 9, .v 18, 14, .i32, .rtz⟩), got 9 (.icvtf ⟨gt, 9, .v 1, 6, .f32, .rne⟩),
    got 9 (.fscale ⟨gt, 9, .v 8, .s 42, .f32, .rne⟩)] =
  [[0x40600000, 0xBFC00000, 0x7FC00000, 0x7F800000], [0xBFC00000, 0xC0200000, 0x7FC00000, 0x7F800000],
    [0x40200000, 0xBF800000, 0x7FC00000, 0xFF800000], [0x40600000, 0xC0400000, 0x7FC00000, 0x7FC00000],
    [0x40400000, 0, 0x7FC00000, 0x7F800000], [0xBF800000, 0xC0800000, 0x7FC00000, 0x7F800000], [0x40000000, 0xC0800000, 0x7FC00000, 0x7F800000],
    [0x3ECCCCCD, 0x40000000, 0x3F800000, 0xBF800000], [0x3FCA62C2, 0x3F3504F3, 0x3F800000, 0x7FC00000], [2, 0, 1, 0xFFFFFFFF],
    [0x40A00000, 0xBF800000, 0xCF000000, 0x40E00000], [0x40800000, 0xC1000000, 0x7FC00000, 0x7F800000]] := by decide +kernel
theorem test_float_more : [(got 20 (.cmul ⟨gt, 30, .v 20, .v 22, none, .c64, .rne, false⟩)).take 1, (got 30 (.cmul ⟨gt, 30, .v 20, .v 22, none, .c64, .rne, false⟩)).take 1,
    (got 31 (.cmul ⟨gt, 30, .v 20, .v 22, none, .c64, .rne, false⟩)).take 1, (got 9 (.qnt ⟨gt, 9, 24, .s 43, .i8, .rne⟩)).take 1,
    (got 31 (.dqnt ⟨gt, 28, .s 44, .s 45, .i8, .rne⟩)).take 1, (got 30 (.dqnt ⟨gt, 28, .s 44, .s 45, .i8, .rne⟩)).take 1,
    (got 9 (.fcvt ⟨gt, 9, .v 24, 2, 14, .bf16, .rne, 0⟩)).take 1, (got 9 (.fdot2 ⟨gt, 9, .s 43, .s 43, .s 43, .bf16, .rne⟩)).take 1] =
  [[0x3F800000], [0xC0A00000], [0x41200000], [0x7FFD0201], [0x437E0000], [0xC0C00000], [0x40003F80], [0x40000000]] ∧
  [gotP 3 (.fcmp ⟨gt, 3, .v 8, .v 18, 2, .f32, .rne⟩), gotP 3 (.fcmpImm ⟨gt, 3, .v 8, 0x3F80, 0, .f32, .rne⟩)] = [some 3, some 1] ∧
  [got 9 (.fmin ⟨gt, 9, .v 8, .v 18, .f32, .rne⟩), got 9 (.fmaxImm ⟨gt, 9, .v 18, 0x3F80, .f32, .rne⟩), got 9 (.fmax ⟨gt, 9, .v 18, .v 18, .f32, .rne⟩),
    got 9 (.fminImm ⟨gt, 9, .v 18, 0x3F80, .f32, .rne⟩)] =
  [[0x3F800000, 0xC0000000, 0x3F800000, 0xBF800000], [0x40200000, 0x3F800000, 0x3F800000, 0x3F800000], [0x40200000, 0x3F000000, 0x3F800000, 0xBF800000],
    [0x3F800000, 0x3F000000, 0x3F800000, 0xBF800000]] := by decide +kernel

/-! ## What lets an access be made, evaluated -/

/-- `State.allows`, evaluated. -/
def allowsB (s : State) (w : Who) (need : Need) (r : Rec) (soft : Bool) (va : Nat) : Bool :=
  canonicalVa r.base && canonicalVa va &&
    match r.peer? with
    | some k =>
      decide (k < s.domain) && decide (k ≠ s.rank) && s.hasRoute w.die k && !s.drops w.die k &&
        (w.rights va).any (fun q =>
          let pg := Tbl.get 0 s.peerPages (peerKey k w.x.key * 2 ^ 40 + fld va 17 40)
          (decide (need ≠ .write) || q.rw && !bit pg 2) &&
            (decide (fld pg 0 2 = 0) || soft && (decide (fld pg 0 2 = 3) || decide (fld pg 0 2 = 2) && !q.hard)))
    | none =>
      (s.rightsOf w va).any (fun q => (s.pageOf w va).any (fun e =>
        (decide (need ≠ .write) || q.rw && leafW e.1) &&
          (!leafF e.1 && (r.host || leafP e.1) || soft && (leafF e.1 || !q.hard))))
/-- `State.allowsAll`, evaluated. -/
def allAllowed (s : State) (w : Who) (need : Need) (r : Rec) (soft : Bool) (va n : Nat) : Bool :=
  (List.range n).all (fun k => allowsB s w need r soft ((va + k) % 2 ^ 64))
theorem allows_of_check {s : State} {w : Who} {need : Need} {r : Rec} {soft : Bool} {va : Nat}
    (h : allowsB s w need r soft va = true) : s.allows w need r soft va := by
  unfold allowsB at h
  unfold State.allows
  simp only [Bool.and_eq_true] at h
  refine ⟨h.1.1, h.1.2, ?_⟩
  cases hp : r.peer? with
  | some k =>
    simp only [hp, Bool.and_eq_true, decide_eq_true_eq, Bool.not_eq_true', Option.any_eq_true, Bool.or_eq_true] at h
    obtain ⟨-, ⟨⟨⟨h1, h2⟩, h3⟩, h4⟩, q, hq, h5, h6⟩ := h
    exact ⟨h1, h2, h3, h4, q, hq, fun hn => h5.resolve_left (fun c => c hn), h6⟩
  | none =>
    simp only [hp, Bool.and_eq_true, decide_eq_true_eq, Bool.not_eq_true', Option.any_eq_true, Bool.or_eq_true] at h
    obtain ⟨-, q, hq, ⟨leaf, size⟩, he, h5, h6⟩ := h
    exact ⟨q, leaf, size, hq, he, fun hn => h5.resolve_left (fun c => c hn), h6⟩
theorem allowsAll_of_check {s : State} {w : Who} {need : Need} {r : Rec} {soft : Bool} {va n : Nat}
    (h : allAllowed s w need r soft va n = true) : s.allowsAll w need r soft va n := by
  intro k hk
  exact allows_of_check (List.all_eq_true.mp h k (List.mem_range.mpr hk))
/-- `Env.reaches`, evaluated. -/
def reachesB (e : Env) (s : State) (r : Rec) (need : Need) (n : Nat) (offs : List (Nat × Int)) : Bool :=
  offs.all (fun p => (decide (r.bnd ≠ 1) || r.inBounds p.2 n) &&
    (!(decide (r.bnd = 0) || r.inBounds p.2 n) || allAllowed s (e.who s p.1) need r false (r.addr p.2) n))
theorem reaches_of_check {e : Env} {s : State} {r : Rec} {need : Need} {n : Nat} {offs : List (Nat × Int)}
    (h : reachesB e s r need n offs = true) : e.reaches s r need n offs := by
  intro p hp
  have h := List.all_eq_true.mp h p hp
  simp only [Bool.and_eq_true, Bool.or_eq_true, decide_eq_true_eq, Bool.not_eq_true', Bool.or_eq_false_iff, decide_eq_false_iff_not] at h
  refine ⟨fun hb => h.1.resolve_left (fun c => c hb), fun hb => allowsAll_of_check (h.2.resolve_left (fun c => ?_))⟩
  exact hb.elim (fun hb => c.1 hb) (fun hb => by rw [hb] at c; exact absurd c.2 (by decide))
/-- `Env.boxFits`, evaluated. -/
def boxFitsB (e : Env) (s : State) (need : Need) (r : Rec) (org : List Int) (size : List Nat) : Bool :=
  (List.range (r.units size)).all (fun i =>
    (decide (r.bnd ≠ 1) || decide (r.inside (r.at' org size i) = if r.nib then 3 else 1)) &&
      (decide (r.inside (r.at' org size i) = 0) || allAllowed s (e.eng s) need r false (r.va (r.at' org size i)) r.unit))
theorem boxFits_of_check {e : Env} {s : State} {need : Need} {r : Rec} {org : List Int} {size : List Nat}
    (h : boxFitsB e s need r org size = true) : e.boxFits s need r org size := by
  intro i hi
  have h := List.all_eq_true.mp h i (List.mem_range.mpr hi)
  simp only [Bool.and_eq_true, Bool.or_eq_true, decide_eq_true_eq] at h
  exact ⟨fun hb => h.1.resolve_left (fun c => c hb), fun hi => allowsAll_of_check (h.2.resolve_left hi)⟩
theorem tileFits_of_check {e : Env} {s : State} {need : Need} {boxes : List (Rec × List Int × List Nat)}
    (h : boxes.all (fun b => boxFitsB e s need b.1 b.2.1 b.2.2) = true) : e.tileFits s need boxes :=
  fun b hb => boxFits_of_check (List.all_eq_true.mp h b hb)
/-- `Env.blocksFit`, evaluated. -/
def blocksFitB (e : Env) (s : State) (r : Rec) (idx : Nat → Nat) (blk list : Nat) : Bool :=
  decide (r.extOf 0 ≠ 0 ∧ (r.nib = true → r.extOf 0 % 2 = 0) ∧ blk % 16 = 0 ∧ list % 16 = 0 ∧ list + 48 ≤ e.l.pk.scr) &&
    (lanesOf e.w.lmask).all (fun l => decide (blk + l * r.blockPitch + r.blockBytes ≤ e.l.pk.scr ∧ idx l < r.extOf 1) &&
      (List.range r.blockUnits).all (fun u => allAllowed s (e.eng s) .read r true (r.va (r.blockIx (idx l) u)) r.unit))
theorem blocksFit_of_check {e : Env} {s : State} {r : Rec} {idx : Nat → Nat} {blk list : Nat}
    (h : blocksFitB e s r idx blk list = true) : e.blocksFit s r idx blk list := by
  unfold blocksFitB at h
  simp only [Bool.and_eq_true, decide_eq_true_eq, List.all_eq_true, List.mem_range] at h
  obtain ⟨⟨h0, h1, h2, h3, h4⟩, h5⟩ := h
  exact ⟨h0, h1, h2, h3, h4, fun l hl => ⟨(h5 l hl).1.1, (h5 l hl).1.2, fun u hu => allowsAll_of_check ((h5 l hl).2 u hu)⟩⟩

/-! ## Witnesses: for every statement with hypotheses, a concrete state and operands that meet them, clause by clause -/

/-- The word performs. -/
def goes (i : Instr) (s : State) : Bool :=
  match exec i s with
  | .next _ => true
  | _ => false

theorem witness_IntegerTwoSource : (sT wT).executes (eT wT) ∧ Fmt.i64.intWidth = some 64 ∧ wT.canonical ∧
    (eT wT).usable [useD 254 (regsOf 64), (Src.v 4).use (regsOf 64) 35, (Src.s 62).use (regsOf 64) 27] ∧
    (eT wT).usable [useD 254 (regsOf 64), (Src.v 4).use (regsOf 64) 35, (Src.v 3).use 1 27] := by decide +kernel
theorem witness_IntegerImmediate : (sT wT).executes (eT wT) ∧ wT.canonical ∧ (eT wT).usable [useD 255 1, (Src.s 63).use 1 35] ∧
    Fmt.n64.intWidth = some 64 ∧ (eT wT).usable [useD 254 (regsOf 64), (Src.v 4).use (regsOf 64) 35] := by decide +kernel
theorem witness_IntegerCarry : (sT wT).executes (eT wT) ∧ Fmt.n32.intWidth = some 32 ∧ wT.canonical ∧
    (eT wT).usable [useD 9 (regsOf 32), (Src.v 1).use (regsOf 32) 35, (Src.v 2).use (regsOf 32) 27] := by decide +kernel
theorem witness_IntegerThreeSource : (sT wT).executes (eT wT) ∧ wT.canonical ∧ Fmt.i32.intWidth = some 32 ∧
    (eT wT).usable [useD 9 (regsOf 32), (Src.v 1).use (regsOf 32) 35, (Src.v 2).use (regsOf 32) 27, (Src.v 3).use (regsOf 32) 19] ∧
    (eT wT).usable [useD 8 2, (Src.v 1).use 1 35, (Src.v 2).use 1 27, (Src.v 6).use 2 19] ∧
    (eT wT).usable [useD 9 (regsOf 32), (Src.v 1).use (regsOf 32) 35, (Src.v 2).use (regsOf 32) 27, (Src.s 40).use 1 19] := by decide +kernel
theorem witness_IntegerUnary : (sT wT).executes (eT wT) ∧ Fmt.i64.intWidth = some 64 ∧ wT.canonical ∧
    (eT wT).usable [useD 8 (regsOf 64), (Src.v 4).use (regsOf 64) 35] ∧ (eT wT).usable [useD 9 1, (Src.v 4).use (regsOf 64) 35] := by decide +kernel
theorem witness_Comparisons : (sT wT).executes (eT wT) ∧ wT.canonical ∧ (7 : BitVec 4).toNat < 8 ∧
    (eT wT).usable [(Src.v 1).use (regsOf 32) 35, (Src.v 2).use (regsOf 32) 27] ∧ (eT wT).usable [(Src.v 4).use (regsOf 64) 35] ∧
    (eT wT).usable [(Src.v 8).use (regsOf specF32.regWidth) 35, (Src.v 18).use (regsOf specF32.regWidth) 27] ∧
    (eT wT).usable [(Src.v 8).use (regsOf specF64.regWidth) 35] := by decide +kernel
theorem witness_Moves : (sT wT).executes (eT wT) ∧ wT.canonical ∧ (eT wT).usable [useD 10 (regsOf 64), (Src.v 4).use (regsOf 64) 35] ∧
    (eT wT).usable [useD 255 1] ∧ (eT wT).usable [useD 9 (regsOf 32), (Src.v 1).use (regsOf 32) 35, (Src.v 2).use (regsOf 32) 27] ∧
    (eT wT).usable [useS 62 (regsOf 64) 43, useS 40 (regsOf 64) 35] ∧ (31 : BitVec 8).toNat < 32 ∧
    (eT wT).usable [useS 63 (regsOf 32) 43, (Src.v 1).use (regsOf 32) 35] ∧ (eT wT).usable [useS 63 (regsOf 32) 43] ∧
    (eT wT).usable [useD 3 1, (Src.v 3).use 1 35] ∧
    (∀ l ∈ lanesOf ((eT wT).g gt), (222 : BitVec 8).toNat + (wT.src (.v 3) l).toNat < loadedLaunch.pk.regs) ∧
    (∀ l ∈ lanesOf ((eT wT).g gt), (222 : BitVec 8).toNat + (wT.v 3 l).toNat < loadedLaunch.pk.regs) := by decide +kernel
theorem witness_CrossLane : (sT wT).executes (eT wT) ∧ wT.canonical ∧ (5 : BitVec 3).toNat < 6 ∧
    (eT wT).usable ([useD 10 (regsOf 64), (Src.v 4).use (regsOf 64) 35] ++ [(Src.v 3).use 1 27]) ∧
    (eT wT).usable ([useD 9 (regsOf 32), (Src.v 1).use (regsOf 32) 35] ++ []) ∧ (eT wT).usable [(Dst.s 63).use 1] ∧ (eT wT).usable [useD 255 1] ∧
    (eT wT).usable [useD 9 1, (Src.v 4).use (regsOf 64) 35] ∧ (eT wT).usable [useS 63 1 35] ∧ (eT wT).usable [] := by decide +kernel
theorem witness_Reductions : (sT wT).executes (eT wT) ∧ wT.canonical ∧ (6 : BitVec 4).toNat < 7 ∧
    (eT wT).usable [(Dst.s 62).use (regsOf 64), (Src.v 4).use (regsOf 64) 35] ∧
    (eT wT).usable [useD 10 (regsOf 64), (Src.v 4).use (regsOf 64) 35] ∧ (2 : BitVec 4).toNat < 3 ∧
    goes (.redux ⟨gt, .v 9, .v 8, .f32, 2⟩) (sT wT) = true ∧ goes (.scan ⟨gt, 9, .v 18, .f32, 0, true⟩) (sT wT) = true := by decide +kernel
theorem witness_PredicatesAndBytes : (sT wT).executes (eT wT) ∧ wT.canonical ∧
    (eT wT).usable [useD 9 1, (Src.v 1).use 1 35, (Src.v 2).use 1 27, (Src.s 41).use 1 19] ∧ (7 : BitVec 8).toNat < 32 / 4 ∧
    (1 : BitVec 8).toNat < 32 / 16 ∧ (eT wT).usable [useD 9 1, (Src.v 1).use 1 35, (Src.v 2).use 1 27] ∧
    (eT wT).usable [useD 9 1, (Src.v 1).use 1 35] := by decide +kernel
theorem witness_FloatArithmetic : (sT wT).executes (eT wT) ∧ wT.canonical ∧ (eT wT).noArithTraps ∧
    (eT wT).usable [useD 9 (regsOf specF32.regWidth), (Src.v 8).use (regsOf specF32.regWidth) 35, (Src.v 18).use (regsOf specF32.regWidth) 27] ∧
    (eT wT).usable [useD 10 (regsOf specF64.regWidth), (Src.v 8).use (regsOf specF64.regWidth) 35, (Src.v 18).use (regsOf specF64.regWidth) 27] ∧
    ((eT wT).immVal specF16 0x4000).toOption.isSome = true ∧
    (eT wT).usable [useD 9 (regsOf specF16.regWidth), (Src.v 8).use (regsOf specF16.regWidth) 35] ∧
    (eT wT).usable [useD 9 (regsOf specBf16.regWidth), (Src.v 8).use (regsOf specBf16.regWidth) 35, (Src.v 18).use (regsOf specBf16.regWidth) 27,
      (Src.v 8).use (regsOf specBf16.regWidth) 19] ∧
    (eT wT).usable [useD 9 (regsOf specF32.regWidth), (Src.v 8).use (regsOf specF32.regWidth) 35, (Src.s 42).use 1 27] := by decide +kernel
theorem witness_floatSpec : floatSpec .f32 specF32 ∧ floatSpec .f64 specF64 ∧ floatSpec .f16 specF16 ∧ floatSpec .bf16 specBf16 := by
  simp [floatSpec]
theorem witness_FloatUnary : (sT wT).executes (eT wT) ∧ wT.canonical ∧ (eT wT).noArithTraps ∧
    (eT wT).usable [useD 10 (regsOf specF64.regWidth), (Src.v 8).use (regsOf specF64.regWidth) 35] ∧
    (eT wT).usable [useD 9 1, (Src.v 8).use (regsOf specF64.regWidth) 35] ∧ (eT wT).usable [useD 9 1, (Src.v 8).use 1 35] := by decide +kernel
theorem test_float_special : [got 9 (.frsq ⟨gt, 9, .v 30, .f32, .rne⟩), got 9 (.fexp2 ⟨gt, 9, .v 30, .f32, .rne⟩), got 9 (.flog2 ⟨gt, 9, .v 30, .f32, .rne⟩),
    got 9 (.fsin ⟨gt, 9, .v 30, .f32, .rne⟩), got 9 (.fcos ⟨gt, 9, .v 30, .f32, .rne⟩), got 9 (.fclass ⟨gt, 9, .v 8, .f32, .rne⟩)] =
  [[0x7FC00000, 0, 0x7FC00000, 0xFF800000], [0x7FC00000, 0x7F800000, 0, 0x3F800000], [0x7FC00000, 0x7F800000, 0x7FC00000, 0xFF800000],
    [0x7FC00000, 0x7FC00000, 0x7FC00000, 0x80000000], [0x7FC00000, 0x7FC00000, 0x7FC00000, 0x3F800000], [64, 2, 512, 128]] := by decide +kernel
theorem witness_Conversions : (sT wT).executes (eT wT) ∧ wT.canonical ∧ (eT wT).noArithTraps ∧
    cvtFmts ⟨gt, 9, .v 24, 2, 14, .bf16, .rne, 0⟩ = some (some specBf16, some specF32) ∧ Fmt.bf16.fspec.isSome = true ∧
    (2 : BitVec 8).toNat ≤ (if min (CvtFmt.width (some specF32)) specBf16.width = 64 then 1 else 32 / min (CvtFmt.width (some specF32)) specBf16.width) ∧
    (eT wT).usable [.v 9 (groupRegs specBf16.width 2) (regsOf specBf16.width) 43,
      .v 24 (groupRegs (CvtFmt.width (some specF32)) 2) (regsOf (CvtFmt.width (some specF32))) 35] ∧
    (eT wT).usable [useD 10 (regsOf 64), (Src.v 18).use (regsOf specF64.regWidth) 35] ∧
    (eT wT).usable [useD 9 (regsOf specF16.regWidth), (Src.v 4).use (regsOf 64) 35] := by decide +kernel
theorem witness_FloatGroups : (sT wT).executes (eT wT) ∧ wT.canonical ∧ (eT wT).noArithTraps ∧
    (eT wT).usable [useD 9 1, (Src.v 8).use 1 35, (Src.v 18).use 1 27, (Src.v 8).use 1 19] ∧
    (eT wT).usable ([useD 28 4, (Src.v 20).use 4 35, (Src.v 24).use 4 27] ++ [(Src.v 8).use 4 19]) ∧
    (8 : BitVec 8).toNat % 2 ^ 3 = 0 ∧ (eT wT).usable [.v 8 8 1 43, .v 16 8 1 35] ∧
    (eT wT).usable [useD 9 1, .v 24 (32 / 8) 1 35, (Src.s 43).use 1 27] ∧
    (eT wT).usable [.v 248 (32 / 4) 1 43, (Src.s 44).use 1 35, (Src.s 45).use 1 27] ∧
    goes (.had ⟨gt, 8, 16, .f32, .rne, 3, true⟩) (sT wT) = true := by decide +kernel

/-- A context with the three arithmetic traps enabled and a handler. -/
def trapCtx : Ctx := { loadedCtx with mode := 15, hand := 0x20100 }
def sH (w : Warp) : State := { sT w with ctxs := [trapCtx], cur := some ⟨0, 0, 0x20000, w.lmask, 0, trapCtx.mode, none⟩ }
def eH (w : Warp) : Env := { eT w with x := trapCtx, c := ⟨0, 0, 0x20000, w.lmask, 0, trapCtx.mode, none⟩ }

theorem witness_WordTraps : (sH wT).executes (eH wT) ∧
    (eH wT).usable [useD 9 (regsOf specF32.regWidth), (Src.v 18).use (regsOf specF32.regWidth) 35, (Src.v 18).use (regsOf specF32.regWidth) 27] ∧
    (match exec (.fadd ⟨gt, 9, .v 8, .s 46, .f32, .rne⟩) { sH { wT with sregs := scalarsT ++ [(46, 0xFF800000)] } with clk := 0 } with
      | .next t => (t.warp? 0 0).map (fun w => (w.trcause, w.trfmask, w.pc 0))
      | _ => none) = some (11, 8, 0x20100) ∧
    Fmt.n64.intWidth = some 64 ∧ (65 : BitVec 8).toNat % regsOf 64 ≠ 0 ∧ (254 : BitVec 8).toNat % regsOf 64 = 0 ∧
    ((Src.v 4).use (regsOf 64) 35).misaligned = none := by decide +kernel
theorem test_register_traps :
    (match exec (.iadd ⟨gt, 65, .v 4, .v 4, .n64⟩) (sH wT) with
      | .next t => (t.warp? 0 0).map (fun w => (w.trcause, w.trinfo, w.trpc, w.tramask))
      | _ => none) = some (1, 43, 0x20000, 15) ∧
    (match exec (.iadd ⟨gt, 200, .v 4, .v 4, .n32⟩) { sH wT with launches := [{ loadedLaunch with pk := { loadedPacket with res := 64 } }] } with
      | .next t => (t.warp? 0 0).map (fun w => (w.trcause, w.trinfo, w.trpc, w.tramask))
      | _ => none) = some (4, 200, 0x20000, 15) := by decide +kernel

/-- The state after an instruction meets a condition. -/
def after (i : Instr) (s : State) (p : State → Bool) : Bool :=
  match exec i s with
  | .next t => p t
  | _ => false
/-- An instruction answers exactly this state. -/
def gives (i : Instr) (s t : State) : Bool := after i s (fun u => decide (u = t))
/-- The guard `@p1`: lanes 0 and 2 of `wT`. -/
def g1 : Guard := ⟨1, false⟩
/-- The machine with its context replaced by a user context, and the environment under it. -/
def userCtx : Ctx := { loadedCtx with priv := false, hand := 0x20100 }
def sU (w : Warp) : State := { sT w with ctxs := [userCtx] }
def eU (w : Warp) : Env := { eT w with x := userCtx }
/-- A warp in the handler, with a return address for each of its lanes. -/
def wH : Warp := { wT with
  inHandler := true, trpcv := [(0, 0x20008), (1, 0x20010), (2, 0x20018), (3, 0x20008)], arrSaved := 3, trcause := 13 }

theorem witness_SpecialRead : (sT wT).executes (eT wT) ∧ wT.canonical ∧ (specInfo 9).isSome = true ∧ (specInfo 133).isSome = true ∧
    (specInfo 9).map (·.wide) = some true ∧ (specInfo 9).map (·.perLane) = some false ∧ (eT wT).x.priv = true ∧
    (eT wT).usable [(Dst.v 254).use (regsOf 64)] ∧ (eT wT).usable [(Dst.s 62).use (regsOf 64)] ∧ (eT wT).usable [(Dst.s 63).use (regsOf 32)] ∧
    goes (.srd ⟨gt, .s 62, 9, .n64, false⟩) (sT wT) = true ∧ goes (.srd ⟨gt, .s 63, 9, .n32, true⟩) (sT wT) = true := by decide +kernel
theorem witness_SpecialWrites : (sT wT).executes (eT wT) ∧ wT.canonical ∧ (eT wT).usable [(Src.v 1).use 1 35] ∧ (eT wT).g gt ≠ 0 ∧
    (sT wH).executes (eT wH) ∧ Tbl.wf 0 wH.trpcv = true ∧ wH.inHandler = true ∧ (eT wH).usable [(Src.v 4).use 2 35] ∧
    (eT wT).x.priv = true ∧
    [129, 133].all (fun n => !settingBad n (wT.elem (.s 42) 32 0)) = true ∧ [130, 131, 132].all (fun n => !settingBad n (wT.elem (.s 62) 64 0)) = true ∧
    (eT wT).usable [(Src.s 42).use (regsOf 32) 35] ∧ (eT wT).usable [(Src.s 62).use (regsOf 64) 35] ∧
    (sU wT).executes (eU wT) ∧ (eU wT).x.priv = false ∧
    (specInfo 130).all (fun i => !(false && (Fmt.n64 == .n64 || !i.wide))) = true ∧
    [(Dst.s 62).use 2].findSome? Use.misaligned = none ∧ (swrWidth 130).all (fun wd => Fmt.n64 == if wd = 64 then .n64 else .n32) = true := by
  decide +kernel
theorem test_special_writes :
    after (.swr ⟨gt, 36, .v 4, .n64⟩) (sT wH) (fun t => (t.warp? 0 0).map (fun w => (w.trpcv, w.arrSaved)) == some ([(1, 4), (2, 8), (3, 12)], 0)) = true ∧
    gives (.swr ⟨gt, 130, .s 62, .n64⟩) (sH wT) ((eH wT).retired { sH wT with ctxs := [{ trapCtx with hand := 0 }] } wT) = true ∧
    gives (.srd ⟨gt, .s 62, 130, .n64, false⟩) (sU wT) ((eU wT).trapped (sU wT) ⟨2, 15, 0x8245, []⟩) = true ∧
    gives (.swr ⟨gt, 130, .s 62, .n64⟩) (sU wT) ((eU wT).trapped (sU wT) ⟨2, 15, 0x8246, []⟩) = true := by decide +kernel

/-- The offsets table of a BRX: an address for each of four lanes, at the base of the records. -/
def brxTable : List Byte := [0x20100, 0x20200, 0x20300, 0x20400].flatMap (leBytes 8)
/-- A warp whose v3 holds indexes, and the machine with the table in memory. -/
def wB4 : Warp := { wT with vregs := regsOfRows [(3, [0, 1, 2, 3])], pcs := [(0, 0x20000), (1, 0x20000), (2, 0x20000), (3, 0x20000)], preds := [(4, 8)] }
def sB4 : State := { sT wB4 with mem := writeBytes loadedTables 0x108000 brxTable }
theorem witness_ControlTransfers : (sT wT).executes (eT wT) ∧ Tbl.wf 0 wT.pcs = true ∧ (eT wT).resolved = none ∧ wT.canonical ∧
    (eT wT).usable [useD 254 2] ∧ (eT wT).usable [(Src.v 4).use 2 35] ∧ sB4.executes (eT wB4) ∧ (eT wB4).usable [(Src.v 3).use 1 35] ∧
    (eT wB4).recordUsable 2 ∧ sB4.poison = [] ∧ (recOf wB4.s 2).fmt = .n64 ∧
    (∀ l ∈ lanesOf ((eT wB4).g gt), (wB4.src (.v 3) l).toNat < (recOf wB4.s 2).extOf 0) ∧ (eT wB4).owes sB4 ((eT wB4).g gt) true = false := by
  decide +kernel
theorem witness_brx_reaches : (eT wB4).reaches sB4 (recOf wB4.s 2) .read 8
    ((lanesOf ((eT wB4).g gt)).map (fun l => (l, (((wB4.src (.v 3) l).toNat * 8 : Nat) : Int)))) :=
  reaches_of_check (by decide +kernel)
theorem witness_brx_permits : (eT wB4).permitsLoads sB4 (recOf wB4.s 2) 8
    ((lanesOf ((eT wB4).g gt)).map (fun l => (l, (((wB4.src (.v 3) l).toNat * 8 : Nat) : Int)))) = true := by decide +kernel
theorem test_transfers :
    after (.bra ⟨g1, 8⟩) (sT wT) (fun t => (t.warp? 0 0).map (fun w => (List.range 4).map w.pc) == some [0x20040, 0x20008, 0x20040, 0x20008]) = true ∧
    after (.call ⟨gt, 6, 0xFFFFFFFF⟩) (sT wT) (fun t => (t.warp? 0 0).map (fun w => (w.pc 3, w.v64 6 3)) == some (0x1FFF8, 0x20008)) = true ∧
    after (.ret ⟨g1, .v 4⟩) (sT wT) (fun t => (t.warp? 0 0).map (fun w => (List.range 4).map w.pc) == some [0, 0x20008, 8, 0x20008]) = true ∧
    after (.brx ⟨⟨4, false⟩, .v 3, 2⟩) sB4 (fun t => (t.warp? 0 0).map (fun w => (List.range 4).map w.pc) == some [0x20008, 0x20008, 0x20008, 0x20400]) = true := by
  decide +kernel

/-- A warp of 32 declared barriers whose last CBAR arrival is recorded. -/
def wC : Warp := { wT with cbarRec := 15, cbarPh := [(0, 1), (1, 1), (2, 1), (3, 1)] }
/-- The guard that holds in no lane. -/
def gNot : Guard := ⟨7, true⟩
theorem witness_waits : (sT wT).executes (eT wT) ∧ (eT wT).g g1 ≠ 0 ∧ wT.canonical ∧ (eT wT).settled (sT wT) ((eT wT).g g1) ∧
    (eT wT).usable [useS 63 1 35] ∧ ((eT wT).g g1).getLsbD 1 = false ∧ wT.live.getLsbD 1 = true ∧ wT.wait 1 = .ready ∧
    (wT.live &&& (eT wT).g gt ≠ 0 ∧ wT.live &&& 0xFFFFFFFF &&& ~~~(eT wT).g gt = 0 ∧ Tbl.wf 0 wT.pcs = true ∧
      ∀ l, l < 32 → ((eT wT).g gt).getLsbD l = true → wT.pc l = 0x20000) ∧
    (eT wT).usable (useBar 95 (some 42)) ∧ (eT wT).usable (useBar 0 none) ∧ (eT wT).usable [.b 95, (Src.v 1).use 1 27] ∧
    (sT wC).executes (eT wC) ∧ ∀ l ∈ (eT wC).fresh ((eT wC).g g1), wC.cbarRec.getLsbD l = true := by decide +kernel
theorem witness_wait_ready : ∀ k, wT.wait 1 ≠ .wsync k := by
  intro k
  have h : wT.wait 1 = .ready := by decide +kernel
  simp [h]
theorem witness_countIs : countIs (eT wT) none none ∧ countIs (eT wT) (some 42) (some 2) ∧
    countIs (eT { wT with sregs := [(42, 1024)] }) (some 42) (some 1024) :=
  ⟨rfl, ⟨2, rfl, by decide +kernel, by decide, by decide⟩, ⟨1024, rfl, by decide +kernel, by decide, by decide⟩⟩
theorem witness_arrivals : (sT wT).executes (eT wT) ∧ wT.canonical ∧ (eT wT).g g1 ≠ 0 ∧ (eT wT).settled (sT wT) ((eT wT).g g1) ∧
    (eT wT).usable ([useD 255 1] ++ useBar 95 (some 42)) ∧ (eT wT).usable ([] ++ useBar 0 none) ∧ (eT wT).usable [.b 95, useS 63 1 27] ∧
    Tbl.wf 0 wT.cbarPh = true ∧ (eT wT).g gNot = 0 ∧ (eT wT).usable [useS 63 1 35] ∧ (eT wT).usable [.b 95, (Src.v 1).use 1 27] := by
  decide +kernel
/-- A waiting warp: lane 0 for a queue that has completed what it entered, lane 1 for one that has not, lanes 2 and 3 in WSYNC. -/
def wWait : Warp := { wT with waits := [(0, .cqwait 3 0), (1, .cqwait 3 1), (2, .wsync 12), (3, .wsync 12)] }
theorem witness_wait_ends : (sT wWait).warp? 0 0 = some wWait ∧ Tbl.risingFrom none (sT wWait).warps = true ∧ Tbl.wf 0 wWait.pcs = true ∧
    Tbl.wf .ready wWait.waits = true ∧ (sT wWait).wg? wWait.wg = some loadedWg ∧ (sT wWait).launch? loadedWg.launch = some loadedLaunch ∧
    wWait.live.getLsbD 0 = true ∧ (sT wWait).haltedOn loadedLaunch.ctx ((sT wWait).dieOf 0) = false := by decide +kernel
theorem witness_wait_over : waitHolds (sT wWait) loadedWg loadedLaunch wWait 0 := by
  have h : wWait.wait 0 = .cqwait 3 0 := by decide +kernel
  simp only [waitHolds, h]
  decide +kernel
theorem witness_wait_lasts : ¬ waitHolds (sT wWait) loadedWg loadedLaunch wWait 1 := by
  have h : wWait.wait 1 = .cqwait 3 1 := by decide +kernel
  simp only [waitHolds, h]
  decide +kernel
theorem test_waits : (match step { sT wWait with cur := none } with
    | .next t => (t.warp? 0 0).map (fun w => (w.wait 0, w.wait 1, w.wait 2)) == some (.ready, .cqwait 3 1, .ready)
    | _ => false) = true := by decide +kernel
/-- One arrival in a phase with target 2, then the arrival that ends it; ARR has 11 bits. -/
theorem test_barriers :
    Barrier.init.arrive 2048 0 none 2 true = ⟨0, 1, some 2, true, 0, false, [], [0]⟩ ∧
    (Barrier.init.arrive 2048 0 none 2 true).arrive 2048 1 none 2 true = ⟨1, 0, none, false, 0, false, [], []⟩ ∧
    ({ Barrier.init with arr := 2047, tgt := some 2, bal := 1 }.arrive 2048 0 none 2 true).arr = 0 ∧
    Barrier.passed ⟨0x80000000, 0, none, false, 0, false, [], []⟩ 1 = true ∧ Barrier.passed ⟨0x80000001, 0, none, false, 0, false, [], []⟩ 1 = false ∧
    after (.wsync ⟨gt, none⟩) (sT wT) (fun t => (t.warp? 0 0).map (fun w => ((List.range 4).map w.pc, w.wait 0 == .wsync 0xFFFFFFFF)) ==
      some ([0x20000, 0x20000, 0x20000, 0x20000], true)) = true ∧
    after (.barv ⟨gt, some 6, 3, none⟩) (sT wT) (fun t => (t.wg? 2).map (fun g => (Tbl.get Barrier.init g.bars 3).phase) == some 1) = true ∧
    after (.bexpect ⟨gt, 3, 42⟩) (sT wT) (fun t => (t.wg? 2).map (fun g => (Tbl.get Barrier.init g.bars 3).bal) == some 2) = true ∧
    after (.cbar ⟨g1, 1⟩) (sT wT) (fun t => (t.warp? 0 0).map (fun w => (w.cbarRec, w.pc 0)) == some (5, 0x20008)) = true ∧
    after (.bsync ⟨g1, 3, none⟩) (sT wT) (fun t => (t.warp? 0 0).map (fun w => ((List.range 4).map w.pc, w.arrived, w.wait 2)) ==
      some ([0x20000, 0x20008, 0x20000, 0x20008], 5, .bsync 3 0)) = true := by decide +kernel

/-- The second warp of the workgroup still runs: only this warp goes when its threads exit. -/
def sTwo (w : Warp) : State := { sT w with wgs := [{ loadedWg with warps := 2 }] }
theorem witness_PlainControl : (sT wT).executes (eT wT) ∧ (eT wT).g g1 ≠ 0 ∧ (eT wT).g ⟨7, true⟩ = 0 ∧ wT.bankCount = 0 ∧ wT.live &&& ~~~(eT wT).g g1 ≠ 0 ∧
    wT.live &&& ~~~(eT wT).g gt = 0 ∧
    (match ((eT wT).finish (sT wT) (.ok (((sT wT).setWarp 0 0 { wT with exited := wT.exited ||| (eT wT).g g1 }).leaveBarriers loadedWg wT.widx
        (lanesOf ((eT wT).g g1))))).warp? 0 0 with
      | some v => !v.stuck
      | none => false) = true ∧
    (sTwo wT).executes { eT wT with wg := { loadedWg with warps := 2 } } ∧ loadedWg.exitedWarps + 1 ≠ 2 ∧ loadedWg.exitedWarps + 1 = loadedWg.warps ∧
    (sT wT).wgBusy loadedWg = false := by decide +kernel
theorem test_plain_control :
    gives (.nop ⟨gt⟩) (sT wT) ((eT wT).retired (sT wT) wT) = true ∧
    after (.pause ⟨gt⟩) (sT wT) (fun t => (t.warp? 0 0).map (·.demoted) == some (some 64)) = true ∧
    after (.trap ⟨g1, 200⟩) (sH wT) (fun t => (t.warp? 0 0).map (fun w => (w.trcause, w.trinfo, w.trfmask, w.trpc, Tbl.get 0 w.trpcv 3, w.pc 3)) ==
      some (13, 200, 5, 0x20000, 0x20008, 0x20100)) = true ∧
    after (.bkpt ⟨g1, 255⟩) (sH wT) (fun t => (t.warp? 0 0).map (fun w => (w.trcause, w.trinfo, w.pc 1)) == some (12, 255, 0x20100)) = true ∧
    after (.exit ⟨g1⟩) (sT wT) (fun t => (t.warp? 0 0).map (fun w => (w.exited, w.pc 1)) == some (5, 0x20008)) = true ∧
    after (.exit ⟨gt⟩) (sTwo wT) (fun t => (t.warp? 0 0).isNone && (t.wg? 2).map (·.exitedWarps) == some 1) = true := by decide +kernel

theorem witness_Traps : (sH wT).executes (eH wT) ∧ wT.inHandler = false ∧ trapCtx.hand ≠ 0 ∧ Tbl.wf 0 wT.pcs = true ∧
    (sT wT).executes (eT wT) ∧ loadedCtx.hand = 0 ∧ (sT wH).executes (eT wH) ∧ wH.inHandler = true ∧
    wH.live &&& ~~~(eT wH).c.mask = 0 ∧ wH.live &&& ~~~(eT wH).g gt = 0 ∧ (eT wH).g gt ≠ 0 ∧ wH.live &&& ~~~(eT wH).g g1 ≠ 0 ∧
    Tbl.wf 0 wH.pcs = true := by decide +kernel
theorem test_trap_return :
    after (.rfe ⟨gt⟩) (sT wH) (fun t => (t.warp? 0 0).map (fun w => ((List.range 4).map w.pc, w.inHandler, w.arrived, w.trcause)) ==
      some ([0x20008, 0x20010, 0x20018, 0x20008], false, 3, 13)) = true ∧
    gives (.rfe ⟨gt⟩) (sH wT) ((eH wT).trapped (sH wT) ⟨1, 15, 0, []⟩) = true ∧
    after (.trap ⟨gt, 1⟩) (sT wT) (fun t => (t.ctx? 0).map (fun x => x.halt.map (fun h => (h.cause, h.tcause))) == some (some (39, 13))) = true ∧
    after (.trap ⟨gt, 1⟩) (sT wH) (fun t => (t.ctx? 0).map (fun x => x.halt.map (fun h => (h.cause, h.tcause))) == some (some (38, 13))) = true := by
  decide +kernel

theorem witness_EnginePrograms : (sT wT).executes (eT wT) ∧ (eT wT).g gt ≠ 0 ∧ loadedWg.hinted = false ∧ (9 : QCode).toNat < 10 ∧
    (sT wT).seqrs.any (fun q => q.core == 0 && q.mat == decide (8 ≤ 9)) = false ∧ Tbl.wf 0 wT.sregs = true := by decide +kernel
theorem test_engine_programs :
    after (.hintnext ⟨gt⟩) (sT wT) (fun t => (t.wg? 2).map (·.hinted) == some true && (t.launch? 1).map (·.hints) == some 1) = true ∧
    after (.fork ⟨gt, 9, 4⟩) (sT wT) (fun t => t.seqrs.map (fun q => (q.mat, q.pc, Tbl.get 0 q.sregs 40)) == [(true, 0x20020, 0x408)]) = true ∧
    gives (.loop ⟨gt, 1, 40, none, none⟩) (sH wT) ((eH wT).trapped (sH wT) ⟨1, 15, 0, []⟩) = true ∧
    gives (.endp ⟨gt⟩) (sH wT) ((eH wT).trapped (sH wT) ⟨1, 15, 0, []⟩) = true := by decide +kernel

/-- One lane of the small warp, and a record that fills with zeros past its bounds at s24. -/
def w4 : Warp := { wT with preds := [(4, 8)], sregs := scalarsT ++ [(46, 7)] }
def w0F : Warp := { wT with
  sregs := [(8, 0x28000), (10, 64), (14, 0x22), (16, 0x28000), (18, 64), (22, 0x23), (24, 0x28000), (26, 2), (30, 0x42), (40, 0x408),
    (41, 0x10203), (42, 2)] }
def g4 : Guard := ⟨4, false⟩
def oLd : OpMem := ⟨gt, 9, 4, 1, 0, .relaxed, .none, 0⟩
/-- The last word inside the bounds of the record: 64 elements of 4 bytes, the lanes at offsets 0 to 12. -/
def oLdEnd : OpMem := { oLd with off := 240, scp := .sys, ord := .acq }

/-- A warp whose convoy lets it pass, and one with an association whose convoy holds it at its position. -/
def wPass : Warp := { wT with cvPass := true }
/-- The offsets of the lanes of a memory word. -/
def offsT (w : Warp) (o : OpMem) : List (Nat × Int) := (eT w).offsets (lanesOf ((eT w).g o.g)) o.a o.off.toInt
/-- A member at position 0 of a convoy of slip 1 whose other member stands at position 0. -/
def wCv : Warp := { wT with assoc := some ⟨0, 0, true, 0, 0⟩ }
def sCvRead (w : Warp) : State := { sT w with convoys := [⟨0, 0, 1, 0, 0, 0x28000, 1, 0, 2, 2, false, 0, []⟩] }
theorem witness_record_lanes : (sT wT).executes (eT wT) ∧ (eT wT).recordUsable 1 ∧ (eT wT).recordUsable 2 ∧
    ((eT wT).memWidth 0 (recOf wT.s 1)).toOption = some (4, false) ∧ (eT wT).usable (useMem 9 4 4) ∧ (sT wT).poison = [] ∧
    (eT wT).owes (sT wT) ((eT wT).g gt) true = false ∧ (eT wT).settled (sT wT) ((eT wT).g gt) ∧
    (eT wT).g gt ≠ 0 ∧ (sT wPass).executes (eT wPass) ∧ wPass.cvPass = true ∧ (sT w0F).executes (eT w0F) ∧ (eT w0F).recordUsable 3 ∧
    (recOf w0F.s 3).bnd = 2 := by decide +kernel
theorem witness_record_block : (eT wT).whole gt ∧ wT.lmask.getLsbD 0 = true ∧ 0x28000 % (32 * 4) = 0 ∧
    (offsT wT oLd).all (fun p => (recOf wT.s 1).addr p.2 == (0x28000 + 4 * p.1) % 2 ^ 64) = true ∧
    (sCvRead wCv).cvMayRead 0 1 wCv 0x28000 = true ∧ (sCvRead wCv).cvMayRead 0 1 { wCv with assoc := some ⟨0, 2, true, 0, 0⟩ } 0x28000 = false := by
  decide +kernel
theorem witness_record_reaches : (eT wT).reaches (sT wT) (recOf wT.s 1) .read 4 (offsT wT oLdEnd) ∧
    (eT wT).reaches (sT wT) (recOf wT.s 1) .write 4 (offsT wT oLdEnd) ∧
    (eT w0F).reaches (sT w0F) (recOf w0F.s 3) .read 4 (offsT w0F oLd) :=
  ⟨reaches_of_check (by decide +kernel), reaches_of_check (by decide +kernel), reaches_of_check (by decide +kernel)⟩
/-- A record in the memory of the peer of rank 1, on a machine with a route to it. -/
def wPeer : Warp := { wT with sregs := [(8, 0x28000), (10, 64), (14, 0x422), (15, 0x2000)] }
def sPeer : State := { sT wPeer with ranked := true, domain := 2, routes := [(1, 1)], tports := [⟨true, false, false, 0, 0, none⟩] }
theorem witness_record_peer : (eT wPeer).recordUsable 1 ∧ (recOf wPeer.s 1).peer? = some 1 := by decide +kernel
theorem witness_peer_reaches : (eT wPeer).reaches sPeer (recOf wPeer.s 1) .write 4 (offsT wPeer oLd) :=
  reaches_of_check (by decide +kernel)
theorem witness_record_moves : (sT wT).executes (eT wT) ∧ wT.canonical ∧ (eT wT).g g1 ≠ 0 ∧ (eT wT).recordUsable 1 ∧
    (eT wT).usable ([.s (8 * 5) 8 1 43] ++ [useS 42 1 35]) ∧ (recOf wT.s 1).addr 224 % 32 = 0 ∧ (eT wT).owes (sT wT) ((eT wT).g g1) true = false ∧
    (eT wT).settled (sT wT) ((eT wT).g g1) := by decide +kernel
theorem witness_move_reaches : (eT wT).reaches (sT wT) (recOf wT.s 1) .read 32 [(lowest ((eT wT).g gt), 224)] ∧
    (eT wT).reaches (sT wT) (recOf wT.s 1) .write 32 [(lowest ((eT wT).g gt), 224)] :=
  ⟨reaches_of_check (by decide +kernel), reaches_of_check (by decide +kernel)⟩
theorem witness_record_permits : (eT wT).permitsLoads (sT wT) (recOf wT.s 1) 4 (offsT wT oLdEnd) = true ∧
    (eT wT).permitsStores (sT wT) (recOf wT.s 1) 4 (offsT wT oLdEnd) = true ∧
    (eT wT).permitsLoads (sT wT) (recOf wT.s 1) 32 [(lowest ((eT wT).g gt), 224)] = true ∧
    (eT wT).permitsStores (sT wT) (recOf wT.s 1) 32 [(lowest ((eT wT).g gt), 224)] = true := by decide +kernel
/-- The machine with four words at the record's base. -/
def sM4 (w : Warp) : State := { sT w with mem := writeBytes loadedTables 0x108000 ([1, 2, 3, 4].flatMap (leBytes 4)) }
theorem test_loads : after (.ld { oLd with g := g4 }) (sM4 w4) (fun t => (t.warp? 0 0).map (fun w => w.v 9 3) == some 4) = true ∧
    after (.ld { oLd with rk := 3, g := g4 }) (sM4 { w0F with preds := [(4, 8)] }) (fun t => (t.warp? 0 0).map (fun w => w.v 9 3) == some 0) = true ∧
    after (.ldw { oLd with scp := .dev, ord := .acq }) (sM4 wT) (fun t => (t.warp? 0 0).map (fun w => (List.range 4).map (w.v 9)) == some [1, 2, 3, 4]) = true ∧
    after (.recld ⟨gt, 4, none, 1, 0, .relaxed, .none⟩) (sM4 wT) (fun t => (t.warp? 0 0).map (fun w => (List.range 8).map (fun j => w.s (32 + j))) ==
      some [1, 2, 3, 4, 0, 0, 0, 0]) = true := by decide +kernel
theorem test_stores :
    after (.st { oLd with d := 1 }) (sT wT) (fun t => leNat (t.dieBytes 0 0x108000 8) == 5 + 2 ^ 32 * 0xFFFFFFFF && t.mem == loadedTables) = true ∧
    after (.st { oLd with d := 1, ord := .rel, scp := .sys }) (sT wT) (fun t => t.writes.all (fun x => x.die == 0)) = true ∧
    after (.stw { oLd with d := 1 }) (sT wT) (fun t => leNat (t.dieBytes 0 0x10800C 4) == 7) = true ∧
    after (.recst ⟨gt, 5, none, 1, 224, .relaxed, .none⟩) (sT wT) (fun t => leNat (t.dieBytes 0 0x1080E0 8) == 0x408 + 2 ^ 32 * 0x10203) = true ∧
    after (.ld { oLd with off := 244 }) (sH wT) (fun t => (t.warp? 0 0).map (fun w => (w.trcause, w.trfmask, Tbl.get 0 w.traddr 3)) ==
      some (5, 8, 0x28100)) = true := by decide +kernel

theorem witness_Loads : (sT wT).poison = [] ∧ oLdEnd.scp.wide = true ∧
    (match (eT wT).plan (sT wT) (recOf wT.s 1) .read 0 4 (offsT wT oLdEnd) with
      | .ok ps => ((eT wT).loadLanes (sT wT) ps true (recOf wT.s 1).cpol .acq .sys).isOk
      | .error _ => false) = true ∧
    (match (eT w0F).plan (sT w0F) (recOf w0F.s 3) .read 0 4 (offsT w0F oLd) with
      | .ok ps => ((eT w0F).loadLanes (sT w0F) ps true (recOf w0F.s 3).cpol .acq .sys).isOk
      | .error _ => false) = true := by decide +kernel
theorem witness_StoreFrame : Memory.wf (sT wT).mem = true ∧ (sT wT).writes = [] ∧
    (match (eT wT).plan (sT wT) (recOf wT.s 1) .write 1 4 (offsT wT { oLd with d := 1, off := 240 }) with
      | .ok ps => ps.all (fun p => match p.2 with
        | .go cs => (wT.storeData 1 4 p.1).length == (cs.map (·.n)).sum
        | .fill _ => false)
      | .error _ => false) = true := by decide +kernel

/-- A scratchpad whose last granule is full and holds the bytes 0 to 15. -/
def sScr (w : Warp) : State := { sT w with scr := writeBytes [] 65520 ((List.range 16).map (BitVec.ofNat 8)), fe := [(4095, true)] }
def oS : OpSpad := ⟨gt, 9, 4, 0, 65520, .relaxed, .none, 0⟩
theorem witness_Scratchpad : (sScr wT).executes (eT wT) ∧ wT.canonical ∧ Memory.wf (sScr wT).scr = true ∧ Tbl.wf false (sScr wT).fe = true ∧
    loadedWg.core = (eT wT).c.core ∧ (eT wT).usable (useMem 9 4 4) ∧ (eT wT).scrInside ((eT wT).g gt) 4 65520 4 ∧
    (lanesOf ((eT wT).g gt)).all (fun l => (granules (0 + ((eT wT).scrAddr 4 65520 l).toNat) 4).all (fun k => (sScr wT).feGet 0 k)) = true ∧
    (lanesOf ((eT wT).g gt)).filter (fun l => decide ((eT wT).scrAddr 4 65524 l < 0) ||
      decide (loadedPacket.scr < ((eT wT).scrAddr 4 65524 l).toNat + 4)) = [3] ∧
    (lanesOf ((eT wT).g gt)).filter (fun l => decide ((eT wT).scrAddr 4 (-4) l < 0)) = [0] ∧
    (∃ l ∈ lanesOf ((eT wT).g gt), ∃ k ∈ granules (0 + ((eT wT).scrAddr 4 0 l).toNat) 4, (sScr wT).feGet 0 k = false) ∧
    (eT wT).scrInside ((eT wT).g gt) 4 0 4 ∧ Tbl.risingFrom none wT.waits = true ∧ (eT wT).settled (sScr wT) ((eT wT).g gt) := by decide +kernel
theorem test_scratchpad :
    after (.lds oS) (sScr wT) (fun t => (t.warp? 0 0).map (fun w => (List.range 4).map (w.v 9)) ==
      some [0x03020100, 0x07060504, 0x0B0A0908, 0x0F0E0D0C]) = true ∧
    after (.lds { oS with w := 3, nw := 1, off := 65523 }) (sScr wT) (fun t => (t.warp? 0 0).map (fun w => w.v 9 3) == some 15) = true ∧
    after (.ldfe { oS with ord := .na }) (sScr wT) (fun t => t.fe == [] && (t.warp? 0 0).map (fun w => w.v 9 0) == some 0x03020100) = true ∧
    after (.ldfe { oS with off := 0 }) (sT wT) (fun t => (t.warp? 0 0).map (fun w => (w.pc 0, w.wait 0)) == some (0x20000, .ldfe [0])) = true ∧
    after (.sts { oS with d := 1, a := 6 }) (sScr wT) (fun t => t.scrBytes 0 65520 4 == leBytes 4 7) = true ∧
    after (.stf { oS with d := 1, off := 0 }) (sT wT) (fun t => t.fe == [(0, true)] && t.scrBytes 0 4 4 == leBytes 4 0xFFFFFFFF) = true ∧
    after (.lds { oS with off := 65524 }) (sH wT) (fun t => (t.warp? 0 0).map (fun w => (w.trcause, w.trfmask, w.trinfo, w.traddr)) ==
      some (5, 8, 0x80000000, [(3, 65536)])) = true := by decide +kernel

theorem witness_ScratchpadGroups : (sScr wT).executes (eT wT) ∧ (eT wT).g gt ≠ 0 ∧ Tbl.wf false (sScr wT).fe = true ∧
    0 + 16 * 4095 + 16 * 1 ≤ loadedPacket.scr ∧ (eT wT).usable [useS 63 1 35] ∧ (wT.s 63).toNat % 16 = 0 ∧
    loadedLaunch.badRanks loadedWg.cg 1 = false ∧ (eT wT).usable (useMem 9 4 4) ∧ (eT wT).scrInside ((eT wT).g gt) 4 65520 4 ∧
    Memory.wf (sScr wT).scr = true ∧ (eT wT).settled (sScr wT) ((eT wT).g gt) ∧ ((sScr wT).named loadedWg 1).map (·.id) = [2] ∧
    ∀ g ∈ (sScr wT).named loadedWg 1, g.scrBase + loadedPacket.scr ≤ 2 ^ 20 := by decide +kernel
theorem test_scratchpad_groups :
    after (.feinit ⟨gt, none, 4095, 1⟩) (sScr wT) (fun t => t.fe == []) = true ∧
    after (.cmcast ⟨gt, 1, 4, 0, 1, 32752, .relaxed, .none, 0⟩) (sT wT) (fun t => t.scrBytes 0 32752 4 == leBytes 4 5) = true := by decide +kernel

def oA : OpAtom := ⟨gt, 9, 4, 0, 1, 0, 0, .relaxed, .none⟩
theorem witness_ScratchpadAtomics : (sScr wT).executes (eT wT) ∧ wT.canonical ∧ Memory.wf (sScr wT).scr = true ∧
    loadedWg.core = (eT wT).c.core ∧ (List.range 6).all (fun k => (atomType (atFmt k)).isSome) = true ∧
    (eT wT).usable [useD 9 (regsOfBytes 4), .v 4 1 1 35, .v 1 (regsOfBytes 4) (regsOfBytes 4) 24] ∧
    (eT wT).scrInside ((eT wT).g gt) 4 2040 4 ∧ (lanesOf ((eT wT).g gt)).all (fun l => ((eT wT).scrAddr 4 2040 l).toNat % 4 == 0) = true ∧
    (eT wT).usable [useD 10 (regsOfBytes 8), .v 16 1 1 35, .v 2 (regsOfBytes 8) (regsOfBytes 8) 24] ∧
    (lanesOf ((eT wT).g gt)).all (fun l => ((eT wT).scrAddr 16 2040 l).toNat % 8 == 0) = true ∧
    (lanesOf ((eT wT).g gt)).all (fun l => (lanesOf ((eT wT).g gt)).all (fun k => l == k || decide ((eT wT).scrAddr 4 2040 l ≠ (eT wT).scrAddr 4 2040 k))) = true ∧
    (sScr wT).writes = [] ∧ (eT wT).settled (sScr wT) ((eT wT).g gt) := by decide +kernel
theorem test_scratchpad_atomics :
    after (.atoms { oA with sel := 0, aop := 0 }) (sT { wT with vregs := regsOfRows [(1, [5, 6, 7, 8]), (4, [0, 0, 0, 0])] }) (fun t =>
      t.scrBytes 0 0 4 == leBytes 4 26 && (t.warp? 0 0).map (fun w => (List.range 4).map (w.v 9)) == some [0, 5, 11, 18]) = true ∧
    after (.cass { oA with sel := 0 }) (sT wT) (fun t => t.scrBytes 0 12 4 == leBytes 4 7 &&
      (t.warp? 0 0).map (fun w => w.v 9 3) == some 0) = true := by decide +kernel

theorem witness_RecordAtomics : (sM4 w4).executes (eT w4) ∧ (eT w4).recordUsable 1 ∧ (sM4 w4).poison = [] ∧ w4.canonical ∧
    Memory.wf (sM4 w4).mem = true ∧ (sM4 w4).writes = [] ∧ (eT w4).settled (sM4 w4) ((eT w4).g gt) ∧ atomType (recOf w4.s 1).fmt = some (4, false, false) ∧
    (eT w4).usable [useD 9 (regsOfBytes 4), .v 4 1 1 35, .v 1 (regsOfBytes 4) (regsOfBytes 4) 24] ∧
    (∀ p ∈ offsT w4 { oLd with off := 240 }, (recOf w4.s 1).addr p.2 % 4 = 0) ∧ offsT w4 { oLd with g := g4 } = [(3, 12)] ∧
    (recOf w4.s 1).inBounds 12 4 = true ∧ (recOf w4.s 1).peer? = none ∧
    (match (sM4 w4).translate ((eT w4).who (sM4 w4) 3) .write (recOf w4.s 1).host ((recOf w4.s 1).addr 12) with
      | .ok (.dram 0x10800C none _, _) => true
      | _ => false) = true ∧
    (eT w4).usable [useD 9 (regsOfBytes 4), .v 4 1 1 35, .v 6 1 1 24, useS 42 1 14] ∧
    (w4.s 42).toNat ≠ 0 ∧ (∀ l ∈ lanesOf ((eT w4).g gt), (w4.v 6 l).toNat < (w4.s 42).toNat) ∧
    (∀ p ∈ (eT w4).offsets (lanesOf ((eT w4).g gt)) 4 0, (recOf w4.s 1).addr p.2 % 4 = 0) := by decide +kernel
theorem witness_atomic_reaches : (eT w4).reaches (sM4 w4) (recOf w4.s 1) .write 4 (offsT w4 { oLd with off := 240 }) ∧
    (eT w4).reaches (sM4 w4) (recOf w4.s 1) .write 4 (offsT w4 { oLd with g := g4 }) ∧
    (eT w4).reaches (sM4 w4) (recOf w4.s 1) .write 4 ((eT w4).offsets (lanesOf ((eT w4).g gt)) 4 0) :=
  ⟨reaches_of_check (by decide +kernel), reaches_of_check (by decide +kernel), reaches_of_check (by decide +kernel)⟩
theorem witness_atomic_permits : (eT w4).permitsAtomics (sM4 w4) (recOf w4.s 1) 4 (offsT w4 { oLd with off := 240 }) = true := by
  decide +kernel
theorem test_record_atomics :
    after (.atom { oA with sel := 1, g := g4 }) (sM4 w4) (fun t => readBytes t.mem 0x10800C 4 == leBytes 4 11 &&
      (t.warp? 0 0).map (fun w => w.v 9 3) == some 4) = true ∧
    after (.cas { oA with sel := 1, g := g4 }) (sM4 { w4 with vregs := regsOfRows [(1, [0, 0, 0, 9]), (4, [0, 0, 0, 12]), (9, [0, 0, 0, 4])] }) (fun t =>
      readBytes t.mem 0x10800C 4 == leBytes 4 9) = true ∧
    after (.atomo ⟨g4, 1, 4, 1, 6, 42, .relaxed, .none⟩) (sM4 w4) (fun t => t.contribs.map (fun c => (c.lane, c.key, c.n, c.val, c.pa)) ==
      [(3, 0, 2, 7, 0x10800C)]) = true := by decide +kernel

/-- A launch with one convoy declaration. -/
def cvLaunch : Launch := { loadedLaunch with convoys := [⟨0, 0, 0, 0⟩] }
theorem witness_Fences : (sT wT).executes (eT wT) ∧ (eT wT).g gt ≠ 0 ∧ Scope.beyondDie .sys = true ∧ Scope.wide .cl = true := by decide +kernel
theorem witness_ConvoyMembership : ({ sT wT with launches := [cvLaunch] } : State).executes { eT wT with l := cvLaunch } ∧
    wT.canonical ∧ (eT wT).g gt ≠ 0 ∧ 0 < cvLaunch.convoys.length := by decide +kernel
theorem test_fences : after (.fence ⟨gt, 2, .sys⟩) { sT wT with writes := [⟨7, 0, 0, 0, 0x108000, [1], none, false⟩], l1 := [(5, [])] } (fun t =>
      t.writes.isEmpty && t.l1.isEmpty && readBytes t.mem 0x108000 1 == [1]) = true ∧
    after (.cvleave ⟨gt, 0⟩) { sT { wT with assoc := some ⟨0, 0, true, 0, 0⟩ } with launches := [cvLaunch] } (fun t =>
      (t.warp? 0 0).map (·.assoc) == some none) = true := by decide +kernel

/-- Scalars for the engines: rec1 (64 words), rec2 (bf16, 16 by 16, zeros outside), rec3 (words, 4 by 4), a box descriptor at s32 for 4 by 1 elements at
scratchpad 0, list addresses at s46, and a range of the whole scratchpad at s48. -/
def scalarsE : Tbl Word :=
  [(8, 0x28000), (10, 64), (14, 0x22), (16, 0x28000), (18, 16), (19, 16), (20, 32), (22, 0x4D), (24, 0x28000), (26, 4), (27, 4), (28, 16), (30, 0x22),
   (38, 0x10004), (39, 0x1010001), (47, 0x1000), (49, 0x10000), (50, 1)]
def wE : Warp := { wT with
  sregs := scalarsE, shape := some ⟨16, 16, 16, .bf16, 0⟩, handles := [(5, ⟨[0], 3, none, true⟩), (6, ⟨[1], 0, none, true⟩)] }
def byT (opc : Nat) : Issuer := ⟨2, 0, 0, 0x20000, opc, none, 0, 0, 0⟩
def cmdE (id q : Nat) : ReelCmd := ⟨id, 0, q, byT 0xA4, .fill 0 16 0 false, [0], false, 0, [], [], [], [], []⟩

/-- The same warp with a box descriptor that names rank 0 in its mask. -/
def wMask : Warp := { wE with sregs := Tbl.set 0 scalarsE 32 0x100000 }
def boxD (w : Warp) : BoxDesc := BoxDesc.of (wordsAt w.s 32 8)
theorem witness_queueOpen : queueOpen (sT wE) (eT wE) gt 7 ∧ queueOpen (sT wMask) (eT wMask) gt 0 := by
  unfold queueOpen; decide +kernel
theorem witness_box_commands : (eT wE).recordUsable 1 ∧ (eT wE).usable (.s 32 8 1 27 :: barUse (some 95)) ∧ fld (wordsAt wE.s 32 8) 30 2 = 0 ∧
    (boxD wE).mask = 0 ∧ (boxD wMask).mask = 1 ∧ loadedLaunch.badRanks loadedWg.cg (boxD wMask).mask = false ∧ redFmt (recOf wE.s 1).fmt = true ∧
    (∀ d, d < 3 → (recOf wE.s 1).extOf d ≤ 65535) ∧ (recOf wE.s 1).extOf 3 ≤ 255 ∧ (recOf wE.s 1).extOf 4 ≤ 255 := by decide +kernel
theorem witness_box_shape : (eT wE).boxShape (recOf wE.s 1) (boxD wE).org (boxD wE).size (boxD wE).saddr (boxD wE).swz ∧
    (eT wMask).boxShape (recOf wMask.s 1) (boxD wMask).org (boxD wMask).size (boxD wMask).saddr (boxD wMask).swz ∧
    (eT wE).boxShape (recOf wE.s 1) [0, 0, 0, 0, 0] (recOf wE.s 1).ext (16 * 4080) 0 := by
  unfold Env.boxShape; decide +kernel
theorem witness_box_fits : (eT wE).boxFits (sT wE) .read (recOf wE.s 1) (boxD wE).org (boxD wE).size ∧
    (eT wE).boxFits (sT wE) .write (recOf wE.s 1) (boxD wE).org (boxD wE).size ∧
    (eT wMask).boxFits (sT wMask) .read (recOf wMask.s 1) (boxD wMask).org (boxD wMask).size ∧
    (eT wE).boxFits (sT wE) .read (recOf wE.s 1) [0, 0, 0, 0, 0] (recOf wE.s 1).ext ∧
    (eT wE).boxFits (sT wE) .write (recOf wE.s 1) [0, 0, 0, 0, 0] (recOf wE.s 1).ext :=
  ⟨boxFits_of_check (by decide +kernel), boxFits_of_check (by decide +kernel), boxFits_of_check (by decide +kernel),
    boxFits_of_check (by decide +kernel), boxFits_of_check (by decide +kernel)⟩
theorem witness_index_commands : (eT wE).recordUsable 3 ∧ (eT wE).usable [(Src.v 0).use 1 27, useS 46 2 19] ∧
    fld (wE.s 46).toNat 20 12 = 0 ∧ fld (wE.s 47).toNat 27 5 = 0 ∧ fld (wE.s 47).toNat 20 7 < 97 ∧ (eT wE).usable [useD 0 1] ∧
    (eT wE).usable [.b 95] ∧ fld (0x1000 + 96 * 2 ^ 20) 20 7 < 97 := by decide +kernel
theorem witness_blocks_fit :
    (eT wE).blocksFit (sT wE) (recOf wE.s 3) (fun l => (wE.src (.v 0) l).toNat) (fld (wE.s 46).toNat 0 20) (fld (wE.s 47).toNat 0 20) ∧
    (eT wE).blocksFit (sT wE) (recOf wE.s 3) (fun l => (wE.v 0 l).toNat) (16 * 0) (16 * 0 + 32 * (recOf wE.s 3).blockPitch) :=
  ⟨blocksFit_of_check (by decide +kernel), blocksFit_of_check (by decide +kernel)⟩
theorem witness_range_commands : (sT wE).executes (eT wE) ∧ (eT wE).whole gt ∧ (7 : QCode).toNat < 8 ∧
    (eT wE).usable ([useS 48 2 35, useS 50 1 27] ++ barUse (some 95)) ∧ 0 < (wE.s 50).toNat ∧ (wE.s 50).toNat < 256 ∧
    loadedLaunch.badRanks loadedWg.cg (wE.s 50).toNat = false ∧ 0 < (1 : BitVec 16).toNat ∧ (eT wE).usable [useS 48 2 35] ∧
    16 ≤ ({ sT wE with reelQ := List.replicate 16 (cmdE 9 7) } : State).reelDepth 0 7 := by decide +kernel
theorem witness_range_fits : (eT wE).rangeFits (wE.s 48).toNat (wE.s 49).toNat := by
  unfold Env.rangeFits; decide +kernel
theorem witness_queue_waits : (sT wE).executes (eT wE) ∧ (0x3FF : BitVec 10) ≠ 0 ∧ (eT wE).g gt ≠ 0 ∧ (eT wE).g gNot = 0 ∧
    (eT wE).usable [useS 63 1 27] := by decide +kernel
theorem test_reel_issue :
    after (.cpbox ⟨gt, 7, 1, 32, some 95, false, 0⟩) (sT wE) (fun t => t.reelQ.map (fun c => (c.q, c.cuts)) == [(7, [0])] &&
      (t.wg? 2).map (fun g => Tbl.get 0 g.entered 7) == some 1) = true ∧
    after (.cpboxImm ⟨gt, 0, 1, 4081⟩) (sH wE) (fun t => (t.warp? 0 0).map (·.trcause) == some 5) = true ∧
    after (.cpstbImm ⟨gt, 0, 1, 0⟩) (sT wE) (fun t => t.reelQ.length == 1) = true ∧
    after (.cpidx ⟨gt, 3, 3, .v 0, 46⟩) (sT wE) (fun t => t.reelQ.length == 1 && t.scrBytes 0 0x1000 4 == leBytes 4 0xFFFFFFFF) = true ∧
    after (.cpss ⟨gt, 3, 48, 50, none⟩) (sT wE) (fun t => t.reelQ.map (·.cuts.length) == [16]) = true ∧
    after (.cpfill ⟨gt, 7, 48, 50, false⟩) { sT wE with reelQ := List.replicate 16 (cmdE 9 7) } (fun t => t.reelQ.length == 16 &&
      (t.warp? 0 0).map (fun w => (w.pc 0, w.rob.length)) == some (0x20000, 1)) = true ∧
    after (.qfence ⟨gt, 1⟩) { sT wE with reelQ := [cmdE 9 0] } (fun t => t.qfences == [⟨0, 1, [9]⟩]) = true ∧
    after (.cqwait ⟨gt, 3, none⟩) (sT wE) (fun t => (t.warp? 0 0).map (fun w => w.wait 0) == some (.cqwait 3 0)) = true := by decide +kernel

theorem witness_ShapeGrant : (sT wE).executes (eT wE) ∧ wE.canonical ∧ (eT wE).whole gt ∧ mmaFmt .f4 = some (4, true) ∧ mmaFmt .bf16 = some (16, false) ∧
    (eT wE).usable [useS 63 1 43] ∧ fld 0xFFFF 0 5 ≠ 0 ∧ fld 0xFFFF 5 5 ≠ 0 ∧ fld 0xFFFF 10 6 ≠ 0 := by decide +kernel
theorem test_shape : grant .bf16 16 0 128 128 256 = ⟨128, 128, 32, .bf16, 0⟩ ∧ grant .i8 8 1 16 16 40 = ⟨16, 16, 48, .i8, 1⟩ := by decide +kernel
theorem witness_AccumulatorHandles : (sT wE).executes (eT wE) ∧ wE.canonical ∧ (eT wE).whole gt ∧ wE.handle? 63 = none ∧
    wE.bankCount + 32 ≤ loadedPacket.maxBanks ∧ 32 ≤ ((sT wE).freeBanks 0).length ∧
    ({ sT wE with bankOf := (List.range 225).map (fun b => (b, 2)) } : State).executes (eT wE) ∧
    (({ sT wE with bankOf := (List.range 225).map (fun b => (b, 2)) } : State).freeBanks 0).length < 32 ∧
    wE.handle? 5 = some ⟨[0], 3, none, true⟩ ∧ (sT wE).mxBusy (eT wE) 5 = false ∧ wE.shape = some ⟨16, 16, 16, .bf16, 0⟩ ∧
    (eT wE).usable ([useD 9 1] ++ [useS 63 1 27]) ∧ (eT wE).usable ([.v 9 1 1 35] ++ []) ∧ (eT wE).accSel (.const 15 0) = (15, 0) ∧
    (eT wE).accSel (.const 255 0) = (255, 0) ∧ (∀ l, l < 32 → 32 * 0 + l < 16 → 15 * 16 + (32 * 0 + l) < 512 * [0].length) ∧
    Memory.wf (sT wE).banks = true ∧ Tbl.wf 0 (sT wE).bankOf = true ∧ [0].Nodup := by decide +kernel
theorem test_handles :
    after (.accrd ⟨gt, 9, 5, .const 255 0⟩) (sT wE) (fun t => (t.warp? 0 0).map (fun w => (w.v 9 0, w.v 9 1, w.v 9 2)) == some (3, 1, 0)) = true ∧
    after (.accwr ⟨gt, 1, 5, .const 15 0⟩) (sT wE) (fun t => t.accGet 0 [0] 243 == 7 &&
      (t.warp? 0 0).map (fun w => (w.handle? 5).map (·.steps)) == some (some 4)) = true ∧
    after (.aballoc ⟨gt, 3, 63, 2⟩) (sT wE) (fun t => (t.warp? 0 0).map (fun w => (w.p 3 0, (w.handle? 63).map (·.banks))) == some (true, some [0, 1])) = true ∧
    after (.abfree ⟨gt, 5⟩) (sT wE) (fun t => (t.warp? 0 0).map (fun w => w.handles.length) == some 1) = true := by decide +kernel

/-- A sparse configuration, and rec3 as bytes: 16 rows of two groups of 10 bytes. -/
def wW : Warp := { wE with
  shape := some ⟨16, 16, 48, .i8, 1⟩
  sregs := [(24, 0x28000), (26, 20), (27, 16), (28, 32), (30, 0x40)] }
/-- A reduction of one row of 16 + 16 bytes onto itself, at scratchpad 0 and 65,504, listing rank 0. -/
def wD : Warp := { wE with sregs := [(32, 0), (33, 65504), (34, 0x40001), (35, 0x101)] }
def cgT : List Cg := [⟨1, 0, 0, [2], [(0, 0, 0)], Barrier.init⟩]
/-- An f4 configuration with a record of two f4 elements and a scale in the record after it, with zeros outside them. -/
def wF4 : Warp := { wE with
  shape := some ⟨16, 16, 32, .f4, 0⟩
  handles := [(5, ⟨[0], 3, none, true⟩)]
  sregs := [(16, 0x28000), (18, 2), (19, 1), (20, 16), (22, 0x49), (24, 0x29000), (26, 1), (27, 1), (28, 4), (30, 0x40)] }
/-- A bf16 configuration with a record of two f8e4 elements and their scale in the record after it. -/
def wMx : Warp := { wF4 with
  shape := some ⟨16, 16, 32, .bf16, 0⟩
  sregs := [(16, 0x28000), (18, 2), (19, 1), (20, 32), (22, 0x4A), (24, 0x29000), (26, 1), (27, 1), (28, 1), (30, 0x40)] }
/-- Records of one bf16 element and of three weight bytes, with zeros outside them. -/
def wSm : Warp := { wE with sregs := [(16, 0x28000), (18, 1), (19, 1), (20, 32), (22, 0x4D)] }
def wSmW : Warp := { wW with sregs := [(24, 0x28000), (26, 3), (27, 1), (28, 32), (30, 0x40)] }
def oTile : OpTile := ⟨gt, 0, 2, none, 0, false, false, false, false⟩
theorem witness_matrixOpen : matrixOpen (sT wE) (eT wE) gt true ∧ matrixOpen (sT wW) (eT wW) gt false ∧ matrixOpen (sT wF4) (eT wF4) gt false := by
  unfold matrixOpen; decide +kernel
theorem witness_UnitCommands : (sT wE).executes (eT wE) ∧ (eT wE).whole gt ∧ (eT wE).recordUsable 2 ∧ (eT wW).recordUsable 3 ∧
    wE.shape = some ⟨16, 16, 16, .bf16, 0⟩ ∧ 16 * 16 ≤ 512 * [0].length ∧ wE.handle? 6 = some ⟨[1], 0, none, true⟩ ∧
    (eT wE).usable [.t 0, .t 15] ∧ (eT wE).usable [useS 50 1 27] ∧
    (sT wD).executes (eT wD) ∧ (eT wD).usable [useS 32 4 35] ∧
    (let d := wordsAt wD.s 32 4
     fld d 20 12 = 0 ∧ fld d 52 12 = 0 ∧ fld d 105 23 = 0 ∧ fld d 0 20 % 16 = 0 ∧ fld d 32 20 % 16 = 0 ∧ fld d 64 16 = 1 ∧
     fld d 80 16 = 4 ∧ fld d 96 8 ≠ 0 ∧ loadedLaunch.badRanks loadedWg.cg (fld d 96 8) = false ∧
     (∀ g ∈ (sT wD).listed loadedWg (fld d 96 8), ∀ h ∈ (sT wD).listed loadedWg (fld d 96 8), g.1 ≠ h.1 → g.2.1 ≠ h.2.1) ∧
     fld d 0 20 + 32 ≤ loadedPacket.scr ∧ fld d 32 20 + 32 ≤ loadedPacket.scr ∧ (sT wD).cruDepth (clusterOf 0) < 8) := by decide +kernel
theorem witness_tile_records : (recOf wSm.s 2).fmt = .bf16 ∧ (recOf wSm.s 2).nib = false ∧ (eT wE).tileOrg oTile = (0, 0) ∧
    (eT wE).usable (tileUses oTile) ∧ (recOf wF4.s 2).fmt = .f4 ∧ (recOf wF4.s 2).pair = false ∧ (eT wF4).recordUsable 2 ∧
    (recOf wMx.s 2).fmt ∈ ([.f8e4, .f8e5, .f4, .i8] : List Fmt) ∧ (eT wMx).recordUsable 2 ∧ (recOf wSmW.s 3).fmt = .n8 ∧
    (0 : Int) % (groupBytes 8 (keptOf 1) : Int) = 0 := by decide +kernel
theorem witness_tile_warps : matrixOpen (sT wSm) (eT wSm) gt false ∧ matrixOpen (sT wSmW) (eT wSmW) gt false ∧
    matrixOpen (sT wMx) (eT wMx) gt false ∧ (eT wSm).recordUsable 2 ∧ (eT wSmW).recordUsable 3 := by
  unfold matrixOpen; decide +kernel
theorem witness_scaleRecord : scaleRecord (eT wF4) oTile ∧ scaleRecord (eT wMx) oTile := by
  unfold scaleRecord; decide +kernel
theorem witness_tile_fits :
    (eT wSm).tileFits (sT wSm) .read (tileBoxes ⟨16, 16, 16, .bf16, 0⟩ (recOf wSm.s 2) none 16 false 0 0) ∧
    (eT wSm).tileFits (sT wSm) .write (tileBoxes ⟨16, 16, 16, .bf16, 0⟩ (recOf wSm.s 2) none 16 false 0 0) :=
  ⟨tileFits_of_check (by decide +kernel), tileFits_of_check (by decide +kernel)⟩
theorem witness_scaled_tile_fits :
    (eT wF4).tileFits (sT wF4) .read (tileBoxes ⟨16, 16, 32, .f4, 0⟩ (recOf wF4.s 2) (some (recOf wF4.s 3)) 16 false 0 0) ∧
    (eT wMx).tileFits (sT wMx) .read (tileBoxes ⟨16, 16, 32, .bf16, 0⟩ (recOf wMx.s 2) (some (recOf wMx.s 3)) 16 true 0 0) :=
  ⟨tileFits_of_check (by decide +kernel), tileFits_of_check (by decide +kernel)⟩
theorem witness_weights_fit :
    (eT wSmW).tileFits (sT wSmW) .read (weightBoxes ⟨16, 16, 48, .i8, 1⟩ (recOf wSmW.s 3) none 0 0) :=
  tileFits_of_check (by decide +kernel)
theorem test_unit_issue :
    after (.mma ⟨gt, 5, 0, 15, 0, .bf16, false, true⟩) (sT wE) (fun t => t.matQ.map (fun c => (c.q, c.op)) == [(1, .mma 5 [0] 0 15 0 false)]) = true ∧
    after (.cred ⟨gt, 32⟩) (sT wD) (fun t => t.cruQ.map (fun c => (c.dst, c.rows, c.dcol, c.srcs, c.fin)) == [(65504, 1, 4, [(0, 0)], true)]) = true := by
  decide +kernel

/-- Descriptors of the amplitude engines at s32 (a map of two local qubits) and s40 (a swap of qubits 0 and 1), s48 (.u on qubit 1) and
s56 (.prob of qubit 0). -/
def wQ : Warp := { wT with
  sregs := [(32, 0x28000), (34, 2), (42, 2), (43, 0x100), (48, 0x28000), (50, 1), (51, 1), (56, 0x28000), (58, 1)] }
def mapQ : QMap := ⟨0x28000, 2, 0, 0, 0, false, [0, 1], 0⟩
def sQ (w : Warp) : State := { sT w with qmaps := [(0, mapQ)] }
def gated (a : Nat) (mode : Nat) : Bool :=
  let d := wordsAt wQ.s a 8
  let kt := fld d 64 3
  let qs := (gateQubits d kt (fld d 67 3)).map (·.2)
  decide (gateOffence d mode mapQ.n = none) && (mode == 3 || mode == 4 || mode == 1 || (exchAll (qs.take kt) (qs.drop kt) 5 mapQ).isSome) &&
    (mode != 4 || ((eT wQ).regionReach (sQ wQ) .write (fld d 0 64) 8).isOk) &&
    (3 ≤ mode || ((eT wQ).regionReach (sQ wQ) .read (fld d 0 64) (gateElems mode kt * 8)).isOk)
theorem witness_AmplitudeCommands : (sT wQ).executes (eT wQ) ∧ (sQ wQ).executes (eT wQ) ∧ wQ.canonical ∧ (13 : QCode).toNat ∈ [10, 11, 12, 13] ∧
    (eT wQ).usable [useS 32 8 35] ∧ (eT wQ).usable [useS 56 8 35] ∧ (eT wQ).g gt ≠ 0 ∧ (sQ wQ).ampDepth 0 3 < 16 ∧
    (eT wQ).setOffence (sT wQ) (wordsAt wQ.s 32 8) false = none ∧
    ((eT wQ).regionReach (sT wQ) .write (mapQ.va 0 0) (2 ^ mapQ.l * mapQ.es)).isOk = true ∧
    (sQ wQ).qmapAhead 0 0 = some mapQ ∧ gated 48 0 = true ∧ gated 48 1 = true ∧ gated 40 3 = true ∧ gated 56 4 = true ∧
    (sT wQ).qmapAhead 0 0 = none ∧ (eT wQ).usable [useS 63 1 43] ∧ wQ.wait (lowest (eT wQ).c.mask) = .ready ∧
    (Tbl.get 0 loadedWg.done 13 + 2 ^ 32 - Tbl.get 0 loadedWg.entered 13) % 2 ^ 32 < 2 ^ 31 ∧
    2 ^ 31 ≤ (Tbl.get 0 ({ loadedWg with entered := [(10, 1)] } : Wg).done 10 + 2 ^ 32 - 1) % 2 ^ 32 := by decide +kernel
theorem test_amplitude_issue :
    after (.qmapSet ⟨gt, 10, 32, .c64, 0⟩) (sT wQ) (fun t => t.ampQ.map (fun c => (c.q, c.op)) == [(0, .setMap mapQ)]) = true ∧
    after (.qgate ⟨gt, 13, 40, .c64, 3⟩) (sQ wQ) (fun t => t.ampQ.map (fun c => (c.q, c.op)) == [(3, .gate 3 0 [0, 1] [] 0 0 false)]) = true ∧
    gives (.qgate ⟨gt, 13, 40, .c64, 3⟩) (sH wQ) ((eH wQ).trapped (sH wQ) ⟨1, 15, 0xFFFE, []⟩) = true ∧
    after (.qmapRd ⟨gt, 63, 10, 255, .n8⟩) (sQ wQ) (fun t => (t.warp? 0 0).map (fun w => w.s 63) == some 0x80000202) = true ∧
    after (.qmapRd ⟨gt, 63, 10, 1, .n8⟩) (sQ wQ) (fun t => (t.warp? 0 0).map (fun w => w.s 63) == some 1) = true := by decide +kernel

/-- A sender: s50 names logical cluster 0 and tag 7, s51 is 256 bytes; s53 and the pair s54 are a multicast with an empty mask; a receiver of
256 bytes at the end of the scratchpad, s56, with tag 7 and every bit compared. -/
def wMs : Warp := { wT with sregs := [(50, 7), (51, 256), (56, 65280), (57, 7), (58, 0xFFFFFFFF)] }
def msgT : MsgState := ⟨0, 0, true, false, 1, [], [], 0, []⟩
def recvT (h : Word) (d : Option (Nat × Nat × Nat)) : Recv := ⟨h, 2, 65280, 7, 0, 0xFFFF, 0xFFFF, d, []⟩
def sMs (w : Warp) : State := { sT w with msgs := [msgT] }
def entT : SendEnt := ⟨1, 0, 0, 9, 2, 1, false, false⟩
theorem witness_Messages : (sT wMs).executes (eT wMs) ∧ wMs.canonical ∧ (eT wMs).g gt ≠ 0 ∧ (eT wMs).g ⟨7, true⟩ = 0 ∧
    (eT wMs).usable [useS 63 1 43, useS 50 1 27, useS 51 1 19, Use.v 8 2 1 35] ∧ (wMs.s 51).toNat % 4 = 0 ∧ (wMs.s 51).toNat = 256 ∧
    (wMs.s 50).toNat / 2 ^ 16 < ((sT wMs).logical ((eT wMs).part (sT wMs))).length ∧
    (sT wMs).usedHandles.length < 2 ^ 15 ∧ (eT wMs).settled (sT wMs) ((eT wMs).g gt) ∧
    64 ≤ (({ sT wMs with sends := List.replicate 64 entT } : State).sends.filter (·.core == 0)).length ∧
    (eT wMs).usable [useS 63 1 43, useS 53 1 27, useS 51 1 19, .s 54 2 2 27, Use.s 8 2 1 35] ∧ (wMs.s 53).toNat < 2 ^ 16 ∧ (wMs.s64 54).toNat = 0 ∧
    2 ^ (sT wMs).partClusters ((eT wMs).part (sT wMs)) ≤ 2 ^ 10 ∧
    (sMs wMs).executes (eT wMs) ∧ (eT wMs).usable [useS 63 1 43, useS 56 1 35, useS 57 1 27, useS 58 1 19] ∧
    (wMs.s 56).toNat % 2 ^ 20 % 4 = 0 ∧ (wMs.s 56).toNat % 2 ^ 20 + 256 = loadedPacket.scr ∧ (sMs wMs).msg? 0 0 = some msgT ∧
    (recvT 9 none).accepts 7 0 = true ∧ (recvT 9 none).accepts 8 0 = false ∧
    128 ≤ ({ msgT with recvs := List.replicate 128 (recvT 9 none) } : MsgState).recvs.length ∧
    (eT wMs).usable [useS 62 2 43, useS 57 1 35] ∧ (eT wMs).usable [useS 57 1 35] ∧
    ({ sT wMs with sends := [{ entT with handle := 7 }] } : State).sends.find? (fun x => x.core == 0 && x.ctx == 0 && x.handle == wMs.s 57) =
      some { entT with handle := 7 } := by decide +kernel
def mtested (s : State) : Option (Nat × Nat) :=
  match exec (.mtest ⟨gt, 62, 57⟩) s with
  | .next t => (t.warp? 0 0).map (fun (w : Warp) => ((w.s 62).toNat, (w.s 63).toNat))
  | _ => none
theorem test_messages :
    [mtested { sT wMs with sends := [{ entT with handle := 7 }] }, mtested { sT wMs with sends := [{ entT with handle := 7, left := 0 }] },
      mtested { sT wMs with sends := [{ entT with handle := 7, stale := true }] }, mtested (sMs wMs),
      mtested { sT wMs with msgs := [{ msgT with recvs := [recvT 7 none] }] },
      mtested { sT wMs with msgs := [{ msgT with recvs := [recvT 7 (some (64, 5, 3))] }] }] =
    [some (0, 0), some (1, 0), some (2, 0), some (4, 0), some (0, 0), some (1 + 64 * 65536, 5 + 3 * 65536)] ∧
    after (.mcancel ⟨gt, 3, 57⟩) { sT wMs with msgs := [{ msgT with recvs := [recvT 7 none] }] } (fun t =>
      (t.warp? 0 0).map (fun w => w.p 3 0) == some true && t.msgs.map (·.recvs.length) == [0]) = true ∧
    gives (.msend ⟨gt, 63, .s 8, 53, 51, true⟩) (sH wMs) ((eH wMs).trapped (sH wMs) ⟨7, 15, 256, []⟩) = true ∧
    after (.msend ⟨gt, 63, .v 8, 50, 51, false⟩) { sT wMs with sends := List.replicate 64 entT } (fun t =>
      (t.warp? 0 0).map (fun w => w.s 63) == some 0xFFFFFFFF && t.pkts == []) = true := by decide +kernel

/-- A ranked package, and a warp with the record of a collective at rec1. -/
def sRk (w : Warp) : State := { sT w with ranked := true, domain := 2 }
theorem witness_CollectiveIssue : (sRk wT).executes (eT wT) ∧ wT.canonical ∧ (eT wT).g gt ≠ 0 ∧
    (eT wT).usable [useS 63 1 43, useS 50 2 35, .s 8 8 1 27, useS 52 1 19] ∧ (sRk wT).ranked = true ∧ (wT.s64 50).toNat % 8 = 0 ∧
    collOffence (sRk wT) (wT.s 52).toNat (wordsAt wT.s 8 8) = none ∧ recOffence (wordsAt wT.s 8 8) 1 = none ∧
    bit (wordsAt wT.s 8 8) 204 = false ∧ ((sRk wT).colls.filter (fun c => c.ctx == 0 && !c.running)).length < 16 ∧
    (sT wT).ranked = false ∧ (wT.s64 42).toNat % 8 ≠ 0 ∧ (eT wT).usable [useS 63 1 43, useS 42 2 35, .s 8 8 1 27, useS 52 1 19] ∧
    (eT wT).settled (sRk wT) ((eT wT).g gt) := by decide +kernel
theorem test_collective_issue :
    after (.coll ⟨gt, 63, 50, 1, 52⟩) (sRk wT) (fun t => t.colls.map (fun c => (c.ticket, c.ext0, c.nch, c.g)) == [(1, 64, 1, 1)] &&
      (t.warp? 0 0).map (fun w => w.s 63) == some 1 && (t.ctx? 0).map (·.ticket) == some 1) = true ∧
    gives (.coll ⟨gt, 63, 50, 1, 52⟩) (sH wT) ((eH wT).trapped (sH wT) ⟨1, 15, 768, []⟩) = true ∧
    after (.cwait ⟨gt, 42⟩) (sT wT) (fun t => (t.warp? 0 0).map (fun w => (w.pc 0, w.wait 0)) == some (0x20000, .cwait 2)) = true := by decide +kernel

/-- Page tables with an absent page at 0x40000, whose copy lies in host memory at 0, and a soft lease of it. -/
def absTables : Memory := writeBytes loadedTables 0xC0110 (leBytes 8 0x21B)
def softLaunch : Launch := { loadedLaunch with leases := [⟨1, 1, true, false⟩, ⟨2, 1, true, true⟩] }
def poolCtx : Ctx := { loadedCtx with pools := [(0, ⟨0x200000, 4, []⟩)] }
def wPg : Warp := { wT with
  vregs := regsOfRows [(6, [0x20000, 0x60000, 0x20000, 0x40000]), (4, [0, 4, 8, 12])], preds := [(4, 8)]
  sregs := scalarsT ++ [(50, 0x20000), (52, 1)] }
def sPg : State := { sT wPg with mem := absTables, launches := [softLaunch], ctxs := [poolCtx] }
def ePg : Env := { eT wPg with l := softLaunch, x := poolCtx }
theorem witness_LaunchAndPages : (sT wT).executes (eT wT) ∧ wT.canonical ∧ (eT wT).g gt ≠ 0 ∧ (eT wT).usable [useS 62 2 43, .s 32 32 1 35] ∧ (eT wT).settled (sT wT) ((eT wT).g gt) ∧
    (sT wT).part? 0 = some ⟨0, [0], 50, 1⟩ ∧ (sT wT).channelRoom ⟨0, [0], 50, 1⟩ = true ∧ (33 : SReg).toNat % 8 ≠ 0 ∧ 32 < (40 : SReg).toNat ∧
    sPg.executes ePg ∧ wPg.canonical ∧ ePg.usable [useD 9 1, (Src.v 6).use 2 35] ∧ lanesOf (ePg.g g4) = [3] ∧
    sPg.inLease poolCtx (wPg.src64 (.v 6) 3).toNat = true ∧ (sPg.pageState poolCtx 0x40000 matches .absent _) = true ∧
    (lanesOf ((eT wPg).g gt)).all (fun l => match (sT wPg).pageState loadedCtx (wPg.src64 (.v 6) l).toNat with
      | .absent _ => !(sT wPg).inLease loadedCtx (wPg.src64 (.v 6) l).toNat
      | _ => true) = true ∧
    (eT wPg).usable [useS 63 1 43, useS 50 2 35, useS 54 2 27, useS 56 1 19] ∧ (wPg.s 56).toNat ≤ 7 ∧ loadedCtx.priv = true ∧
    wPg.wait (lowest (eT wPg).c.mask) = .ready ∧ (wPg.s64 54).toNat = 0 ∧ (sU wPg).executes (eU wPg) ∧ (eU wPg).x.priv = false ∧
    ((sT { wPg with waits := [(0, .tinv 9)] }).executes (eT { wPg with waits := [(0, .tinv 9)] }) ∧
      ({ wPg with waits := [(0, .tinv 9)] } : Warp).wait 0 = .tinv 9) := by decide +kernel
theorem test_launch_and_pages :
    after (.launch ⟨gt, 62, 8⟩) (sT wT) (fun t => t.launches.length == 2 && (t.warp? 0 0).map (fun w => w.s64 62) == some 1) = true ∧
    after (.launch ⟨gt, 62, 32⟩) (sT wT) (fun t => t.launches.length == 2 && (t.warp? 0 0).map (fun w => w.s64 62) == some 1 &&
      t.parts.map (·.nextSeq) == [2]) = true ∧
    after (.migrq ⟨g4, 9, .v 6, none⟩) sPg (fun t => (t.warp? 0 0).map (fun w => w.v 9 3) == some 1 && t.migs.map (fun m => (m.va, m.frame)) == [(0x40000, 0x200000)]) = true ∧
    after (.migrq ⟨gt, 9, .v 6, none⟩) (sT wPg) (fun t => (t.warp? 0 0).map (fun w => (List.range 4).map (w.v 9)) == some [0, 3, 0, 3]) = true ∧
    after (.tinv ⟨gt, 63, 50, 54, 56⟩) (sU wPg) (fun t => (t.warp? 0 0).map (·.trcause) == some 2) = true := by decide +kernel

/-! ## Pair words -/

def slotOf (g d s i : Nat) : Slot := ⟨BitVec.ofNat 3 g, BitVec.ofNat 6 d, BitVec.ofNat 6 s, BitVec.ofNat 10 i⟩
/-- Slot 1 adds 5 to v1 into v10 under p1; slot 0 is of a given short opcode, writing v9. -/
def oth : OtherSlot := ⟨1, slotOf 1 10 1 5⟩
theorem witness_PairWords : (sT wT).executes (eT wT) ∧ wT.canonical ∧ (eT wT).noArithTraps ∧ (eT wT).c.mask &&& wT.arrived = 0 ∧
    Memory.wf (sT wT).scr = true ∧ Tbl.wf false (sT wT).fe = true ∧ (List.range 29).all (fun k => okPair k (slotOf 7 9 2 0) oth || k == 20) = true ∧
    okPair 20 (slotOf 7 3 2 0x285) oth = true ∧ okPair 29 (slotOf 7 9 18 384) oth = true ∧ [30, 31, 32, 33].all (fun k => okPair k (slotOf 7 9 2 0) oth) = true ∧
    [34, 35, 36, 37, 38, 39, 40, 41].all (fun k => okPair k (slotOf 7 9 4 0) oth) = true ∧ okPair 1 (slotOf 7 9 2 0) ⟨40, slotOf 7 1 4 1023⟩ = true ∧
    (eT wT).usable [useD (slotV 9) 1, (slotB (slotOf 7 9 2 0)).use 1 27] ∧ (eT wT).usable [useD (slotV 9) 1, (slotB (slotOf 7 9 63 512)).use 1 27] ∧
    (eT wT).usable [useD (slotV 9) 1, (Src.v (slotV 2)).use 1 35] ∧ loadedWg.core = (eT wT).c.core ∧
    (eT wT).usable (useMem (slotMs (slotOf 7 9 4 1023)).d (slotMs (slotOf 7 9 4 1023)).a 4) ∧
    (eT wT).scrInside ((eT wT).g (slotMs (slotOf 7 9 4 1023)).g) (slotMs (slotOf 7 9 4 1023)).a (slotMs (slotOf 7 9 4 1023)).off.toInt 4 ∧
    (lanesOf ((eT wT).g gt)).all (fun l => (granules ((eT wT).scrAddr 4 (slotMf (slotOf 7 9 4 0)).off.toInt l).toNat 4).all
      (fun k => ({ sT wT with fe := [(0, true)] } : State).feGet 0 k)) = true ∧
    (eT wT).recordUsable (slotMr (slotOf 7 9 4 188)).rk.toNat ∧ (eT wT).usable (useMem (slotMr (slotOf 7 9 4 188)).d (slotMr (slotOf 7 9 4 188)).a 4) ∧
    (sT wT).poison = [] ∧ (eT wT).owes (sT wT) ((eT wT).g gt) true = false ∧ (eT wT).settled (sT wT) ((eT wT).g gt) := by decide +kernel
theorem witness_pair_reaches :
    (eT wT).reaches (sT wT) (recOf wT.s 1) .read 4 (offsT wT (slotMr (slotOf 7 9 4 188))) ∧
    (eT wT).reaches (sT wT) (recOf wT.s 1) .write 4 (offsT wT (slotMr (slotOf 7 9 4 188))) :=
  ⟨reaches_of_check (by decide +kernel), reaches_of_check (by decide +kernel)⟩
theorem witness_pair_permits :
    (eT wT).permitsLoads (sT wT) (recOf wT.s 1) 4 (offsT wT (slotMr (slotOf 7 9 4 188))) = true ∧
    (eT wT).permitsStores (sT wT) (recOf wT.s 1) 4 (offsT wT (slotMr (slotOf 7 9 4 188))) = true := by decide +kernel
theorem test_pairs :
    after (.pairIsubRr (slotOf 7 1 2 0) oth) (sT wT) (fun t => (t.warp? 0 0).map (fun w => ((List.range 4).map (w.v 1), (List.range 4).map (w.v 10), w.pc 0)) ==
      some ([2, 0xFFFFFFFE, 0x80000001, 0x80000008], [10, 0, 0x80000005, 0], 0x20008)) = true ∧
    after (.pairIaddRi (slotOf 7 9 1 1) ⟨40, slotOf 7 9 4 0⟩) (sT wT) (fun t => t.scrBytes 0 12 4 == leBytes 4 0 && (t.warp? 0 0).map (fun w => w.v 9 3) == some 8) = true ∧
    after (.pairIcmpPc (slotOf 7 3 2 (2 * 128 + 4)) oth) (sT wT) (fun t => (t.warp? 0 0).map (fun w => Tbl.get 0 w.preds 3) == some 3) = true := by decide +kernel
def brz : Slot := slotOf 1 0 0 8
theorem witness_PairControl : (sT wT).executes (eT wT) ∧ Tbl.wf 0 wT.pcs = true ∧ (eT wT).resolved = none ∧
    [43, 44, 45, 46].all (fun k => okPair k (slotOf 1 0 0 0) oth) = true ∧ okPair 42 brz oth = true ∧ okPair 47 (slotOf 1 0 0 95) oth = true ∧
    (eT wT).g (slotGuard brz) ≠ 0 ∧ wT.bankCount = 0 ∧ wT.live &&& ~~~(eT wT).g (slotGuard brz) ≠ 0 ∧ wT.live &&& ~~~(eT wT).g (slotGuard (slotOf 7 0 0 0)) = 0 ∧
    (eT wT).usable [.b 95] ∧ (eT wT).settled (sT wT) ((eT wT).g (slotGuard brz)) ∧ wT.live.getLsbD 1 = true ∧
    ((eT wT).g (slotGuard brz)).getLsbD 1 = false ∧ (List.range 32).all (fun l => wT.wait l == .ready && wT.pc l == 0x20000 || !wT.live.getLsbD l) = true := by
  decide +kernel
/-- A workgroup of two warps, one of which exits. -/
def wg2 : Wg := { loadedWg with warps := 2 }
theorem witness_pair_exit : ({ sT wT with wgs := [wg2] } : State).executes { eT wT with wg := wg2 } ∧ wg2.exitedWarps + 1 ≠ wg2.warps ∧
    ((match (eT wT).finish (sT wT) (.ok ((sT { wT with exited := 5 }).leaveBarriers loadedWg 0 [0, 2])) with
      | u => (u.warp? 0 0).all (fun v => !v.stuck)) = true) := by decide +kernel
theorem test_pair_control :
    after (.pairBraBr brz oth) (sT wT) (fun t => (t.warp? 0 0).map (fun w => ((List.range 4).map w.pc, w.v 10 0)) ==
      some ([0x20040, 0x20008, 0x20040, 0x20008], 10)) = true ∧
    after (.pairExitZ (slotOf 1 0 0 0) oth) (sT wT) (fun t => (t.warp? 0 0).map (fun w => (w.exited, w.v 10 0)) == some (5, 10)) = true ∧
    after (.pairWsyncZ (slotOf 7 0 0 0) oth) (sT wT) (fun t => (t.warp? 0 0).map (fun w => (w.arrived, w.v 10 0, w.pc 0)) == some (15, 10, 0x20000)) = true ∧
    after (.pairBsyncZb (slotOf 1 0 0 95) oth) (sT wT) (fun t => (t.warp? 0 0).map (fun w => (w.arrived, w.wait 0, w.v 10 0)) == some (5, .bsync 95 0, 10)) = true ∧
    after (.pairNopZ (slotOf 7 0 0 0) oth) (sT wT) (fun t => (t.warp? 0 0).map (fun w => w.pc 0) == some 0x20008) = true ∧
    after (.pairPauseZ (slotOf 7 0 0 0) oth) (sT wT) (fun t => (t.warp? 0 0).map (·.demoted) == some (some 64)) = true := by decide +kernel

/-! ## Events -/

/-- A state with the arguments of an event. -/
def withEv (s : State) (ev : EvArgs) : State := { s with ev := ev }

/-- The loaded machine with a NOP at the entry, and with an entry of it in the reorder buffer. -/
def nopWord : DWord := 0x3370000000000000
def sP : State := { State.reset.loaded with mem := writeBytes loadedTables 0x100000 (leBytes 8 nopWord.toNat) }
def robT (word : DWord) (issued : Bool) (next : Option (Tbl DWord)) : RobEntry := ⟨0x20000, word, 15, issued, next, 0, none⟩
def sRob (w : Warp) (r : RobEntry) : State := { State.reset.loaded with warps := [(0, { w with rob := [r] })] }
def eRob (w : Warp) (r : RobEntry) : Env := ⟨r.cur 0 0, { w with rob := [r] }, loadedWg, loadedLaunch, loadedCtx⟩
def braWord : DWord := 0x3010000000000040
/-- The same machine with its group at an address that is no multiple of 8. -/
def sPbad : State := { sP with warps := [(0, Warp.start loadedWg 0 0xFFFFFFFF 0x20004 [])] }
def fetched (s : State) : Option (Except Stop DWord) :=
  match s.pickIn 0 with
  | some p =>
    let t : State := { s.count p with cur := some (s.picked p) }
    t.env?.map (fun e => match e.fetch t with
      | .word _ w => .ok w
      | .ends st => .error st)
  | none => none
theorem witness_PipelineEvents :
    (match fetched sP with
      | some (.ok w) => w == nopWord
      | _ => false) = true ∧
    (match fetched sPbad with
      | some (.error _) => true
      | _ => false) = true ∧
    (sRob wT (robT nopWord false none)).warp? 0 0 = some { wT with rob := [robT nopWord false none] } ∧
    issueOrder [robT nopWord false none] 0 (robT nopWord false none) = true ∧
    (sRob wT (robT nopWord false none)).running 0 { wT with rob := [robT nopWord false none] } = true ∧
    ({ sRob wT (robT braWord true none) with cur := some ((robT braWord true none).cur 0 0) } : State).executes (eRob wT (robT braWord true none)) ∧
    decode braWord = .ok (.bra ⟨g1, 8⟩) ∧ (robT braWord true none).issued = true ∧ (robT braWord true none).fault = none := by decide +kernel
/-- MOVRI issues when it is the oldest entry of its warp (R162). -/
def movriWord : DWord := (encode (.movri ⟨gt, 9, .v 10, 200, .n32⟩)).getD 0
theorem test_issue_order : (encode (.movri ⟨gt, 9, .v 10, 200, .n32⟩)).isSome = true ∧
    issueOrder [robT nopWord true none, robT movriWord false none] 1 (robT movriWord false none) = false ∧
    issueOrder [robT movriWord false none] 0 (robT movriWord false none) = true := by decide +kernel
theorem test_pipeline_events :
    after .warpSelection sP (fun t => (t.warp? 0 0).map (fun w => w.rob.map (fun r => (r.word, r.pc, r.mask))) == some [(nopWord, 0x20000, 0xFFFFFFFF)]) = true ∧
    after .entryIssue (sRob wT (robT nopWord false none)) (fun t => (t.warp? 0 0).map (fun w => w.rob.map (·.issued)) == some [true]) = true ∧
    after .controlTransferResolve (sRob wT (robT braWord true none)) (fun t => (t.warp? 0 0).map (fun w => w.rob.map (·.next)) ==
      some [some [(0, 0x20040), (1, 0x20008), (2, 0x20040), (3, 0x20008)]]) = true ∧
    after .retirement (sRob wT (robT nopWord true none)) (fun t => t.cur == some ((robT nopWord true none).cur 0 0)) = true ∧
    after .pauseDemotionExpiry { sT { wT with demoted := some 64 } with clk := 64 } (fun t => (t.warp? 0 0).map (·.demoted) == some none) = true := by
  decide +kernel

def readT : ReadReq := ⟨7, 0, 0, 0, 8448, none, false, none, none⟩
def flightT : InFlight := ⟨7, 0, 0, 0, 0x108000, [1, 2, 3, 4], some 0x108100, false⟩
def contT (key n : Nat) : Contrib := ⟨7, byT 0x8B, 0, 0, 0x108000, 0x28000, .n32, key, n, 5, false, none, 0, false⟩
def sR (rs : List ReadReq) (ps : List Pending) : State := withEv { sT wT with reads := rs, pending := ps } { a := 7 }
def sW : State := withEv { sT wT with writes := [{ flightT with id := 6, agent := 1, pa := 0x108200, mir := none }, flightT] } { a := 7, b := 0x108000 }
def sCn (key n : Nat) (q : List OpenSeq) : State := withEv { sM4 wT with contribs := [contT key n], seqs := q } { a := 7 }
def cvT : Convoy := ⟨0, 0, 1, 0, 0, 0x28000, 0, 0, 0, 1, false, 0, []⟩
def sCv (clk : Nat) : State := { sT { wT with waits := [(0, .cvld 0)], assoc := some ⟨0, 0, true, 0, 0⟩ } with convoys := [cvT], clk := clk }
def sRt (b pol clk : Nat) (r : Tbl RetSt) : State := withEv { sT wT with retPol := pol, ret := r, clk := clk } { a := 0, b := b }
/-- A read of a line whose home is die 1, for which a core of die 0 holds 64 permits. -/
def farT : ReadReq := { readT with line := 2 ^ 30 }
theorem witness_MemoryEvents :
    (sR [readT] []).reads.find? (·.id == 7) = some readT ∧ readT.acc = none ∧ (sR [readT] []).readHolds readT = true ∧
    (sR [readT] []).readBehind readT = false ∧ (sR ((List.range 64).map (fun i => { farT with id := 100 + i }) ++ [farT]) []).readHolds farT = false ∧
    (sR ((List.range 63).map (fun i => { farT with id := 100 + i }) ++ [farT]) []).readHolds farT = true ∧
    (sR [readT] []).pending.find? (fun p => p.joinable readT.line) = none ∧
    ((sR [readT] []).pending.filter (fun p => sliceOf p.line == sliceOf readT.line)).length < 256 ∧
    (sR [readT] (List.replicate 256 ⟨5, 8448, [], true⟩)).pending.find? (fun p => p.joinable readT.line) = none ∧ readT.sent = false ∧
    (sR [readT] [⟨5, 8448, [], false⟩]).pending.find? (fun p => p.joinable readT.line) = some ⟨5, 8448, [], false⟩ ∧
    (sR [readT] []).requestOver readT = true ∧ (sR [farT] []).reads.find? (·.id == 7) = some farT ∧ (sR [farT] []).requestOver farT = false ∧
    ({ sR [farT] [] with crossed := [(0, 7)] } : State).requestOver farT = true := by decide +kernel
theorem witness_slice_full :
    256 ≤ ((sR [readT] (List.replicate 256 ⟨5, 8448, [], true⟩)).pending.filter (fun p => sliceOf p.line == sliceOf readT.line)).length := by
  show 256 ≤ (List.filter (fun p : Pending => sliceOf p.line == sliceOf 8448) (List.replicate 256 ⟨5, 8448, [], true⟩)).length
  rw [List.filter_replicate_of_pos (by exact beq_self_eq_true _), List.length_replicate]
theorem witness_write_events :
    (sR [] [⟨7, 8448, [1], true⟩]).pending.find? (·.id == 7) = some ⟨7, 8448, [1], true⟩ ∧
    (sR [{ readT with replied := some 1 }] []).reads.find? (·.id == 7) = some { readT with replied := some 1 } ∧
    (∀ q ∈ [readT, { readT with id := 8, replied := some 1 }], q.replied.all (1 ≤ ·) = true) ∧
    (sR [{ readT with replied := some 1 }] []).replyOver { readT with replied := some 1 } = true ∧ sW.writeOver flightT = true ∧
    sW.writes = [{ flightT with id := 6, agent := 1, pa := 0x108200, mir := none }] ++ flightT :: [] ∧
    writesAhead [{ flightT with id := 6, agent := 1, pa := 0x108200, mir := none }] 0 0 (lineOf 0x108000) + sW.contribsAhead 0 0 (lineOf 0x108000) 7 <
      permitsOf 0 (homeDie (lineOf 0x108000) == 0) true ∧
    ({ flightT with id := 6, agent := 1, pa := 0x108200, mir := none } : InFlight).clashes flightT = false ∧ Memory.wf sW.mem = true ∧ 0x108000 + 4 ≤ 0x108100 := by decide +kernel
theorem witness_contribution_events :
    (sCn 1 2 []).contribs.find? (fun c => c.id == 7 && !c.waiting) = some (contT 1 2) ∧ (sCn 1 2 []).seqAt 0x108000 = none ∧ (sCn 1 2 []).seqs = [] ∧
    (sCn 1 2 []).contribHolds (contT 1 2) = true ∧ (sCn 1 2 []).contribMute (contT 1 2) = false ∧ (sCn 1 2 []).placeLeft (contT 1 2) = true ∧
    (contT 1 2).home = 0 ∧ (sCn 1 2 []).contribBehind (contT 1 2) = false ∧ (sCn 1 2 []).over 3 7 (contT 1 2).die (contT 1 2).home = true ∧ (sCn 1 2 []).poison = [] ∧ 1 < (contT 0 2).n ∧
    (contT 0 2).key = 0 ∧ (contT 0 2).pa < 2 ^ 80 ∧ (sCn 0 2 []).writes = [] ∧ Memory.wf (sCn 0 2 []).mem = true ∧
    (sCn 0 3 [⟨0x108000, 0, 0, 1, 2⟩]).seqAt 0x108000 = some ⟨0x108000, 0, 0, 1, 2⟩ ∧ (contT 0 3).n ≠ 2 ∧ (contT 0 2).key < 1 ∧
    ((sCn 0 3 [⟨0x108000, 0, 0, 1, 2⟩]).ctx? 0).any (fun x => x.halt.isNone) = true ∧ (contT 5 9).n = 9 ∧ 1 < (contT 5 9).key ∧
    (sCn 5 9 [⟨0x108000, 0, 0, 1, 9⟩]).seqAt 0x108000 = some ⟨0x108000, 0, 0, 1, 9⟩ := by decide +kernel
theorem witness_slice_events :
    ((sCv 4096).warp? 0 0).any (fun w => w.cvSince == some 0 && !w.cvPass && (sCv 4096).launchOf w == some 1) = true ∧
    (sCv 4096).convoy? ((sCv 4096).dieOf 0) 1 0 = some cvT ∧ 0 + cvT.holdCycles ≤ (sCv 4096).clk ∧
    (sT wT).poison.contains (lineOf 0x108000) = false ∧ 319 < 8 * (sT wT).clusters ∧ ((sT wT).ctx? 0).isSome = true ∧
    ((sT wT).errOrigin 0 0 0 1).isSome = true ∧ ((sT { wT with rob := [robT nopWord true none] }).errOrigin 0 0 0 1) = some (0, 15, 0x20000, 0, 0) ∧
    (1151 < 1152 ∧ Tbl.find? (sRt 1151 1 0 []).ret 1151 = none ∧ (sRt 1151 1 0 []).segFree 0 1151 = true) ∧
    Tbl.find? (sRt 3 1 48 [(3, .entering 0)]).ret 3 = some (.entering 0) ∧ 0 + 48 ≤ (sRt 3 1 48 [(3, .entering 0)]).clk ∧
    Tbl.find? (sRt 3 0 64 [(3, .leaving 0)]).ret 3 = some (.leaving 0) ∧ ¬ (0 + 64 ≤ (sRt 3 0 63 [(3, .leaving 0)]).clk) := by decide +kernel
/-- The entries of a slice for reads and for writes (R345). -/
theorem test_slice_entries : (sliceEntries false).sum = 20944 ∧ (sliceEntries true).sum = 6032 := by decide
theorem test_memory_events :
    after .mergeReadArrival (sR [readT] []) (fun t => t.pending == [⟨3, 8448, [7], false⟩] && t.reads.map (fun r => (r.sent, r.acc)) == [(true, some 3)] &&
      (t.ctx? 0).map (·.mrg) == some [(0, 1), (2, 1)]) = true ∧
    after .mergeReadArrival (sR [readT] [⟨5, 8448, [], false⟩]) (fun t => t.pending == [⟨5, 8448, [7], false⟩] && (t.ctx? 0).map (·.mrg) == some [(0, 1), (1, 1)]) = true ∧
    after .pendingAccessReturn (sR [{ readT with id := 1 }] [⟨7, 8448, [1], true⟩]) (fun t => t.pending == [] && t.reads.map (·.replied) == [some 3]) = true ∧
    after .replyArrival (sR [{ readT with replied := some 1 }] []) (fun t => t.reads == []) = true ∧
    after .sliceWriteArrival sW (fun t => readBytes t.mem 0x108000 4 == [1, 2, 3, 4] && readBytes t.mem 0x108100 4 == [1, 2, 3, 4] && t.writes.length == 1) = true ∧
    after .orderedContributionArrival (sCn 1 2 []) (fun t => t.seqs == [⟨0x108000, 0, 0, 0, 2⟩] && t.contribs.map (·.waiting) == [true]) = true ∧
    after .orderedContributionArrival (sCn 0 2 []) (fun t => readBytes t.mem 0x108000 4 == leBytes 4 6 && t.seqs == [⟨0x108000, 0, 0, 1, 2⟩]) = true ∧
    after .orderedContributionArrival { sCn 0 2 [] with ctxs := [{ loadedCtx with halt := some ⟨32, 0, 1, 0, 0, 0, 0, 0, 0, 0, 0, 0, [0], [], false⟩ }] }
      (fun t => t.contribs == [] && t.seqs == []) = true ∧
    after .orderedContributionArrival (sCn 0 3 [⟨0x108000, 0, 0, 1, 2⟩]) (fun t => (t.ctx? 0).map (fun x => x.halt.map (·.cause)) == some (some 40)) = true := by
  decide +kernel
theorem test_slice_events :
    after .convoyHoldExpiry (withEv (sCv 4096) {}) (fun t => (t.warp? 0 0).map (·.cvPass) == some true && t.convoys.map (·.qdrop) == [true]) = true ∧
    after .uncorrectableError (withEv (sT wT) { a := 1, b := 0x108001 }) (fun t => t.poison == [8448]) = true ∧
    after .uncorrectableError (withEv (sT wT) { a := 0, b := 0, c := 0, d := 1 }) (fun t =>
      (t.ctx? 0).map (fun x => x.halt.map (fun h => (h.cause, h.die, h.src))) == some (some (33, 0, 1))) = true ∧
    after .uncorrectableError (withEv (sT wT) { a := 0, b := 0, c := 0, d := 2 }) (fun _ => true) = false ∧
    after .retentionEntry (sRt 1151 1 0 []) (fun t => t.ret == [(1151, .entering 0)]) = true ∧
    after .retentionEntry (sRt 3 1 48 [(3, .entering 0)]) (fun t => t.ret == [(3, .held)]) = true ∧
    after .retentionTimeoutExit (sRt 3 0 5 [(3, .entering 0)]) (fun t => t.ret == [(3, .leaving 48)]) = true ∧
    after .retentionExit (sRt 3 0 64 [(3, .leaving 0)]) (fun t => t.ret == []) = true ∧
    after .retentionExit (sRt 3 0 63 [(3, .leaving 0)]) (fun _ => true) = false := by decide +kernel

/-! The engines -/

def reelT (op : ReelOp) (cuts : List Nat) (started : Bool) (piece : Nat) : ReelCmd :=
  ⟨9, 0, 0, byT 0xA4, op, cuts, started, piece, [], [], [], [], []⟩
def sRl (c : ReelCmd) : State := withEv { sM4 wE with reelQ := [c], writes := [flightT] } {}
def recT : Rec := ⟨1, 0x28000, [64, 1, 1, 1, 1], [0, 0, 0, 0], .n32, 1, 0, 0, false, 0⟩
def boxT (c1 : Nat) : ReelCmd := reelT (.box recT 0 0 0 [0, 0, 0, 0, 0] [c1, 1, 1, 1, 1] none) [0] true 0
/-- A copy whose lane 3 waits for a page that a failed migration gave up. -/
def badRec : Rec := ⟨3, 0x80000, [4, 4, 1, 1, 1], [16, 0, 0, 0], .n32, 1, 0, 0, false, 0⟩
def idxRec : Rec := ⟨3, 0x40000, [4, 4, 1, 1, 1], [16, 0, 0, 0], .n32, 1, 0, 0, false, 0⟩
def idxT : ReelCmd := { reelT (.idx idxRec (List.replicate 32 0) 8 0 0x1000 none) [0] true 1 with
  deferred := [(3, [(0, 4)])] }
/-- A copy whose next piece lies outside every range. -/
def walkT : ReelCmd := { reelT (.idx badRec (List.replicate 32 0) 1 0 0x1000 none) [0] true 0 with walk := [[(0, 0, 4)]] }
def sIx : State := withEv { sPg with mem := writeBytes loadedTables 0xC0110 (leBytes 8 0x31B), reelQ := [idxT] } { c := 3 }
theorem witness_ReelEvents :
    (sRl (reelT (.fill 0 16 7 false) [0] false 0)).reelHead 0 0 = some (reelT (.fill 0 16 7 false) [0] false 0) ∧
    (sRl (boxT 4)).engLive (boxT 4).by' = true ∧ ((sRl (boxT 4)).engCtx (boxT 4).by').isSome = true ∧ Memory.wf (sRl (boxT 4)).scr = true ∧
    (match (sRl (boxT 4)).engCtx (boxT 4).by' with
      | some x => ((sRl (boxT 4)).boxPiece (boxT 4) x recT 0 0 0 [0, 0, 0, 0, 0] [4, 1, 1, 1, 1] none).isOk &&
          (!(({ sRl (boxT 4) with ctxs := [{ loadedCtx with root := 0 }] } : State).boxPiece (boxT 4) { x with who := { x.who with leases := [] } } recT 0 0 0
            [0, 0, 0, 0, 0] [4, 1, 1, 1, 1] none).isOk)
      | none => false) = true ∧
    sIx.reelHead 0 0 = some idxT ∧ idxT.walk = [] ∧ idxT.deferred.find? (·.1 == 3) = some (3, [(0, 4)]) ∧ (sIx.engCtx idxT.by').isSome = true ∧
    sIx.reelMute idxT = false ∧ (sRl (boxT 4)).reelMute (boxT 4) = false ∧
    (match sIx.engCtx idxT.by' with
      | some x => (match sIx.blockState x idxRec (idxRec.partVas 0 [(0, 4)]) with
        | .failed => true
        | _ => false)
      | none => false) = true ∧ (∀ va ∈ idxRec.partVas 0 [(0, 4)], sIx.migOf 0 va = none ∧ sIx.shooting 0 va = false) ∧
    (match sIx.engCtx walkT.by' with
      | some x => (match sIx.idxPiece walkT x badRec (List.replicate 32 0) 8 0x1000 none with
        | .error _ => true
        | .ok _ => false)
      | none => false) = true ∧ walkT.walk ≠ [] ∧
    (reelT (.fill 0 16 7 false) [0] true 1).cuts.length ≤ 1 := by decide +kernel
theorem witness_reel_permits :
    (match (sRl (boxT 4)).engCtx (boxT 4).by' with
      | some x => !(sRl (boxT 4)).reelFull (boxT 4) x
      | none => false) = true ∧
    (match sIx.engCtx walkT.by' with
      | some x => !sIx.reelFull walkT x && !sIx.engFull x.who 0 false false idxRec ((idxRec.partVas 0 [(0, 4)]).map (·, idxRec.unit))
      | none => false) = true := by decide +kernel
theorem test_reel_events :
    after .reelCommandStart (sRl (reelT (.fill 0 16 7 false) [0] false 0)) (fun t => t.reelQ.map (·.started) == [true]) = true ∧
    after .reelPieceComplete (sRl (reelT (.fill 0 16 7 false) [0] true 0)) (fun t => t.reelQ.map (·.piece) == [1] && t.scrBytes 0 12 4 == leBytes 4 7) = true ∧
    after .reelPieceComplete (sRl (boxT 4)) (fun t => t.scrBytes 0 0 16 == [0x04030201, 2, 3, 4].flatMap (leBytes 4)) = true ∧
    after .cpidxDeferredFetch sIx (fun t => t.reelQ.map (fun c => (c.deferred.length, c.status)) == [(0, [(3, 2)])]) = true ∧
    after .reelCommandComplete (sRl (reelT (.fill 0 16 7 false) [0] true 1)) (fun t => t.reelQ == [] && t.writes == [] &&
      (t.wg? 2).map (fun g => Tbl.get 0 g.done 0) == some 1) = true := by decide +kernel

def matT (op : MatOp) (started : Bool) (piece : Nat := 0) : MatCmd := ⟨9, 0, 0, byT 0xC8, some ⟨16, 16, 16, .bf16, 0⟩, op, started, [], [0], piece⟩
def sMt (c : MatCmd) : State := withEv { sM4 wE with matQ := [c], banks := [(5, 1), (2048, 1), (4096, 9)] } {}
/-- A copy out of a tile to a place outside every lease. -/
def tstT : MatCmd := matT (.tst ⟨1, 0x50000, [16, 1, 1, 1, 1], [0, 0, 0, 0], .bf16, 0, 0, 0, false, 0⟩ none 0 16 0 0) true
def cruT : CruCmd := ⟨9, 0, byT 0xCB, 0, 64, 1, 4, [(0, 0)], false, 0⟩
def seqT : Seqr := ⟨8, 0, false, byT 0x73, 0x28000, 15, [], 16, none, [], [], [], none⟩
def sSq (w : DWord) : State := withEv { sT wT with seqrs := [seqT], mem := writeBytes loadedTables 0x108000 (leBytes 8 w.toNat) } {}
theorem witness_UnitEvents :
    (sMt (matT (.accz 5 [0]) false)).matHead 0 0 = some (matT (.accz 5 [0]) false) ∧ (sMt tstT).engLive tstT.by' = true ∧
    ((sMt tstT).engCtx tstT.by').isSome = true ∧ Memory.wf (sMt tstT).banks = true ∧
    (sMt tstT).matMute tstT = false ∧ tstT.piece < tstT.cuts.length ∧ (matT (.accz 5 [0]) true 1).cuts.length ≤ 1 ∧
    (match (sMt tstT).engCtx tstT.by' with
      | some x => !((sMt tstT).matRun tstT x).isOk
      | none => false) = true ∧
    (withEv { sT wT with cruQ := [cruT] } {}).cruHead 0 = some cruT ∧ ((sT wT).engCtx cruT.by').isSome = true ∧
    (sSq nopWord).seqrs.find? (fun q => q.core == 0 && q.mat == (0 != 0)) = some seqT ∧ seqT.pc.toNat % 8 = 0 ∧
    decode nopWord = .ok (.nop ⟨gt⟩) ∧ decode 0x3BF0000000000000 = .ok (.endp ⟨gt⟩) ∧ (decode 0).toOption.isSome = true ∧
    (match (sSq nopWord).engCtx seqT.by' with
      | some x => (match (sSq nopWord).fetchWord x.who seqT.pc with
        | .ok (_, w) => w == nopWord
        | .error _ => false)
      | none => false) = true := by decide +kernel
theorem witness_unit_permits :
    (match (sMt tstT).engCtx tstT.by' with
      | some x => !(sMt tstT).matFull tstT x
      | none => false) = true := by decide +kernel
theorem test_unit_events :
    after .matrixCommandStart (sMt (matT (.accz 5 [0]) false)) (fun t => t.matQ.map (·.started) == [true]) = true ∧
    after .matrixCommandStart (sMt (matT (.accz 5 [0, 1]) true)) (fun t => t.matQ.map (·.piece) == [1] && t.banks == [(4096, 9)]) = true ∧
    after .matrixCommandComplete (sMt (matT (.accz 5 [0, 1]) true)) (fun _ => true) = false ∧
    after .matrixCommandComplete (sMt (matT (.accz 5 [0, 1]) true 1)) (fun t => t.matQ == [] && t.writes == [] &&
      (t.wg? 2).map (fun g => Tbl.get 0 g.done 8) == some 1) = true ∧
    after .matrixCommandStart (sMt tstT) (fun t => (t.ctx? 0).map (fun x => x.halt.map (fun h => (h.cause, h.src))) == some (some (36, 3))) = true ∧
    after .cruRowMerge (withEv { sT wT with cruQ := [cruT] } {}) (fun t => t.cruQ == []) = true ∧
    after .sequencerWord (sSq nopWord) (fun t => t.seqrs.map (·.pc) == [0x28008]) = true ∧
    after .sequencerWord (sSq 0x71F0000000000000) (fun t => (t.ctx? 0).map (fun x => x.halt.map (fun h => (h.cause, h.src))) == some (some (41, 9))) = true := by
  decide +kernel

/-! The amplitude engines -/

def ampT (op : AmpOp) (st : AmpStage) (m : Option QMap) : AmpCmd := ⟨9, 0, 0, byT 0xCC, op, st, 5, m, [], 0⟩
def sAm (c : AmpCmd) (m : List (Nat × QMap)) (ev : EvArgs) : State :=
  withEv { sM4 wQ with ampQ := [c], qmaps := m, writes := [flightT], ranked := true, tports := [⟨true, false, false, 0, 0, none⟩] } ev
/-- A map of two local qubits and one across the packages of ranks 0 and 1. -/
def mapR : QMap := ⟨0x28000, 2, 0, 1, 0, false, [0, 1, 2], 0⟩
/-- A gate on qubit 2, which stands at position 2, outside the die. -/
def opR : AmpOp := .gate 0 0x28000 [2] [] 0 0 false
def swapT : AmpOp := .gate 3 0 [0, 1] [] 0 0 false
def probT : AmpOp := .gate 4 0x28000 [0] [] 0 0 false
theorem witness_AmplitudeEvents :
    (sAm (ampT swapT .waiting none) [(0, mapQ)] {}).ampHead 0 0 = some (ampT swapT .waiting none) ∧
    (sAm (ampT swapT .waiting none) [] {}).engLive (ampT swapT .waiting none).by' = true ∧ (sAm (ampT swapT .waiting none) [] {}).qmap? 0 0 = none ∧
    (sAm (ampT swapT .waiting none) [(0, mapQ)] {}).qmap? 0 0 = some mapQ ∧ ((sAm (ampT swapT .waiting none) [] {}).ampCtx (ampT swapT .waiting none) mapQ).isSome = true ∧
    ((sAm (ampT swapT .waiting none) [] {}).ctx? 0).any (fun x => x.halt.isNone) = true ∧ 1 < mapQ.n ∧
    nextExch mapR [2] [] = some (some (2, 1, [0, 2, 1])) ∧ mapR.l + mapR.db ≤ 2 ∧ nextExch { mapR with perm := [0, 2, 1] } [2] [] = none ∧
    (match (sAm (ampT opR (.exchanging 0 1 0) (some mapR)) [] {}).ampCtx (ampT opR (.exchanging 0 1 0) (some mapR)) mapR with
      | some x => (leaving mapR x 2 1).length * mapR.es == 16 && (cutOf (exchPer mapR x 2) 0 (leaving mapR x 2 1)).length == 2 &&
          exchPieces mapR x 2 1 == 1 && ((sAm (ampT opR (.exchanging 0 1 0) (some mapR)) [] {}).ampPuts x 1 (ampT opR (.exchanging 0 1 0) (some mapR)) mapR
            ((cutOf (exchPer mapR x 2) 0 (leaving mapR x 2 1)).zipIdx.map (fun q => (q.1, List.replicate 8 1)))).isOk
      | none => false) = true ∧
    (sT wQ).part? 0 = some ⟨0, [0], 50, 1⟩ ∧ mapQ.rb = 0 ∧ mapQ.db = 0 ∧ (sT wQ).rank = mapQ.rbase ∧ 0 < mapR.rb ∧
    ((sAm (ampT probT (.summed 7) (some mapQ)) [] {}).probSums 0 [0] 5).map (fun l => l.map (·.2)) = some [7] ∧
    (match (sAm (ampT probT (.summed 7) (some mapQ)) [] {}).ampCtx (ampT probT (.summed 7) (some mapQ)) mapQ with
      | some x => ((sAm (ampT probT (.summed 7) (some mapQ)) [] {}).ampWrite x 3 0
          ((sAm (ampT probT (.summed 7) (some mapQ)) [] {}).ampSo x .write 0x28000 8) 0x28000 (leBytes 8 7)).isOk
      | none => false) = true := by decide +kernel
theorem witness_amplitude_permits :
    (match (sAm (ampT opR (.exchanging 0 1 0) (some mapR)) [] {}).ampCtx (ampT opR (.exchanging 0 1 0) (some mapR)) mapR with
      | some x => !(sAm (ampT opR (.exchanging 0 1 0) (some mapR)) [] {}).ampFull x 0 opR mapR true
          (cutOf (exchPer mapR x 2) 0 (leaving mapR x 2 1))
      | none => false) = true ∧
    (match (sAm (ampT probT (.summed 7) (some mapQ)) [] {}).ampCtx (ampT probT (.summed 7) (some mapQ)) mapQ with
      | some x => !(sAm (ampT probT (.summed 7) (some mapQ)) [] {}).engFull x.who 1000 true false plainRec [(0x28000, 8)]
      | none => false) = true ∧
    (sAm (ampT opR (.exchanging 0 1 0) (some mapR)) [] {}).carries 0 = true := by decide +kernel
theorem test_amplitude_events :
    after .ampExchangeArrival (sAm (ampT opR (.exchanging 0 1 0) (some mapR)) [] { c := 5, f := 2, d := 3 }) (fun t =>
      t.ampQ.map (·.grants) == [3]) = true ∧
    after .ampExchangeArrival (sAm (ampT opR (.exchanging 0 1 0) (some mapR)) [] { c := 5, f := 2, d := 3, pairs := [(0, 1), (0, 0)] }) (fun t =>
      t.ampGrants == [⟨0, 0, 0, 5, 1, 3⟩]) = true ∧
    after .ampCommandStart (sAm (ampT (.setMap mapR) .waiting none) [] {}) (fun t => t.qmap? 0 0 == some mapR) = true ∧
    after .ampCommandStart (sAm (ampT swapT .waiting none) [(0, mapQ)] {}) (fun t => (t.qmap? 0 0).map (fun m => (m.perm, m.seq)) == some ([1, 0], 1)) = true ∧
    after .ampCommandStart (sAm (ampT swapT .waiting none) [] {}) (fun t => (t.ctx? 0).map (fun x => x.halt.map (fun h => (h.cause, h.src))) == some (some (42, 4))) = true ∧
    after .ampExchangeArrival (sAm (ampT opR (.exchanging 0 1 0) (some mapR)) [] { f := 1 }) (fun t =>
      (t.ctx? 0).map (fun x => x.halt.map (·.cause)) == some (some 43)) = true ∧
    after .ampExchangeArrival (sAm (ampT opR (.exchanging 0 1 0) (some mapR)) [] { c := 4, pairs := [(0, 0)] }) (fun t =>
      (t.ctx? 0).map (fun x => x.halt.map (·.cause)) == some (some 42)) = true ∧
    after .ampExchangeArrival (sAm (ampT opR (.exchanging 0 1 0) (some mapR)) []
      { c := 5, d := 16, e := fingerprint mapR opR, pairs := [(0, 0)], data := List.replicate 16 1 }) (fun t =>
        t.ampQ.map (·.stage) == [.exchanging 0 1 1] && t.dieBytes 0 0x108010 8 == List.replicate 8 1) = true ∧
    after .ampExchangeComplete (sAm (ampT opR (.exchanging 0 1 1) (some mapR)) [(0, mapR)] {}) (fun t =>
      (t.qmap? 0 0).map (·.perm) == some [0, 2, 1] && t.ampQ.map (·.stage) == [.applying 0]) = true ∧
    after .ampProbFold (sAm (ampT probT (.summed 7) (some mapQ)) [] {}) (fun t => t.ampQ.map (·.stage) == [.done] && t.dieBytes 0 0x108000 8 == leBytes 8 7) = true ∧
    after .ampCommandComplete (sAm (ampT probT .done (some mapQ)) [] {}) (fun t => t.ampQ == [] && t.writes == [] &&
      (t.wg? 2).map (fun g => Tbl.get 0 g.done 10) == some 1) = true := by decide +kernel

/-! Launches -/

def slotFull : LSlot := ⟨0, 511, writeBytes [] 0 (leBytes 128 (0x20000 + 32 * 2 ^ 192 + loadedPacket.work * 2 ^ 256 + loadedPacket.res * 2 ^ 320)),
  List.range 128, true, some 0, none⟩
def sSl (bound : Option Nat) (slots : List LSlot) (ev : EvArgs) : State :=
  withEv { State.reset.loaded with slots := slots, ports := List.replicate 2 ⟨true, 16, 128, bound, 0, 0, 0, [], [], [], 0⟩ } ev
/-- A launch that waits for its placement on an empty die. -/
def sPl : State := withEv { State.reset.loaded with launches := [{ loadedLaunch with placed := [] }], warps := [], wgs := [], cgs := [] } {}
/-- A launch whose warp declares 8 vector registers, 8 scalars and 4 KiB of scratchpad. -/
def tinyLaunch : Launch := { loadedLaunch with pk := { loadedPacket with res := 8 + 8 * 2 ^ 9 + 4096 * 2 ^ 21 } }
def wEv : Warp := { Warp.start loadedWg 0 3 0x20000 [] with evicting := some ⟨0, 0, 8192, 0x30000⟩, vregs := [(0, 7)] }
def sEv : State := { State.reset.loaded with launches := [tinyLaunch], warps := [(0, wEv)], tileOf := [] }
def evT : Evicted := ⟨0, 0, 0, 0, 8192, [], [], { wEv with evicting := none }⟩
def sEd : State := { State.reset.loaded with launches := [tinyLaunch], warps := [], evicted := [evT], tileOf := [] }
def doneT : Launch := { loadedLaunch with placed := [(0, 1)], released := [(0, 1)] }
def feedT : Launch := { loadedLaunch with pk := { loadedPacket with work := loadedPacket.work + 2 ^ 51 } }
theorem witness_LaunchEvents :
    (sSl (some 0) [] { b := 65535, data := [1] }).stt ≠ 2 ∧ 65535 % 128 + 1 ≤ 128 ∧ slotFull.full = true ∧ slotFull.committed = true ∧
    ({ slotFull with committed := false, written := (List.range 64).map (· + 64) } : LSlot).full = true ∧
    ({ slotFull with committed := false, written := (List.range 63).map (· + 64) } : LSlot).full = false ∧
    ((sSl (some 0) [] {}).ports[0]?).any (fun p => p.bound == some 0) = true ∧ ((sSl (some 0) [] {}).ctx? 0).any (fun c => c.halt.isNone) = true ∧
    (sSl (some 0) [slotFull] { b := 511 }).slot? 0 511 = some slotFull ∧ (sSl (some 0) [slotFull] {}).channelRoom ⟨0, [0], 50, 1⟩ = true ∧
    sPl.evicted = [] ∧ loadedLaunch.checked = true ∧ sPl.parts.find? (fun p => p.dies.contains 0) = some ⟨0, [0], 50, 1⟩ ∧ sPl.candidates ⟨0, [0], 50, 1⟩ 0 = [{ loadedLaunch with placed := [] }] ∧
    (sPl.clustersOfDie 0).filter (fun cl => sPl.openTo ⟨0, [0], 50, 1⟩ 0 cl { loadedLaunch with placed := [] }) = List.range 10 ∧
    (assign loadedPacket ((coresOf 0).map (fun k => sPl.roomOf k (fun _ => false) (fun _ => false))) (loadedLaunch.wgWarps 0)) = some [(0, 0, [0])] ∧
    sEv.warp? 0 0 = some wEv ∧ sEv.warpLaunch wEv = some tinyLaunch ∧ wEv.evicting = some ⟨0, 0, 8192, 0x30000⟩ ∧ wEv.rob = [] ∧ sEv.haltedOn 0 0 = false ∧ sEv.quiet 0 0 wEv = true ∧ Tbl.risingFrom none sEv.warps = true ∧
    sEd.nextBack 0 = some evT ∧ sEd.warpLaunch evT.w = some tinyLaunch ∧ sEd.resumeSlot evT tinyLaunch = some 0 ∧
    doneT.doneAll ⟨0, [0], 50, 1⟩ = true ∧ doneT.recorded = true ∧ doneT.st = .queued ∧ feedT.pk.feeds = true := by decide +kernel
theorem test_launch_events :
    after .launchSlotWrite (sSl (some 0) [] { b := 511 * 128, data := leBytes 128 (0x20000 + loadedPacket.work * 2 ^ 256) }) (fun t =>
      t.slots.map (fun x => (x.idx, x.committed, x.bound)) == [(511, true, some 0)]) = true ∧
    after .launchSlotWrite (sSl (some 0) [slotFull] { b := 511 * 128, data := [1] }) (fun t => t.slotErr == 1) = true ∧
    after .systemChannelEntry (sSl (some 0) [slotFull] { b := 511 }) (fun t => t.launches.map (fun l => (l.seq, l.st, l.entry)) ==
      [(0, .queued, 0x20000), (1, .queued, 0x20000)] && t.slots.map (fun x => (x.committed, x.seq)) == [(false, some 1)]) = true ∧
    after .evictedWarpSave sEv (fun t => (t.warp? 0 0).isNone && t.evicted.map (fun v => v.w.vregs) == [[(0, 7)]]) = true ∧
    after .warpResume sEd (fun t => (t.warp? 0 0).map (·.vregs) == some [(0, 7)] && t.evicted == []) = true ∧
    after .launchCompletion { State.reset.loaded with launches := [doneT] } (fun t => t.launches.map (·.st) == [.completed]) = true := by decide +kernel

/-! Halts -/

def haltT (dies : List Nat) (stops : List (Nat × Nat)) : Halt := ⟨32, 0, 1, 0, 0, 0, 1, 0x20000, 0x40000, 0, 0, 0, dies, stops, false⟩
def sHt (dies : List Nat) (stops : List (Nat × Nat)) (ev : EvArgs) : State :=
  withEv { sRob wT (robT nopWord false none) with ctxs := [{ loadedCtx with stopa := 0x20000, halt := some (haltT dies stops) }] } ev
theorem witness_HaltEvents :
    ((sHt [] [] {}).ctx? 0).map (·.halt) = some (some (haltT [] [])) ∧ (sHt [] [] {}).part? 0 = some ⟨0, [0], 50, 1⟩ ∧ (haltT [] []).dies = [] ∧
    (haltT [0] []).dies = [0] ∧ 812 < 813 ∧ ((haltT [0] ((List.range 812).map (fun k => (0, k + 1)))).stops.filter (fun e => e.1 == 0)).length = 812 ∧
    (0, 0) ∉ (haltT [0] ((List.range 812).map (fun k => (0, k + 1)))).stops ∧ ((haltT [0] []).stops.filter (fun e => e.1 == 0)).length < 812 := by decide +kernel
theorem test_halt_events :
    after .haltArrival (sHt [] [] {}) (fun t => (t.ctx? 0).map (fun x => x.halt.map (·.dies)) == some (some [0]) && (t.warp? 0 0).map (·.rob) == some []) = true ∧
    after .agentStop (sHt [0] [] { c := 812 }) (fun t => (t.ctx? 0).map (fun x => x.halt.map (·.stops)) == some (some [(0, 812)])) = true ∧
    after .agentStop (sHt [0] [] { c := 0 }) (fun _ => true) = false := by decide +kernel

/-! Pages -/

/-- CRC-64/XZ of the nine digits, the check value of the algorithm. -/
theorem test_crc : crc64 ([49, 50, 51, 52, 53, 54, 55, 56, 57] : List Byte) = 0x995DC9BBDF1939FA := by decide +kernel
def migT (piece : Nat) (retried : Bool) : Migration := ⟨7, 0, 0, 0x40000, 0xC0110, 2 ^ 17, 0, 0x200000, piece, retried, retried⟩
/-- The page's 4 KiB pieces are zero; the tag of each piece is given. -/
def sMg (tag : Nat) (m : Migration) (ev : EvArgs) : State :=
  withEv { sPg with migs := [m], hostMem := writeBytes [] (2 ^ 17 + 8 * 31) (leBytes 8 tag) } ev
/-- A checksum has 64 bits. -/
theorem crc64_lt (bs : List Byte) : crc64 bs < 2 ^ 64 := by
  refine Nat.xor_lt_two_pow (List.foldlRecOn (motive := fun c => c < 2 ^ 64) _ _ (by decide) (fun c hc b _ => ?_)) (by decide)
  refine List.foldlRecOn (motive := fun c => c < 2 ^ 64) _ _ (Nat.xor_lt_two_pow hc (by omega)) (fun c hc _ _ => ?_)
  unfold crcBit
  split
  · exact Nat.xor_lt_two_pow (by omega) (by decide)
  · omega
theorem sMg_hostMem (tag : Nat) (m : Migration) (ev : EvArgs) :
    (sMg tag m ev).hostMem = writeBytes [] (2 ^ 17 + 8 * 31) (leBytes 8 tag) := rfl
/-- A piece whose checksum matches its tag. -/
theorem witness_matching_piece : ∃ tag,
    crc64 (readBytes (sMg tag (migT 31 false) {}).hostMem (4096 * 31) 4096) =
      readLe (sMg tag (migT 31 false) {}).hostMem (2 ^ 17 + 8 * 31) 8 := by
  refine ⟨crc64 (List.replicate 4096 0), ?_⟩
  rw [sMg_hostMem, readBytes_writeBytes_of_disjoint _ _ _ _ rfl (Or.inl (by decide)), readBytes_nil, readLe_writeBytes_self _ _ _ rfl,
    Nat.mod_eq_of_lt (Nat.lt_of_lt_of_eq (crc64_lt _) (by decide))]
theorem witness_PageEvents :
    (sMg 1 (migT 31 false) { a := 7 }).migs.find? (·.id == 7) = some (migT 31 false) ∧ 31 * 4096 < 2 ^ 17 ∧
    Memory.wf sPg.mem = true ∧ sPg.writes = [] ∧ sPg.part? 0 = some ⟨0, [0], 50, 1⟩ ∧ (sPg.ctx? 0).isSome = true ∧
    (homeOf ⟨0, [0], 50, 1⟩ ((migT 31 false).leaf (sPg.migLeaf (migT 31 false))) (2 ^ 17) (0x40000 + 4096 * 31)) = (0x21F000, none) ∧
    2 ^ 17 ≤ 32 * 4096 ∧ (migT 31 true).retried = true := by decide +kernel
def shootT (swept kids : List Nat) (root : Nat) (done : Bool) : Shootdown := ⟨7, root, 0, 0, 1, 2, true, 0, swept, kids, 0, false, false, done, []⟩
def sSh (sd : Shootdown) (now : Nat) (ev : EvArgs) : State :=
  withEv { sT wT with shoots := [sd], time := [now, 0, 0, 0], tcache := [⟨2, 0, 0, 1, 0x10001F, 2 ^ 17, none⟩, ⟨2, 0, 0, 2, 0x10001F, 2 ^ 17, none⟩], writes := [flightT] } { ev with a := 7 }
theorem witness_shootdowns : (sSh (shootT [] [] 0 false) 0 {}).shoots.find? (·.id == 7) = some (shootT [] [] 0 false) ∧
    (sSh (shootT [] [] 0 false) 0 {}).part? 0 = some ⟨0, [0], 50, 1⟩ ∧ (shootT [] [5] 0 false).kids = [5] ∧
    (sSh (shootT [] [] 0 false) (us 50) {}).shootReady (shootT [] [] 0 false) = false ∧
    0 + us 50 ≤ (sSh (shootT [] [] 0 false) (us 50) {}).now ((sT wT).headDie 0) ∧ (sSh (shootT [0] [] 0 false) 0 {}).sweepOpen (shootT [0] [] 0 false) 0 = false ∧
    (sSh (shootT [0, 4] [] 0 false) 0 {}).shootReady (shootT [0, 4] [] 0 false) = true ∧ (sT wT).rank = 0 ∧
    ({ sT wT with parts := [⟨0, [0, 1], 50, 1⟩] } : State).sweepOpen (shootT [1] [] 0 false) 1 = false ∧ 4 + 1 ∉ (shootT [1] [] 0 false).swept ∧
    ([0, 1] : List Nat).head? ≠ some 1 ∧ (shootT [0] [5] 0 false).kids ≠ [] ∧ (shootT [0] [] 0 false).kids = [] ∧
    ({ sT wT with ranked := true, tports := [⟨true, false, false, 0, 0, none⟩] } : State).carries 0 = true := by decide +kernel
theorem test_page_events :
    after .migrationPiece (sMg 1 (migT 31 false) { a := 7, b := 1 }) (fun t => t.migs.map (fun m => (m.piece, m.retried)) == [(31, true)]) = true ∧
    after .migrationPiece (sMg 1 (migT 31 true) { a := 7, b := 1 }) (fun t => t.migs == [] && readLe t.mem 0xC0110 8 == 0x31B) = true ∧
    after .migrationComplete (sMg 1 (migT 32 false) { a := 7 }) (fun t => t.migs == [] && readLe t.mem 0xC0110 8 == 0x20001F) = true ∧
    after .shootdownInvalidateArrival (sSh (shootT [] [] 0 false) 0 {}) (fun t => t.tcache.map (·.vpn) == [2] && t.writes == [] &&
      t.shoots.map (·.swept) == [[0]]) = true ∧
    after .shootdownAck (sSh (shootT [0] [5] 0 false) 0 {}) (fun _ => true) = false ∧
    after .shootdownAck (sSh (shootT [0] [] 0 false) 0 {}) (fun t => t.shoots.map (·.swept) == [[0, 4]]) = true ∧
    after .shootdownAck { sSh (shootT [0] [5] 0 false) 0 { b := 1, c := 5 } with ranked := true, tports := [⟨true, false, false, 0, 0, none⟩] } (fun t => t.shoots.map (·.kids) == [[]]) = true ∧
    after .shootdownTimeout (sSh (shootT [] [] 0 false) (us 50) {}) (fun t => t.shoots.map (fun d => (d.halted, d.done)) == [(true, true)] &&
      (t.ctx? 0).map (fun x => x.halt.map (·.cause)) == some (some 37)) = true ∧
    after .shootdownTimeout (sSh (shootT [] [5] 0 false) (us 50) {}) (fun t => t.fencedRanks == [5]) = true ∧
    after .shootdownComplete (sSh (shootT [0, 4] [] 0 false) 0 {}) (fun t => t.shoots.map (·.done) == [true]) = true := by decide +kernel

/-! Messages -/

def pktT (id : Nat) (stamp : Nat) (data : List Byte) : TagPkt :=
  { id := id, ctx := 0, send := 1, src := 0, dst := 0, stamp := stamp, tag := 7, data := data, sentAt := [0, 0, 0, 0], mc := false }
def sPk (now : Nat) (m : MsgState) (p : TagPkt) : State :=
  withEv { sT wT with pkts := [p], msgs := [m], time := [now, now, now, now], sends := [entT], replies := [⟨4, 1, true, 0, 0⟩], genUpds := [⟨5, 0, 0, 0, 3⟩] } { a := 9 }
def fullMsg : MsgState := { msgT with ovf := List.replicate 32 ⟨0, 9, []⟩ }
def waitMsg : MsgState := { msgT with opened := false, opening := true, closed := [(1, 0)] }
theorem witness_MessageEvents :
    (sPk 503999 msgT (pktT 9 1 [])).pkts.find? (·.id == 9) = some (pktT 9 1 []) ∧ (sPk 503999 msgT (pktT 9 1 [])).expired (pktT 9 1 []) = false ∧
    (sPk 504000 msgT (pktT 9 1 [])).expired (pktT 9 1 []) = true ∧
    ((sPk 0 msgT (pktT 9 1 [])).pkts.find? (fun q => q.src == 0 && q.dst == 0)).map (·.id) = some 9 ∧
    (sPk 0 msgT (pktT 9 1 [])).over 4 9 ((sPk 0 msgT (pktT 9 1 [])).dieOfCluster 0) ((sPk 0 msgT (pktT 9 1 [])).dieOfCluster 0) = true ∧
    (sT wT).over 5 4 ((sT wT).dieOfCluster 0) ((sT wT).dieOf 0) = true ∧ (sT wT).over 6 5 ((sT wT).dieOfCluster 0) 0 = true ∧
    ((sPk 0 msgT (pktT 9 1 [])).replies.find? (fun q => q.src == 0 && q.core == 0)).map (·.id) = some 4 ∧
    ({ recvT 3 none with wg := 99 } : Recv).accepts 7 0 = true ∧ (sT wT).wg? 99 = none ∧
    ((sPk 0 msgT (pktT 9 1 [])).genUpds.find? (fun q => q.die == 0 && q.cluster == 0)).map (·.id) = some 5 ∧
    (sPk 0 msgT (pktT 9 1 [])).msg? 0 0 = some msgT ∧
    msgT.opened = true ∧ msgT.gen = (pktT 9 1 []).stamp ∧ msgT.gen ≠ (pktT 9 2 []).stamp ∧
    ({ msgT with recvs := [recvT 3 none] } : MsgState).recvs.find? (fun r => r.done.isNone && r.accepts 7 0) = some (recvT 3 none) ∧
    (sT wT).wg? 2 = some loadedWg ∧ msgT.recvs.find? (fun r => r.done.isNone && r.accepts 7 0) = none ∧ msgT.ovf.length < 32 ∧
    32 ≤ fullMsg.ovf.length ∧ ((sPk 0 fullMsg (pktT 9 1 [])).ctx? 0).any (fun x => x.halt.isNone) = true ∧
    (withEv (sPk 0 msgT (pktT 9 1 [])) { a := 4 }).replies.find? (·.id == 4) = some ⟨4, 1, true, 0, 0⟩ ∧
    (withEv (sPk 0 msgT (pktT 9 1 [])) { a := 5 }).genUpds.find? (·.id == 5) = some ⟨5, 0, 0, 0, 3⟩ ∧
    Tbl.wf 0 (sPk 0 msgT (pktT 9 1 [])).genTab = true ∧ (sPk 504000 waitMsg (pktT 9 1 [])).msg? 0 0 = some waitMsg ∧ waitMsg.opening = true ∧
    (sPk 504000 waitMsg (pktT 9 1 [])).reuseOver waitMsg = true ∧ (sPk 503999 waitMsg (pktT 9 1 [])).reuseOver waitMsg = false ∧
    (sT wT).part? (0 / 8) = some ⟨0, [0], 50, 1⟩ := by decide +kernel
theorem test_message_events :
    after .tagmsgArrival (sPk 0 { msgT with recvs := [recvT 3 none] } (pktT 9 1 [1, 2, 3, 4])) (fun t => t.scrBytes 0 65280 4 == [1, 2, 3, 4] &&
      t.msgs.map (fun m => m.recvs.map (·.done)) == [[some (4, 7, 0)]] && t.replies.map (·.stale) == [true, false] && t.pkts == []) = true ∧
    after .tagmsgArrival (sPk 0 { msgT with recvs := [{ recvT 3 none with wg := 99 }] } (pktT 9 1 [1, 2, 3, 4])) (fun t =>
      t.msgs.map (fun m => m.recvs.map (·.late)) == [[[1, 2, 3, 4]]]) = true ∧
    after .tagmsgArrival (sPk 0 msgT (pktT 9 2 [])) (fun t => t.msgs.map (·.stale) == [1] && t.replies.map (·.stale) == [true, true]) = true ∧
    after .tagmsgArrival (sPk 0 fullMsg (pktT 9 1 [])) (fun t => (t.ctx? 0).map (fun x => x.halt.map (·.cause)) == some (some 34)) = true ∧
    after .tagmsgLifetimeDrop (sPk 503999 msgT (pktT 9 1 [])) (fun _ => true) = false ∧
    after .tagmsgLifetimeDrop (sPk 504000 msgT (pktT 9 1 [])) (fun t => t.replies.map (·.stale) == [true, true]) = true ∧
    after .sendReplyArrival (withEv (sPk 0 msgT (pktT 9 1 [])) { a := 4 }) (fun t => t.sends.map (fun x => (x.left, x.stale)) == [(0, true)]) = true ∧
    after .generationUpdate (withEv (sPk 0 msgT (pktT 9 1 [])) { a := 5 }) (fun t => t.genOf 0 0 0 == 3 && t.genUpds == []) = true ∧
    after .generationReuseDelayExpiry (withEv (sPk 504000 waitMsg (pktT 9 1 [])) {}) (fun t => t.msgs.map (fun m => (m.opened, m.opening)) == [(true, false)]) =
      true := by decide +kernel

/-! Collectives -/

/-- Two members, this package the member 0 of ranks 0 and 1; two chunks of two F32 elements at 0x28100; the program's header is at 0x28000. -/
def collT (f : Coll → Coll) : Coll := f {
  id := 7, part := 0, ctx := 0, ticket := 1, prog := 0x28000, base := 0x28100, ext0 := 4, nch := 2, fmt := .f32, res := 0, flagA := 0,
  gbase := 0, g := 2, ord := 1, ranges := loadedLaunch.leases, pc := 0x20000, seq := 0, wg := 0, running := true, step := 0, loops := [],
  k := [0, 0, 0, 0], sent := 0, phase := 0, began := 2, parked := false, ending := none, grants := [], ahead := [], sends := [], recvs := [],
  staged := [], tokens := 0, emptyWait := false, lost := [], winches := [0] }
def nmT : CollName := ⟨0, 0, 2, 1⟩
/-- What names that collective in an arrival: the group word and the number. -/
def nmEv : Nat × Nat := (8192, 1)
def sCo (f : Coll → Coll) (w : Nat) (ev : EvArgs) : State :=
  withEv { sRk wT with
    colls := [collT f], ranked := true, routes := [(0, 1), (1, 1)], tports := List.replicate 24 ⟨true, false, false, 0, 0, none⟩, ctxs := [{ loadedCtx with colled := [(8192, 1)] }]
    mem := writeBytes (writeBytes loadedTables 0x108020 (leBytes 8 w)) 0x108100 ([1, 2, 0x3F800000, 0x40000000].flatMap (leBytes 4)) } ev
/-- A step word: OP in the top bits. -/
def stepT (op : Nat) (low : Nat := 0) : Nat := op * 2 ^ 60 + low
def same (c : Coll) : Coll := c
def staged2 (c : Coll) : Coll := { c with staged := [⟨1, 0, 0, 2, Fmt.f32.code, 0, 0, 0, [7, 8].flatMap (leBytes 4)⟩] }
def readable (w : Nat) : Bool :=
  match (sCo same w { a := 7 }).collCtx (collT same) with
  | some x => ((sCo same w { a := 7 }).winchRead x 0 ((collT same).stepVa 0) 8).toOption.any (fun p => leNat p.2 == w)
  | none => false
/-- A launch that feeds, and a collective whose winch stands in a WAIT on FLAG with nothing to send. -/
def sFeed : State :=
  withEv { State.reset.loaded with launches := [feedT], colls := [collT (fun c => { c with emptyWait := true })] } { c := 1 }
theorem test_feeds_raise : sFeed.feeding 0 0 = true ∧ Tbl.get false feedT.raised 0 = false ∧
    after .feedsRaise sFeed (fun t => t.launches.map (·.raised) == [[(0, true)]] && (t.warp? 0 0).map (·.feeding) == some true) = true := by
  decide +kernel
/-- A piece of member 1 that arrives through port 0, the grant for it given. -/
def pieceEv : EvArgs := { b := 1, pairs := [nmEv, (3, 0), (0, 0)], data := [5] }
theorem witness_CollectiveEvents :
    (sCo (fun c => { c with running := false }) 0 {}).colls.find? (fun c => c.part == 0 && !c.running && !(sRk wT).saving c.ctx
      && !((sRk wT).ctx? c.ctx).any (fun x => x.saved || x.halt.isSome)) = some (collT (fun c => { c with running := false })) ∧
    ((sCo same 0 {}).colls.filter (fun c => c.part == 0 && c.running)).length < 4 ∧ ((sCo same 0 {}).collCtx (collT same)).isSome = true ∧
    (match (sCo same 0 {}).collCtx (collT same) with
      | some x => ((sCo same 0 {}).winchWrite x 0 0x28000 (List.replicate 32 0)).toOption.isSome
      | none => false) = true ∧
    ((sCo same 0 pieceEv).ctx? 0).isSome = true ∧ arrivalName pieceEv = nmT ∧ (sCo same 0 pieceEv).colls.find? (·.name == nmT) = some (collT same) ∧
    1 < nmT.g ∧ (sCo same 0 pieceEv).tports[0]? = some ⟨true, false, false, 0, 0, none⟩ ∧ (sCo same 0 {}).headDie 0 = 0 ∧
    (sCo same 0 {}).haltedOn 0 0 = false ∧ (collT same).running = true ∧ (1 : Nat) ≠ (collT same).rank (sRk wT) ∧
    ((collT same).staged.filter (·.peer == 1)).length < Tbl.get 0 (collT (fun c => { c with ahead := [(1, 1)] })).ahead 1 ∧
    (sCo same 0 {}).winchFor (collT same) 0 = true ∧ (sCo same 0 {}).carries 0 = true ∧ (sCo same 0 {}).collRefuses nmT = false ∧
    ({ sCo same 0 {} with colls := [], ctxs := [], collBad := [nmT] } : State).collRefuses nmT = true ∧
    (sCo same 0 { pairs := [(8192, 2)] }).colls.find? (·.name == ⟨0, 0, 2, 2⟩) = none ∧ (sCo same 0 {}).collCount 0 0 2 = 1 ∧
    ({ sCo same 0 {} with colls := [] } : State).colls.find? (·.name == nmT) = none ∧
    (sRk wT).winches.find? (·.port == 5) = some ⟨5, false, none, 0⟩ ∧ Winch.active ⟨5, false, none, 0⟩ = true ∧ 5 ∉ (collT same).winches := by
  decide +kernel
theorem witness_collectiveSteps :
    (sCo same 0 { a := 7 }).colls.find? (·.id == 7) = some (collT same) ∧ (sCo same 0 {}).haltedOn 0 0 = false ∧ (sCo same 0 {}).held (collT same) = false ∧
    (collT same).ending = none ∧ readable (stepT 10) = true ∧ stepBad (stepT 10) = false ∧ stepBad (stepT 10 1) = true ∧
    [1, 2, 3, 4, 6, 7, 9].all (fun o => !stepBad (stepT o)) = true ∧ stepBad (stepT 5 3) = false ∧ stepBad (stepT 8 3) = false ∧ stepBad (stepT 7 6) = true ∧
    (collT same).gone (sCo same 0 {}) ⟨0, [0], 50, 1⟩ 1 = false ∧ (collT (fun c => { c with lost := [1] })).gone (sCo same 0 {}) ⟨0, [0], 50, 1⟩ 1 = true ∧
    stepBad 0 = true ∧ (StepW.of 0).op = 0 ∧ (StepW.of (stepT 8 3)).low = 3 ∧ (StepW.of (stepT 6 (2 ^ 45))).poff = 1 ∧
    (StepW.of (stepT 5 (2 ^ 57))).src = true := by decide +kernel
theorem test_collective_events :
    after .collectiveStart (sCo (fun c => { c with running := false }) (stepT 2 (2 ^ 45)) {}) (fun t => t.tilicOut == [(0, .grant 1 nmT 1)] &&
      t.colls.map (fun c => (c.running, c.winches)) == [(true, [0])]) = true ∧
    after .stepSend (sCo (fun c => { c with grants := [(1, 16)] }) (stepT 1 (2 ^ 45)) { a := 7 }) (fun t => t.tilicOut ==
      [(0, .piece 1 nmT ⟨0, 0, 0, 2, Fmt.f32.code, 0, 0, 0, [1, 2].flatMap (leBytes 4)⟩)] && t.colls.map (fun c => (c.step, Tbl.get 0 c.grants 1)) == [(1, 15)]) = true ∧
    after .stepRecv (sCo staged2 (stepT 2 (2 ^ 45 + 2 ^ 19)) { a := 7 }) (fun t => t.dieBytes 0 0x108108 8 == [7, 8].flatMap (leBytes 4) &&
      t.tilicOut == [] && t.colls.map (fun c => (c.step, c.staged.length)) == [(1, 0)]) = true ∧
    after .stepRrs (sCo staged2 (stepT 3 (2 ^ 45)) { a := 7 }) (fun t => t.colls.map (fun c => (c.step, c.phase)) == [(0, 1)]) = true ∧
    after .stepCopy (sCo same (stepT 4 (2 ^ 45)) { a := 7 }) (fun t => t.dieBytes 0 0x108108 8 == [1, 2].flatMap (leBytes 4)) = true ∧
    after .stepWait (sCo (fun c => { c with tokens := 3 }) (stepT 5 3) { a := 7 }) (fun t => t.colls.map (·.step) == [1]) = true ∧
    after .stepWait (sCo (fun c => { c with tokens := 2 }) (stepT 5 3) { a := 7 }) (fun _ => true) = false ∧
    after .stepSignal (sCo same (stepT 6 (2 ^ 45)) { a := 7 }) (fun t => t.tilicOut == [(0, .token 1 nmT)]) = true ∧
    after .stepQsend (sCo same (stepT 7) { a := 7 }) (fun t => t.colls == [] && t.dieBytes 0 0x108000 8 == leBytes 8 (2 + 2 ^ 32)) = true ∧
    after .stepLoop (sCo same (stepT 8 3) { a := 7 }) (fun t => t.colls.map (·.loops) == [[(0, 0, 3)]]) = true ∧
    after .stepEndl (sCo (fun c => { c with loops := [(0, 4, 3)] }) (stepT 9) { a := 7 }) (fun t => t.colls.map (fun c => (c.step, c.k, c.loops)) ==
      [(5, [1, 0, 0, 0], [(0, 4, 2)])]) = true ∧
    after .stepEnd (sCo same (stepT 10) { a := 7 }) (fun t => t.doneTickets == [(0, 1)] && t.dieBytes 0 0x108000 8 == leBytes 8 (1 + 2 ^ 32)) = true := by
  decide +kernel
theorem test_collective_arrivals :
    after .collGrantArrival (sCo same 0 { b := 1, c := 16, pairs := [nmEv] }) (fun t => t.colls.map (fun c => Tbl.get 0 c.grants 1) == [16]) = true ∧
    after .collPieceArrival (sCo (fun c => { c with ahead := [(1, 1)] }) 0 pieceEv) (fun t =>
      t.colls.map (fun c => c.staged.map (fun p => (p.nth, p.data))) == [[(3, [5])]]) = true ∧
    after .collPieceArrival (sCo same 0 pieceEv) (fun _ => true) = false ∧
    after .signalTokenArrival (sCo same 0 { pairs := [nmEv] }) (fun t => t.colls.map (·.tokens) == [1]) = true ∧
    after .signalTokenArrival (sCo same 0 { pairs := [(8192, 2)] }) (fun t => t.collEarly.map (·.tokens) == [1] && t.colls == [collT same]) = true ∧
    after .peerLost (sCo same 0 { b := 1, pairs := [nmEv] }) (fun t => t.colls.map (·.lost) == [[1]]) = true ∧
    after .winchFailure (sCo same 0 { a := 0 }) (fun t => t.colls == [] && t.spares == 1 && t.dieBytes 0 0x108000 8 == leBytes 8 (5 + 2 ^ 32)) = true := by
  decide +kernel

/-! Host ports -/

def upPort : Port := ⟨true, 16, 128, none, 0, 0, 0, [], [], [], 0⟩
/-- Both ports linked; H0 holds semaphore 0 and has written the arguments. -/
def sHp (args : List Nat) (ev : EvArgs) : State :=
  withEv { State.reset.loaded with
    ports := [upPort, upPort], sems := [(0, 1)], args := (args.zipIdx.map (fun p => (p.2, BitVec.ofNat 64 p.1))).filter (·.2 != 0) } ev
def sdT (ended : Bool) : Shootdown := ⟨7, 0, 0, 0, 1, 2, true, 0, [0, 4], [], 0, true, false, ended, []⟩
def ran12 : CmdRun := ⟨0, 12, 0, 0, 0, some 7⟩
theorem witness_HostPorts :
    (sHp [] { b := 63 }).linked 0 = true ∧ (63 : Nat) < 64 ∧ (sHp [] {}).holder 63 = 0 ∧ (sHp [] {}).holder 0 = 0 + 1 ∧ (sHp [] {}).holder 0 ≠ 1 + 1 ∧
    (sHp [] {}).mayConfigure 0 = true ∧ (sHp [] {}).mayConfigure 1 = false ∧ (sHp [] {}).cmd = none ∧ (sHp [] {}).stt = 1 ∧
    ({ sHp [] {} with stt := 0 } : State).stt ≠ 1 ∧ 17 < 18 ∧
    (sHp [2] {}).argOf 0 = 2 ∧ (∀ d ∈ (List.range 4).filter (bit 2), d < (sHp [2] {}).coreMap.length) ∧
    (∀ p ∈ (sHp [2] {}).parts, ∀ d ∈ p.dies, d ∉ (List.range 4).filter (bit 2)) ∧ (sHp [2] {}).part? 1 = none ∧ (sHp [2] {}).part? 0 ≠ none ∧
    (∀ x ∈ ({ sHp [0] {} with ctxs := [] } : State).ctxs, x.key / 8 ≠ 0) ∧ (sHp [0] {}).ctx? 1 = none ∧ (sHp [0] {}).ctx? 0 = some loadedCtx ∧
    settingBad 129 3 = false ∧ settingBad 133 0 = false ∧ (sHp [0, 0x40000] {}).argOf 1 % 2 ^ 18 = 0 ∧
    (Lease.ofEntry (1 + 2 ^ 40)).size ≠ 0 ∧ (Lease.ofEntry (1 + 2 ^ 40)).base + (Lease.ofEntry (1 + 2 ^ 40)).size ≤ 2 ^ 40 ∧
    (sHp [0, 0, 2 ^ 17] {}).argOf 2 % 2 ^ 17 = 0 ∧ (sHp [0, 0, 8192] {}).argOf 2 ≤ 8192 ∧ loadedCtx.saved = false ∧
    (sHp [16384] {}).otsRem ≠ 0 ∧ (sHp [16384] {}).argOf 0 = 16384 ∧ (sHp [8191, 8192] {}).argOf 0 < 8192 ∧
    ({ sHp [1, 1, 2 ^ 32 - 1] {} with domain := 2 } : State).domain = 2 ∧
    (∀ d ∈ List.range 4, fld (2 ^ 32 - 1) (8 * d) 8 = 0xFF) ∧
    ({ sHp [] {} with cmd := some ran12, shoots := [sdT true] } : State).shoots.find? (·.id == 7) = some (sdT true) ∧ (sdT true).done = true := by decide +kernel
/-- The context is saved, idle: its area at 0x30000 holds a header of version 1 and no record. -/
def savedCtx : Ctx := { loadedCtx with save := 0x30000, saved := true, standing := [(0, ⟨1, 1, true, false⟩)] }
def sCr (args : List Nat) : State :=
  { sHp args {} with ctxs := [savedCtx], mem := writeBytes loadedTables 0x110000 ([1, savedCtx.num, 1, 1].flatMap (leBytes 4)) }
theorem witness_restore : (sCr [0]).ctx? 0 = some savedCtx ∧ (sCr [0]).part? 0 = some ⟨0, [0], 50, 1⟩ ∧
    ((match ({ sCr [0] with cstSer := 1 } : State).restoreCtx savedCtx ⟨0, [0], 50, 1⟩ false with
      | .ok t => t.ctxs.map (·.saved) == [false]
      | .error _ => false) = true) ∧
    (sHp [0] { b := 1 }).ev.b = 1 ∧ loadedCtx.saved = false ∧ (sHp [0, 0, 0] {}).argOf 2 = 0 ∧ (sHp [1, 0] {}).argOf 0 < (sHp [1, 0] {}).ports.length := by
  decide +kernel
def ranOk (i : Instr) (args : List Nat) (p : State → Bool) : Bool :=
  after i (sHp args {}) (fun t => p t && t.cmd.any (fun c => c.err == 0))
theorem test_host_ports :
    after .semaphoreRead (sHp [] { a := 1, b := 63 }) (fun t => t.holder 63 == 2 && Tbl.find? t.lastRead 1 == some 0) = true ∧
    after .semaphoreRead (sHp [] { a := 1 }) (fun t => t.holder 0 == 1 && Tbl.find? t.lastRead 1 == some 3) = true ∧
    after .semaphoreWrite (sHp [] {}) (fun t => t.sems == []) = true ∧ after .semaphoreWrite (sHp [] { a := 1 }) (fun t => t.semErr == 1) = true ∧
    after .cset { sHp [] {} with ev := { a := 1 } } (fun t => t.cfgErr == 1) = true ∧
    ranOk .pcreate [2] (fun t => t.parts.map (·.num) == [0, 1]) = true ∧ ranOk .ccreate [0, 1] (fun t => t.ctxs.map (fun x => (x.key, x.priv)) == [(0, true), (1, true)]) = true ∧
    ranOk .cend [0] (fun t => (t.ctx? 0).map (fun x => x.halt.map (·.cause)) == some (some 44)) = true ∧
    ranOk .croot [0, 0x80000] (fun t => (t.ctx? 0).map (·.root) == some 0x80000) = true ∧
    ranOk .cset [0, 129, 3] (fun t => (t.ctx? 0).map (·.mode) == some 3) = true ∧
    ranOk .wbind [1, 0] (fun t => t.ports.map (·.bound) == [none, some 0]) = true ∧ ranOk .sdtime [0, 65535] (fun t => t.parts.map (·.timeout) == [65535]) = true ∧
    ranOk .cspan [0, 0, 2] (fun t => (t.ctx? 0).map (·.span) == some [0, 0]) = true ∧ ranOk .cpool [0, 0, 2 ^ 17, 4] (fun t => (t.ctx? 0).map (·.pools) == some [(0, ⟨2 ^ 17, 4, []⟩)]) = true ∧
    ranOk .cstand [0, 15, 1 + 2 ^ 40] (fun t => (t.ctx? 0).map (fun x => x.standing.map (·.1)) == some [15]) = true ∧
    ranOk .shoot [0, 2 ^ 17, 2 ^ 17] (fun t => t.shoots.length == 1) = true ∧ ranOk .csave [0] (fun t => t.saving 0) = true ∧
    after .crest (sCr [0]) (fun t => t.ctxs.map (·.saved) == [false] && t.cmd.any (fun c => c.err == 0)) = true ∧
    after .crest (sHp [0] {}) (fun t => t.cmd.any (fun c => c.err == 2)) = true ∧
    after .cspan (sHp [0] { b := 1 }) (fun t => t.cmd.any (fun c => c.err == 2)) = true ∧
    after .rank { sHp [3, 4] {} with ctxs := [] } (fun t => (t.rank, t.domain, t.ranked) == (3, 4, true)) = true ∧
    after .linkmap { sHp [1, 1, 2 ^ 32 - 256] {} with domain := 2, tports := [⟨true, false, false, 0, 0, none⟩] } (fun t => t.hasRoute 0 1 && !t.hasRoute 1 1) = true ∧
    after .attest (sHp [16384] {}) (fun t => t.otsRem == 32767) = true ∧ after .pdestroy { sHp [0] {} with ctxs := [] } (fun t => t.parts == []) = true ∧
    after .unknownCommand (sHp [] { b := 18 }) (fun t => t.cmd.map (·.err) == some 1) = true ∧
    after .commandCompletion { sHp [] {} with cmd := some ran12, shoots := [sdT true] } (fun t => t.cmd == none && t.cstRes == 1) = true ∧
    after .commandCompletion { sHp [] {} with cmd := some ran12, shoots := [sdT false] } (fun _ => true) = false := by decide +kernel

/-! Start-up, links and the fleet -/

def tportT : TPort := ⟨true, false, false, 3, 0, none⟩
/-- The output of die 2 towards the bridge of bit 0: channel 2 has been due longest, with `left` flits of a packet of two left. -/
def routT (left : Nat) : ROut :=
  ⟨2, 0, [[], [⟨3, 2, 2, none⟩], [⟨3, 2, left, some (2, 5)⟩], [], [], [⟨3, 1, 1, none⟩]], [1, 1, 1, 1, 1, 0], [0, 8, 9, 0, 0, 0], [0, 0, 0, 0, 0, 0]⟩
def sRo (left : Nat) : State := { sHp [] { a := 2 } with routers := [routT left] }
/-- A device in its start, after `n` steps. -/
def sSt (n : Nat) (ev : EvArgs) : State := withEv { State.reset with step := n } ev
/-- Both images of the first start step, of the types of their slots. -/
def firm1 : EvArgs := { pairs := [(0, 0), (1, 0)] }
/-- The output of die 0 towards die 1, empty, and a read of a line of that die. -/
def sLv : State := { sR [farT] [] with
  routers := [⟨0, 0, List.replicate 6 [], List.replicate 6 0, List.replicate 6 0, List.replicate 6 0⟩], ev := { pairs := [(0, 7)] } }
theorem witness_PortEvents :
    (sHp [] {}).linked 0 = true ∧ State.reset.stt = 0 ∧ State.reset.step + 1 = 1 ∧ (sSt 8 {}).stt = 0 ∧ (sSt 6 {}).step + 1 ∈ [1, 7] ∧
    (sSt 0 firm1).accepted 1 firm1 = true ∧ (sSt 0 { firm1 with d := 1 }).accepted 1 { firm1 with d := 1 } = false ∧
    (sSt 6 { pairs := [(2, 0)] }).accepted 7 { pairs := [(2, 0)] } = true ∧ (sSt 6 { pairs := [(1, 0)] }).accepted 7 { pairs := [(1, 0)] } = false ∧
    (sSt 4 {}).ev.e ≠ 1 ∧ (sSt 0 {}).accepted 1 {} = false ∧ (sSt 2 { a := 1 }).ev.a = 1 ∧ (sSt 1 { b := 1 }).ev.b ≤ 1 ∧
    (sHp [] { c := 0x130, data := leBytes 8 (2 ^ 64 - 1) }).ev.c = 0x108 + 8 * 5 ∧ Tbl.wf 0 (sHp [] {}).args = true ∧
    (sRo 1).routers.find? (fun r => r.die == 2 && r.bit == 0) = some (routT 1) ∧ (routT 1).choose = some 2 ∧
    ((routT 1).queues.getD 2 []).head? = some ⟨3, 2, 1, some (2, 5)⟩ ∧ ((routT 2).queues.getD 2 []).head? = some ⟨3, 2, 2, some (2, 5)⟩ ∧
    Nat.xor 2 (2 ^ 0) = 3 ∧ sLv.pathOf 0 7 = some ⟨0, 1, 0, 1⟩ ∧ bridgeBit 0 1 = some 0 ∧ sLv.underWay (0, 7) = false ∧
    ({ sHp [] { b := 1 } with tports := [tportT, tportT] } : State).tports[0]? = some tportT ∧
    ({ sHp [] { b := 1 } with tports := [tportT, tportT] } : State).tports[1]? = some tportT ∧ tportT.up = true ∧ tportT.quarantined = false ∧ tportT.unacked ≠ 0 ∧
    tportT.spareLaneUsed = false ∧ (sHp [] {}).ports[0]? = some upPort ∧ 8 < upPort.lanes := by decide +kernel
theorem test_port_events :
    after .powerOnStart (sSt 0 firm1) (fun t => t.step == 1 && t.startRec.headD ⟨false, 9, 9⟩ == ⟨true, 0, 0⟩) = true ∧
    after .powerOnStart (sSt 0 { firm1 with d := 1 }) (fun t => t.step == 0 && t.startRec.headD ⟨true, 9, 9⟩ == ⟨false, 1, 1⟩) = true ∧
    after .powerOnStart { sSt 4 { pairs := [(1, 8), (1, 9)] } with marked := [0] } (fun t => t.failedCores == [0, 88, 89] && t.marked == [] &&
      t.coreMap.map (·.length) == [10, 9, 10, 10]) = true ∧
    after .powerOnStart { sSt 9 { e := 1 } with stt := 1, failedCores := [88] } (fun t => (t.step, t.stt, t.failedCores) == (0, 0, [88])) = true ∧
    after .powerOnStart (sSt 1 {}) (fun t => t.ports.all (·.linked)) = true ∧
    after .powerOnStart { sSt 3 {} with badBanks := [5], rowSpares := [(5, 16)] } (fun t => (t.step, t.badBanks, t.rowSpares, t.bankSpares) == (4, [], [], [0])) = true ∧
    after .powerOnStart (sSt 8 {}) (fun t => (t.step, t.stt) == (9, 1)) = true ∧
    after .powerOnStart (sSt 2 { a := 1 }) (fun t => t.stt == 2) = true ∧
    after .portReset { sHp [] {} with ports := [{ upPort with wptr := 5, bound := some 0 }, upPort] } (fun t => t.sems == [] &&
      t.ports.map (fun q => (q.rptr, q.bound)) == [(5, none), (0, none)]) = true ∧
    after .registerWrite (sHp [] { c := 0x130, data := leBytes 8 (2 ^ 64 - 1) }) (fun t => t.argOf 5 == 2 ^ 64 - 1) = true ∧
    after .routerOutputArbitration (sRo 2) (fun t => t.routers.map (fun r => (r.queues.getD 2 [], r.waits, r.credits)) ==
      [([⟨3, 2, 1, some (2, 5)⟩], [0, 9, 0, 0, 0, 0], [1, 1, 0, 1, 1, 0])]) = true ∧
    after .routerOutputArbitration (sRo 1) (fun t => t.routers.map (fun r => r.queues.getD 2 [⟨9, 9, 9, none⟩]) == [[]] && t.crossed == [(2, 5)]) = true ∧
    after .routerOutputArbitration sLv (fun t => t.routers.map (fun r => r.queues.getD 0 []) == [[⟨1, 1, 1, some (0, 7)⟩]]) = true ∧
    after .routerOutputArbitration { sLv with ev := { pairs := [(0, 7)], data := List.replicate 6 1 } } (fun t => t.crossed == [(0, 7)]) = true := by decide +kernel
theorem test_tilic_events :
    after .tilicPortFailure { sHp [] { b := 1 } with tports := [tportT, tportT], routes := [(1, 1)] } (fun t => t.tports.map (·.unacked) == [0, 6] && t.routes == [(1, 2)]) = true ∧
    after .tilicLaneSpare { sHp [] {} with tports := [tportT] } (fun t => t.counter 0 4 == 1) = true ∧
    after .tilicFlitResend { sHp [] {} with tports := [tportT] } (fun t => t.tports.map (·.resent) == [3]) = true ∧
    after .rankReportArrival { sHp [] {} with tports := [tportT], ranked := true } (fun t => t.tports.map (·.quarantined) == [true]) = true ∧
    after .hostLinkRetrain (sHp [] { b := 8 }) (fun t => t.ports.map (·.lanes) == [8, 16]) = true := by decide +kernel
def sFl (ev : EvArgs) : State := withEv { sHp [] {} with thr := [0, 0, 1, 0, 0, 0, 0, 0], cnt := [(2, 5)], envAct := [2, 2, 2, 1] } ev
/-- Row 9 of bank 0 of slice 3, which is being copied. -/
def rowT : RowCopy := ⟨3, 0, 9, 0x1234⟩
theorem witness_FleetEvents :
    (sFl {}).fleetPage 0 = true ∧ (sFl {}).mayConfigure 0 = true ∧ (sFl {}).mayConfigure 1 = false ∧ (0x315 : Nat) % 4 ≠ 3 ∧ 0x315 / 4 % 4 ≠ 3 ∧ 0x315 / 32 % 8 = 0 ∧
    0x315 / 1024 % 2 ^ 54 = 0 ∧ 0x415 / 1024 % 2 ^ 54 ≠ 0 ∧ (sFl {}).fleetPage 1 = true ∧
    (sFl {}).coreMap.length = 4 ∧ Tbl.wf 0 (sFl {}).cnt = true ∧ (sFl { a := 3 }).envAct[3]? = some 1 ∧ (sFl {}).envTarget = 2 ∧
    (sFl {}).counter 0 7 < 2 ^ 32 - 1 ∧ Tbl.get false (sFl {}).hot 0 = false ∧ (sFl {}).refr = false ∧
    Tbl.get false ({ sFl { b := 1 } with hot := [(0, true)] } : State).hot 0 = true ∧ 319 < 8 * (sFl {}).clusters ∧
    ([rowT].find? (fun r => r.slice == 3 && r.bank == 0 && r.row == 9)) = some rowT := by decide +kernel
theorem test_fleet_events :
    after .modeWrite (sFl { b := 0x315 }) (fun t => (t.env, t.retPol, t.refr, t.envTarget) == (1, 1, true, 1)) = true ∧
    after .modeWrite (sFl { b := 0x1 }) (fun t => t.modeRead == 0x202) = true ∧
    after .thresholdWrite (sFl { b := 7, c := 2 ^ 32 + 9 }) (fun t => t.thr.getD 7 0 == 9) = true ∧
    after .counterClear (sFl { c := 2, d := 4 }) (fun t => t.counter 0 2 == 1) = true ∧
    after .envelopeSwitch (sFl { a := 3 }) (fun t => t.envAct == [2, 2, 2, 2]) = true ∧
    after .junctionOvertemp (sFl {}) (fun t => t.envTarget == 1 && t.counter 0 7 == 1) = true ∧
    after .dramOvertemp (sFl {}) (fun t => t.refr && t.counter 0 7 == 1) = true ∧
    after .correctedError (sFl { b := 3 }) (fun t => t.counter 0 2 == 6 && t.marked == [3]) = true ∧
    after .rowSpareRemap { sFl { a := 3, b := 9 } with rowCopies := [rowT] } (fun t => t.remapped == [rowT] && t.counter 0 3 == 1) = true ∧
    after .telemetryRefresh (sFl { b := 300, c := 310, d := 7 }) (fun t => Tbl.find? t.tel 0 == some [300, 310, 7, 1200]) = true := by decide +kernel

/-! A step, the encodings and the canonical memories -/

/-- The loaded machine with a word in execution, or a fault held with it. -/
def sCu (w : DWord) (f : Option Stop) : State := { sT wT with cur := some ⟨0, 0, 0x20000, 15, w, 0, f⟩ }
/-- A machine whose first warp holds a CVLD of lane 0, ahead of the second warp of its convoy, its other lanes ready, and NOP in memory. -/
def wHd : Warp := { wCv with
  assoc := some ⟨0, 2, true, 0, 0⟩, waits := [(0, .cvld 0)], rob := [⟨0x20000, (encode (.cvld oLd)).getD 0, 1, true, none, 0, none⟩] }
def sHd : State :=
  { sCvRead wHd with warps := [(0, wHd), (1, wCv)], cur := none, mem := writeBytes loadedTables 0x100000 (leBytes 8 nopWord.toNat) }
theorem witness_StepRunsWord :
    (sCu nopWord none).cur = some ⟨0, 0, 0x20000, 15, nopWord, 0, none⟩ ∧
    (∃ i, decode nopWord = .ok i) ∧ (∃ r, decode 0 = .error r ∨ decode 0x71F0000000000000 = .error r) ∧
    (sCu 0x71F0000000000000 none).tick.executes { eT wT with c := ⟨0, 0, 0x20000, 15, 0x71F0000000000000, 0, none⟩ } ∧
    (sCu nopWord (some (.trap ⟨7, 15, 0, []⟩))).tick.executes { eT wT with c := ⟨0, 0, 0x20000, 15, nopWord, 0, some (.trap ⟨7, 15, 0, []⟩)⟩ } ∧
    ({ State.reset with agenda := [(.telemetryRefresh, {})] } : State).agenda = [(.telemetryRefresh, {})] ∧
    sP.cur = none ∧ sP.agenda = [] ∧ (sP.tick.autoEvent exec).isNone = true ∧
    (match sP.tick.selectNext with
      | some p =>
        let t : State := { sP.tick.count p with cur := some (sP.tick.picked p) }
        sP.tick.idle p && (match t.env? with
          | some e => decide (t.executes e) && (match e.fetch t with
            | .word _ w => w == nopWord
            | _ => false)
          | none => false)
      | none => false) = true ∧
    sHd.cur = none ∧ sHd.agenda = [] ∧ (sHd.tick.autoEvent exec).isNone = true ∧
    (match sHd.tick.selectNext with
      | some p => !sHd.tick.idle p && (sHd.tick.dispatch p).isSome
      | none => false) = true := by
  refine ⟨rfl, ⟨_, rfl⟩, ⟨⟨2, 55⟩, Or.inr rfl⟩, ?_⟩
  decide +kernel
theorem test_step :
    (match step sP with
      | .next t => t.cur.isNone && (t.warp? 0 0).map (fun w => w.pc 0) == some 0x20008 && t.clk == 1
      | _ => false) = true ∧
    (match step State.reset with
      | .next t => t.step == 1
      | _ => false) = true := by decide +kernel
theorem witness_EncodeDecode : Instr.wf (.bra ⟨g1, 8⟩) = true ∧ encode (.bra ⟨g1, 8⟩) = some braWord := by decide +kernel
theorem witness_DecodeEncode : decode braWord = .ok (.bra ⟨g1, 8⟩) := by decide +kernel
theorem witness_StepKeepsCanonical : sP.canonical ∧ (step sP matches .next _) = true := by decide +kernel

end Sys2Proof.Tests
end

section
/-!
Taking a warp trap and returning from it: what entering and leaving the handler do to a warp, what taking a trap does in each of its
cases, how TRAP, BKPT and RFE end, and the obligation on them.
-/

namespace Sys2Proof.Machine

/-! ## Writing many keys of a table -/

/-- Reads after one write per key of a list, each with a value that its key gives. -/
theorem Tbl.get_foldl_set {α : Type} [DecidableEq α] (d : α) (f : Nat → α) (ls : List Nat) {m : Tbl α} (hm : Tbl.wf d m = true)
    (j : Nat) : Tbl.get d (ls.foldl (fun t l => Tbl.set d t l (f l)) m) j = if j ∈ ls then f j else Tbl.get d m j := by
  induction ls generalizing m with
  | nil => simp
  | cons l t ih =>
    rw [List.foldl_cons, ih (Tbl.wf_set d l (f l) hm), Tbl.get_set d l j _ hm]
    by_cases hjt : j ∈ t <;> by_cases hjl : j = l <;> simp [hjt, hjl]

/-- Reads after one write per lane of a mask. -/
theorem Tbl.get_foldl_set_lanesOf {α : Type} [DecidableEq α] (d : α) (f : Nat → α) (g : LaneMask) {m : Tbl α}
    (hm : Tbl.wf d m = true) {l : Nat} (hl : l < 32) :
    Tbl.get d ((lanesOf g).foldl (fun t l => Tbl.set d t l (f l)) m) l = if g.getLsbD l then f l else Tbl.get d m l := by
  simp only [Tbl.get_foldl_set d f _ hm, mem_lanesOf, hl, true_and]

/-! ## Shedding changes only the association -/

theorem Warp.shed_eq (w : Warp) (cause : Nat) : ∃ a, w.shed cause = { w with assoc := a } := by
  unfold Warp.shed
  split
  · split
    · exact ⟨_, rfl⟩
    · exact ⟨w.assoc, rfl⟩
  · exact ⟨w.assoc, rfl⟩

@[simp] theorem Warp.shed_live (w : Warp) (cause : Nat) : (w.shed cause).live = w.live := by
  obtain ⟨a, ha⟩ := w.shed_eq cause; rw [ha]; rfl
@[simp] theorem Warp.shed_pcs (w : Warp) (cause : Nat) : (w.shed cause).pcs = w.pcs := by
  obtain ⟨a, ha⟩ := w.shed_eq cause; rw [ha]
@[simp] theorem Warp.shed_arrived (w : Warp) (cause : Nat) : (w.shed cause).arrived = w.arrived := by
  obtain ⟨a, ha⟩ := w.shed_eq cause; rw [ha]
@[simp] theorem Warp.shed_phases (w : Warp) (cause : Nat) : (w.shed cause).phases = w.phases := by
  obtain ⟨a, ha⟩ := w.shed_eq cause; rw [ha]
@[simp] theorem Warp.shed_vregs (w : Warp) (cause : Nat) : (w.shed cause).vregs = w.vregs := by
  obtain ⟨a, ha⟩ := w.shed_eq cause; rw [ha]
@[simp] theorem Warp.shed_sregs (w : Warp) (cause : Nat) : (w.shed cause).sregs = w.sregs := by
  obtain ⟨a, ha⟩ := w.shed_eq cause; rw [ha]
@[simp] theorem Warp.shed_preds (w : Warp) (cause : Nat) : (w.shed cause).preds = w.preds := by
  obtain ⟨a, ha⟩ := w.shed_eq cause; rw [ha]

/-! ## Entering and leaving the handler -/

section
variable {w : Warp} {hand pc : DWord} {mask : LaneMask} {t : Trap}

@[simp] theorem Warp.enterHandler_arrSaved : (w.enterHandler hand pc mask t).arrSaved = w.arrived := w.shed_arrived 2
@[simp] theorem Warp.enterHandler_phSaved : (w.enterHandler hand pc mask t).phSaved = w.phases := w.shed_phases 2
@[simp] theorem Warp.enterHandler_vregs : (w.enterHandler hand pc mask t).vregs = w.vregs := w.shed_vregs 2
@[simp] theorem Warp.enterHandler_sregs : (w.enterHandler hand pc mask t).sregs = w.sregs := w.shed_sregs 2
@[simp] theorem Warp.enterHandler_preds : (w.enterHandler hand pc mask t).preds = w.preds := w.shed_preds 2

/-- R40: the live threads stand at the handler, the others where they stood. -/
theorem Warp.enterHandler_pc (hw : Tbl.wf 0 w.pcs = true) {l : Nat} (hl : l < 32) :
    (w.enterHandler hand pc mask t).pc l = if w.live.getLsbD l then hand else w.pc l := by
  simpa [Warp.enterHandler, Warp.pc] using Tbl.get_foldl_set_lanesOf 0 (fun _ => hand) w.live hw hl

/-- R41: %trpcv holds each live thread's own next address. -/
theorem Warp.enterHandler_trpcv {l : Nat} (hl : l < 32) (hlive : w.live.getLsbD l = true) :
    Tbl.get 0 (w.enterHandler hand pc mask t).trpcv l = w.pc l := by
  have h := Tbl.get_foldl_set_lanesOf 0 w.pc w.live (Tbl.wf_nil 0) hl
  rw [if_pos hlive] at h
  simpa [Warp.enterHandler, savedPcs, Warp.pc] using h

end

/-- R44: each live thread goes to its %trpcv entry, the others stay where they stand. -/
theorem Warp.leaveHandler_pc {w : Warp} (hw : Tbl.wf 0 w.pcs = true) {l : Nat} (hl : l < 32) :
    w.leaveHandler.pc l = if w.live.getLsbD l then Tbl.get 0 w.trpcv l else w.pc l :=
  Tbl.get_foldl_set_lanesOf 0 (Tbl.get 0 w.trpcv) w.live hw hl

/-! ## Taking a warp trap, by the warp that the machine holds -/

section
variable {e : Env} {s : State} {w : Warp} (hw : s.warp? e.c.core e.c.slot = some w) (t : Trap)
include hw

/-- R45: a trap raised in the handler is the context fault 38. -/
theorem Env.takeTrap_of_inHandler (hin : w.inHandler = true) :
    e.takeTrap s t = e.halted s { cause := 38, lmask := t.fmask, tcause := t.cause, va := t.va } := by
  simp only [Env.takeTrap, hw, hin, if_true]

/-- R45: the machine after a trap raised in the handler. -/
theorem Env.trapped_of_inHandler (hin : w.inHandler = true) :
    e.trapped s t = { e.halted s { cause := 38, lmask := t.fmask, tcause := t.cause, va := t.va } with cur := none } :=
  congrArg (fun u : State => { u with cur := none }) (Env.takeTrap_of_inHandler hw t hin)

/-- R45: a trap of a context with no handler is the context fault 39. -/
theorem Env.takeTrap_of_hand_eq_zero (hin : w.inHandler = false) (hh : e.x.hand = 0) :
    e.takeTrap s t = e.halted s { cause := 39, lmask := t.fmask, tcause := t.cause, va := t.va } := by
  simp only [Env.takeTrap, hw, hin, hh, Bool.false_eq_true, if_false, if_true]

/-- R40: any other trap enters the handler. -/
theorem Env.takeTrap_of_hand_ne_zero (hin : w.inHandler = false) (hh : e.x.hand ≠ 0) :
    e.takeTrap s t = s.setWarp e.c.core e.c.slot (w.enterHandler e.x.hand e.c.pc e.c.mask t) := by
  simp only [Env.takeTrap, hw, hin, hh, Bool.false_eq_true, if_false]

end

@[simp] theorem Env.finish_trap (e : Env) (s : State) (t : Trap) : e.finish s (.trap t) = e.trapped s t := rfl

/-! ## TRAP, BKPT and RFE -/

section
variable {s : State} {e : Env} (h : s.executes e)
include h

/-- R203: a word that some lane performs, and that retires into a trap, takes it after the group has gone on. -/
theorem performOp_oncePerWarp_trapAfter {g : Guard} (f : Env → State → Trap) (hg : e.g g ≠ 0) :
    performOp (oncePerWarp g fun e s => .trapAfter (f e s)) s =
      .next (e.trapped (s.setWarp e.c.core e.c.slot (e.w.advance e.c.pc (lanesOf e.c.mask))) (f e s)) := by
  rw [performOp_of h]
  simp only [oncePerWarp, hg, if_false, Env.finish, Env.upd, State.modWarp_of (State.warp?_of_env? h), Env.trapped]

/-- R45, R203: such a word in the handler halts the context with the cause of its own trap in the stop record. -/
theorem performOp_oncePerWarp_trapAfter_of_inHandler {g : Guard} (f : Env → State → Trap) (hg : e.g g ≠ 0)
    (hin : e.w.inHandler = true) :
    performOp (oncePerWarp g fun e s => .trapAfter (f e s)) s =
      .next { e.halted (s.setWarp e.c.core e.c.slot (e.w.advance e.c.pc (lanesOf e.c.mask)))
        { cause := 38, lmask := (f e s).fmask, tcause := (f e s).cause, va := (f e s).va } with cur := none } := by
  rw [performOp_oncePerWarp_trapAfter h f hg]
  exact congrArg Host.Outcome.next (Env.trapped_of_inHandler (State.warp?_setWarp ..) _ hin)

/-- R204: RFE outside the handler is an illegal instruction. -/
theorem execRfe_of_not_inHandler (o : OpZ) (hin : e.w.inHandler = false) :
    execRfe o s = .next (e.trapped s ⟨1, e.c.mask, 0, []⟩) := by
  rw [execRfe, performOp_of h]
  simp [opRfe, hin, Env.ill, Stop.res]

/-- R45, R204: RFE that not every live thread performs is illegal convergence, raised in the handler. -/
theorem execRfe_of_live_elsewhere (o : OpZ) (hin : e.w.inHandler = true)
    (hlive : e.w.live &&& ~~~e.c.mask ≠ 0 ∨ e.w.live &&& ~~~e.g o.g ≠ 0) :
    execRfe o s = .next { e.halted s { cause := 38, lmask := e.c.mask, tcause := 3 } with cur := none } := by
  have htrap : ∃ info, opRfe o e s = .trap ⟨3, e.c.mask, info, []⟩ := by
    by_cases habs : e.w.live &&& ~~~e.c.mask = 0
    · have hoff := hlive.resolve_left (not_not_intro habs)
      refine ⟨(e.w.live &&& ~~~e.g o.g).toNat, ?_⟩
      simp only [opRfe, hin, habs, bne_iff_ne.mpr hoff, bne_self_eq_false, Bool.not_true, Bool.false_eq_true, if_false, if_true]
    · refine ⟨(e.w.live &&& ~~~e.c.mask).toNat, ?_⟩
      simp only [opRfe, hin, bne_iff_ne.mpr habs, Bool.not_true, Bool.false_eq_true, if_false, if_true]
  obtain ⟨info, htrap⟩ := htrap
  rw [execRfe, performOp_of h, htrap, Env.finish_trap]
  exact congrArg Host.Outcome.next (Env.trapped_of_inHandler (State.warp?_of_env? h) _ hin)

/-- R204: RFE that every live thread performs in the handler leaves it, and retires with the program counters that it set. -/
theorem execRfe_of_live_here (o : OpZ) (hin : e.w.inHandler = true) (habs : e.w.live &&& ~~~e.c.mask = 0)
    (hoff : e.w.live &&& ~~~e.g o.g = 0) :
    execRfe o s = .next { s.setWarp e.c.core e.c.slot
      { e.w.leaveHandler with rob := e.w.rob.tail, cvPass := false } with cur := none } := by
  have hop : opRfe o e s = .placed (s.setWarp e.c.core e.c.slot e.w.leaveHandler) := by
    simp [opRfe, hin, habs, hoff, Env.upd, State.modWarp_of (State.warp?_of_env? h)]
  rw [execRfe, performOp_of h, hop]
  simp only [Env.finish, Env.upd, State.modWarp_setWarp, Warp.leaveHandler]

end

/-! ## The obligation -/

/-- R40, R41, R45. -/
theorem takesTrap : takesTrapRule := by
  intro s e t h
  have hw := State.warp?_of_env? h
  refine ⟨fun hin hh hpcs => ?_, fun hin hh => Env.takeTrap_of_hand_eq_zero hw t hin hh, fun hin =>
    ⟨Env.takeTrap_of_inHandler hw t hin, fun o hg => ⟨?_, ?_⟩⟩⟩
  · refine ⟨_, Env.takeTrap_of_hand_ne_zero hw t hin hh, rfl, rfl, rfl, rfl, rfl, rfl, rfl, rfl, rfl, Warp.enterHandler_arrSaved,
      Warp.enterHandler_phSaved, Warp.enterHandler_vregs, Warp.enterHandler_sregs, Warp.enterHandler_preds,
      fun l hl hlive => ⟨?_, Warp.enterHandler_trpcv hl hlive⟩, fun l hl hdead => ?_⟩
    · rw [Warp.enterHandler_pc hpcs hl, if_pos hlive]
    · rw [Warp.enterHandler_pc hpcs hl, hdead, if_neg Bool.false_ne_true]
  · exact performOp_oncePerWarp_trapAfter_of_inHandler h (fun e _ => ⟨13, e.g o.g, o.n.toNat, []⟩) hg hin
  · exact performOp_oncePerWarp_trapAfter_of_inHandler h (fun e _ => ⟨12, e.g o.g, o.n.toNat, []⟩) hg hin

/-- R44, R204. -/
theorem trapReturn : trapReturnRule := by
  intro s e o h
  refine ⟨fun hin habs hoff hpcs => ?_, execRfe_of_live_elsewhere h o, execRfe_of_not_inHandler h o⟩
  exact ⟨_, execRfe_of_live_here h o hin habs hoff, rfl, rfl, rfl, rfl, rfl, rfl, rfl, rfl, rfl, rfl, rfl, rfl, rfl,
    fun l hl => Warp.leaveHandler_pc hpcs hl⟩

/-- Settles O20: it holds, by what taking a trap and RFE do in each of their cases. -/
theorem traps : Obligations.Traps := ⟨takesTrap, trapReturn⟩

end Sys2Proof.Machine
end

section
/-!
The integer class: integers modulo 2^w, the value of each function of the class modulo 2^w, how its two-source and one-source words
end, and the obligations on them.
-/

namespace Sys2Proof.Machine

/-! ## Integers modulo 2^w -/

theorem modW_congr {w : Nat} {x y : Int} (h : x ≡ y [ZMOD (2 ^ w : Nat)]) : modW w x = modW w y :=
  congrArg Int.toNat h

theorem modW_cast (w : Nat) (x : Int) : (modW w x : Int) = x % (2 ^ w : Nat) :=
  Int.toNat_of_nonneg (Int.emod_nonneg x (by positivity))

theorem modW_lt (w : Nat) (x : Int) : modW w x < 2 ^ w := by
  zify
  rw [modW_cast]
  exact_mod_cast Int.emod_lt_of_pos x (by positivity)

@[simp] theorem modW_modW (w : Nat) (x : Int) : modW w (modW w x : Nat) = modW w x := by
  rw [modW_cast]; exact modW_congr (Int.mod_modEq x _)

@[simp] theorem modW_mod (w n : Nat) : modW w (n % 2 ^ w : Nat) = modW w n := by
  rw [modW_natCast, modW_natCast, Nat.mod_mod]

theorem signedOf_modEq (w n : Nat) : signedOf w n ≡ n [ZMOD (2 ^ w : Nat)] := by
  have hmod : ((n % 2 ^ w : Nat) : Int) ≡ n [ZMOD (2 ^ w : Nat)] := by
    rw [Int.natCast_mod]; exact Int.mod_modEq _ _
  unfold signedOf
  split
  · exact hmod
  · have := hmod.sub (show (2 ^ w : Int) ≡ 0 [ZMOD (2 ^ w : Nat)] by simp [Int.ModEq])
    simpa using this

@[simp] theorem modW_signedOf (w n : Nat) : modW w (signedOf w n) = modW w n := modW_congr (signedOf_modEq w n)

theorem neg_le_signedOf_lt (w n : Nat) : -(2 ^ w : Nat) ≤ signedOf w n ∧ signedOf w n < (2 ^ w : Nat) := by
  have hn := Nat.mod_lt n (Nat.two_pow_pos w)
  unfold signedOf
  zify at hn ⊢
  split <;> constructor <;> lia

/-- An arithmetic shift by the width or more leaves the sign alone. -/
theorem ediv_of_le {x b c : Int} (hx : -b ≤ x ∧ x < b) (hb : 0 < b) (hc : b ≤ c) : x / c = x / b := by
  have key : ∀ d, b ≤ d → x / d = if x < 0 then -1 else 0 := by
    intro d hd
    split
    · exact ((Int.ediv_emod_unique (by omega)).mpr ⟨by omega, (by omega : 0 ≤ x + d), by omega⟩).1
    · exact Int.ediv_eq_zero_of_lt (by omega) (by omega)
  rw [key c hc, key b le_rfl]

/-! ## The functions of the integer class, modulo 2^w -/

section
variable (w : Nat) (sg : Bool) (a b : Nat)

theorem modW_fnAdd : modW w (fnAdd w sg a b : Nat) = modW w (a + b) := by
  rw [fnAdd, modW_mod, Nat.cast_add]

theorem modW_fnSub (hb : b < 2 ^ w) : modW w (fnSub w sg a b : Nat) = modW w (a - b) := by
  rw [fnSub, modW_mod, Nat.cast_sub (by omega), Nat.cast_add]
  refine modW_congr ?_
  rw [Int.ModEq, show (a + (2 ^ w : Nat) - b : Int) = a - b + (2 ^ w : Nat) by ring, Int.add_emod_right]

theorem modW_fnMul : modW w (fnMul w sg a b : Nat) = modW w (a * b) := by
  rw [fnMul, modW_mod, Nat.cast_mul]

theorem modW_fnMulhI : modW w (fnMulhI w sg a b : Nat) = modW w (signedOf w a * signedOf w b / 2 ^ w) := by
  rw [fnMulhI, modW_modW, Nat.cast_pow, Nat.cast_ofNat]

theorem modW_fnMulhN : modW w (fnMulhN w sg a b : Nat) = modW w (a * b / 2 ^ w) := by
  rw [fnMulhN, modW_mod, Int.natCast_ediv, Nat.cast_mul, Nat.cast_pow, Nat.cast_ofNat]

theorem modW_fnMinI : modW w (fnMinI w sg a b : Nat) = modW w (min (signedOf w a) (signedOf w b)) := by
  rw [fnMinI, min_def]; split <;> simp

theorem modW_fnMaxI : modW w (fnMaxI w sg a b : Nat) = modW w (max (signedOf w a) (signedOf w b)) := by
  rw [fnMaxI, max_def]; split <;> simp

theorem modW_fnMinN : modW w (fnMinN w sg a b : Nat) = modW w (min a b) := by
  rw [fnMinN, Nat.cast_min]

theorem modW_fnMaxN : modW w (fnMaxN w sg a b : Nat) = modW w (max a b) := by
  rw [fnMaxN, Nat.cast_max]

theorem fnAnd_eq (ha : a < 2 ^ w) (hb : b < 2 ^ w) : fnAnd w sg a b = (BitVec.ofNat w a &&& BitVec.ofNat w b).toNat := by
  simp only [BitVec.toNat_and, BitVec.toNat_ofNat, Nat.mod_eq_of_lt ha, Nat.mod_eq_of_lt hb]; rfl

theorem fnOr_eq (ha : a < 2 ^ w) (hb : b < 2 ^ w) : fnOr w sg a b = (BitVec.ofNat w a ||| BitVec.ofNat w b).toNat := by
  simp only [BitVec.toNat_or, BitVec.toNat_ofNat, Nat.mod_eq_of_lt ha, Nat.mod_eq_of_lt hb]; rfl

theorem fnXor_eq (ha : a < 2 ^ w) (hb : b < 2 ^ w) : fnXor w sg a b = (BitVec.ofNat w a ^^^ BitVec.ofNat w b).toNat := by
  simp only [BitVec.toNat_xor, BitVec.toNat_ofNat, Nat.mod_eq_of_lt ha, Nat.mod_eq_of_lt hb]; rfl

theorem fnAndn_eq (ha : a < 2 ^ w) (hb : b < 2 ^ w) :
    fnAndn w sg a b = (BitVec.ofNat w a &&& ~~~(BitVec.ofNat w b)).toNat := by
  simp only [← BitVec.xor_allOnes, BitVec.toNat_and, BitVec.toNat_xor, BitVec.toNat_allOnes, BitVec.toNat_ofNat,
    Nat.mod_eq_of_lt ha, Nat.mod_eq_of_lt hb]; rfl

theorem modW_fnAddS : modW w (fnAddS w sg a b : Nat) = modW w (satInt sg w (readInt sg w a + readInt sg w b)) := modW_modW _ _

theorem modW_fnSubS : modW w (fnSubS w sg a b : Nat) = modW w (satInt sg w (readInt sg w a - readInt sg w b)) := modW_modW _ _

/-- R155: a shift left by the width or more leaves nothing of the element. -/
theorem modW_fnShl (k : Nat) : modW w (fnShl w sg a k : Nat) = modW w (a * 2 ^ k) := by
  have hval : (a * 2 ^ k : Int) = (a * 2 ^ k : Nat) := by norm_cast
  rw [fnShl, hval]
  split
  · exact modW_mod w _
  · have hdvd : 2 ^ w ∣ a * 2 ^ k := (Nat.pow_dvd_pow 2 (by omega)).mul_left a
    rw [modW_natCast, modW_natCast, Nat.zero_mod, Nat.mod_eq_zero_of_dvd hdvd]

theorem modW_fnShr (k : Nat) (ha : a < 2 ^ w) : modW w (fnShr w sg a k : Nat) = modW w (a / 2 ^ k) := by
  have hval : (a / 2 ^ k : Int) = (a / 2 ^ k : Nat) := by norm_cast
  rw [fnShr, hval]
  split
  · rfl
  · have hle : 2 ^ w ≤ 2 ^ k := Nat.pow_le_pow_right (by omega) (by omega)
    rw [Nat.div_eq_of_lt (by omega)]

theorem modW_fnSar (k : Nat) : modW w (fnSar w sg a k : Nat) = modW w (signedOf w a / 2 ^ k) := by
  have hval : (2 ^ k : Int) = (2 ^ k : Nat) := by norm_cast
  rw [fnSar, modW_modW, hval]
  rcases Nat.le_total k w with hk | hk
  · rw [Nat.min_eq_left hk]
  · have hle : ((2 ^ w : Nat) : Int) ≤ (2 ^ k : Nat) := by exact_mod_cast Nat.pow_le_pow_right Nat.two_pos hk
    rw [Nat.min_eq_right hk, ediv_of_le (neg_le_signedOf_lt w a) (by positivity) hle]

theorem modW_fnBfx (k : Nat) : modW w (fnBfx w sg a k : Nat) =
    modW w (let f := min (k / 256 % 256) w
      if f = 0 then 0 else readInt sg f (modW f (readInt sg w a / 2 ^ (k % 256)))) := by
  simp only [fnBfx]
  split
  · rfl
  · rw [modW_modW, Nat.cast_pow, Nat.cast_ofNat]

end

/-! ## Two-source words -/

theorem Warp.elem_lt (w : Warp) (a : Src) {wd : Nat} (l : Nat) (hwd : wd = 32 ∨ wd = 64) : w.elem a wd l < 2 ^ wd := by
  unfold Warp.elem
  rcases hwd with rfl | rfl
  · exact (w.src a l).isLt
  · exact (w.src64 a l).isLt

/-- Only the value modulo 2^wd counts. -/
theorem Warp.wrote_congr {w w' : Warp} {g : LaneMask} {d : VReg} {wd : Nat} {x y : Nat → Int} (h : w.wrote w' g d wd x)
    (hxy : ∀ l, modW wd (x l) = modW wd (y l)) : w.wrote w' g d wd y :=
  ⟨h.1, fun l hl hg => (h.2 l hl hg).trans (hxy l)⟩

/-- R146: a word of the register classes that passes its checks and computes `x`, which is `val` modulo 2^wd, in every lane. -/
theorem performOp_aluOp_wrote {s : State} {e : Env} {f : AluOp} {g : LaneMask} {d : VReg} {wd : Nat}
    {x : Nat → Nat} {val : Nat → Int} (h : s.executes e) (hw : e.w.canonical) (hwd : wd = 32 ∨ wd = 64)
    (hf : f e e.w = .ok (overLanes g (fun l w => w.setElem d wd l (x l)) e.w)) (hx : ∀ l, modW wd (x l) = modW wd (val l)) :
    ∃ w', performOp (aluOp f) s = .next (e.retired s w') ∧ e.w.wrote w' g d wd val :=
  ⟨_, performOp_aluOp h hf, Warp.wrote_congr (e.w.wrote_overLanes hw g d x hwd) hx⟩

/-- The register after a write of a 32-bit element. -/
theorem Warp.toNat_v_of_wrote {w w' : Warp} {g : LaneMask} {d : VReg} {x : Nat → Int} {l : Nat} (h : w.wrote w' g d 32 x)
    (hl : l < 32) (hg : g.getLsbD l = true) : (w'.v d.toNat l).toNat = modW 32 (x l) := h.2 l hl hg

section
variable {s : State} {e : Env} {o : OpRRR} {wd : Nat} {f : Nat → Bool → Nat → Nat → Nat}
  (h : s.executes e) (hty : o.ty.intWidth = some wd) (hw : e.w.canonical)
include h hty hw

theorem performOp_intBin (hu : e.usable [useD o.d (regsOf wd), o.a.use (regsOf wd) 35, o.b.use (regsOf wd) 27])
    {val : Nat → Nat → Int}
    (hf : ∀ a b, a < 2 ^ wd → b < 2 ^ wd → modW wd (f wd o.ty.isSigned a b : Nat) = modW wd (val a b)) :
    ∃ w', performOp (aluOp (intBin f o)) s = .next (e.retired s w') ∧
      e.w.wrote w' (e.g o.g) o.d wd (fun l => val (e.w.elem o.a wd l) (e.w.elem o.b wd l)) := by
  have hwd := intWidth_cases hty
  have hok : intBin f o e e.w = .ok _ :=
    (except_bind_ok (Env.intType_of hty) _).trans (except_bind_ok (Env.need_of_usable hu) _)
  exact performOp_aluOp_wrote h hw hwd hok fun l => hf _ _ (e.w.elem_lt o.a l hwd) (e.w.elem_lt o.b l hwd)

/-- R155, R156: the second source is one 32-bit register at every width. -/
theorem performOp_intBin32 (hu : e.usable [useD o.d (regsOf wd), o.a.use (regsOf wd) 35, o.b.use 1 27])
    {val : Nat → Nat → Int} (hf : ∀ a k, a < 2 ^ wd → modW wd (f wd o.ty.isSigned a k : Nat) = modW wd (val a k)) :
    ∃ w', performOp (aluOp (intBin32 f o)) s = .next (e.retired s w') ∧
      e.w.wrote w' (e.g o.g) o.d wd (fun l => val (e.w.elem o.a wd l) (e.w.elem o.b 32 l)) := by
  have hwd := intWidth_cases hty
  have hok : intBin32 f o e e.w = .ok _ :=
    (except_bind_ok (Env.intType_of hty) _).trans (except_bind_ok (Env.need_of_usable hu) _)
  exact performOp_aluOp_wrote h hw hwd hok fun l => hf _ _ (e.w.elem_lt o.a l hwd)

end

/-- Settles O1: it holds, by the value of each function modulo 2^w. -/
theorem integerTwoSource : Obligations.IntegerTwoSource := by
  intro s e o wd h hty hw
  refine ⟨fun hu => ?_, fun hu => ?_⟩
  · simp only [List.forall_mem_cons, List.not_mem_nil, false_implies, implies_true, and_true]
    exact ⟨performOp_intBin h hty hw hu fun a b _ _ => modW_fnAdd wd _ a b,
      performOp_intBin h hty hw hu fun a b _ hb => modW_fnSub wd _ a b hb,
      performOp_intBin h hty hw hu fun a b _ _ => modW_fnMul wd _ a b,
      performOp_intBin h hty hw hu fun a b _ _ => modW_fnMulhI wd _ a b,
      performOp_intBin h hty hw hu fun a b _ _ => modW_fnMulhN wd _ a b,
      performOp_intBin h hty hw hu fun a b _ _ => modW_fnMinI wd _ a b,
      performOp_intBin h hty hw hu fun a b _ _ => modW_fnMinN wd _ a b,
      performOp_intBin h hty hw hu fun a b _ _ => modW_fnMaxI wd _ a b,
      performOp_intBin h hty hw hu fun a b _ _ => modW_fnMaxN wd _ a b,
      performOp_intBin h hty hw hu fun a b _ _ => modW_fnAddS wd _ a b,
      performOp_intBin h hty hw hu fun a b _ _ => modW_fnSubS wd _ a b,
      performOp_intBin h hty hw hu fun a b ha hb => congrArg (modW wd ∘ Nat.cast) (fnAnd_eq wd _ a b ha hb),
      performOp_intBin h hty hw hu fun a b ha hb => congrArg (modW wd ∘ Nat.cast) (fnOr_eq wd _ a b ha hb),
      performOp_intBin h hty hw hu fun a b ha hb => congrArg (modW wd ∘ Nat.cast) (fnXor_eq wd _ a b ha hb),
      performOp_intBin h hty hw hu fun a b ha hb => congrArg (modW wd ∘ Nat.cast) (fnAndn_eq wd _ a b ha hb)⟩
  · simp only [List.forall_mem_cons, List.not_mem_nil, false_implies, implies_true, and_true]
    exact ⟨performOp_intBin32 h hty hw hu fun a k _ => modW_fnShl wd _ a k,
      performOp_intBin32 h hty hw hu fun a k ha => modW_fnShr wd _ a k ha,
      performOp_intBin32 h hty hw hu fun a k _ => modW_fnSar wd _ a k,
      performOp_intBin32 h hty hw hu fun a k _ => modW_fnBfx wd _ a k⟩

/-! ## One-source words -/

theorem bit_eq_testBit (a i : Nat) : bit a i = a.testBit i := by
  rw [bit, Nat.testBit_eq_decide_div_mod_eq, beq_eq_decide]

theorem modW_of_lt {w n : Nat} (h : n < 2 ^ w) : modW w n = n := by
  rw [modW_natCast, Nat.mod_eq_of_lt h]

theorem fnPopc_eq (w a : Nat) : fnPopc w a = (List.range w).countP a.testBit := by
  rw [fnPopc, funext (bit_eq_testBit a), List.countP_eq_length_filter]

/-- R157: CLZ counts the zeros above the highest one, or the whole element. -/
theorem fnClz_bounds {w a : Nat} (ha : a < 2 ^ w) :
    fnClz w a ≤ w ∧ a < 2 ^ (w - fnClz w a) ∧ (fnClz w a < w → 2 ^ (w - fnClz w a - 1) ≤ a) := by
  unfold fnClz
  split
  · simp_all
  · rename_i h0
    have hlog : a.log2 < w := (Nat.log2_lt h0).mpr ha
    have hones : w - (w - 1 - a.log2) = a.log2 + 1 := by omega
    rw [hones, Nat.add_sub_cancel]
    exact ⟨by omega, Nat.lt_log2_self, fun _ => Nat.log2_self_le h0⟩

section
variable {s : State} {e : Env} {o : OpRR} {wd : Nat} {f : Nat → Nat → Nat}
  (h : s.executes e) (hty : o.ty.intWidth = some wd) (hw : e.w.canonical)
include h hty hw

theorem performOp_intUn (narrowD : Bool)
    (hu : e.usable [useD o.d (regsOf (if narrowD then 32 else wd)), o.a.use (regsOf wd) 35]) {val : Nat → Int}
    (hf : ∀ a, modW (if narrowD then 32 else wd) (f wd a : Nat) = modW (if narrowD then 32 else wd) (val a)) :
    ∃ w', performOp (aluOp (intUn narrowD f o)) s = .next (e.retired s w') ∧
      e.w.wrote w' (e.g o.g) o.d (if narrowD then 32 else wd) (fun l => val (e.w.elem o.a wd l)) := by
  have hdw : (if narrowD then 32 else wd) = 32 ∨ (if narrowD then 32 else wd) = 64 := by
    cases narrowD
    · exact intWidth_cases hty
    · exact .inl rfl
  have hok : intUn narrowD f o e e.w = .ok _ :=
    (except_bind_ok (Env.intType_of hty) _).trans (except_bind_ok (Env.need_of_usable hu) _)
  exact performOp_aluOp_wrote h hw hdw hok fun l => hf _

end

/-- Settles O5: it holds, by the count that each word leaves. -/
theorem integerUnary : Obligations.IntegerUnary := by
  intro s e o wd h hty hw
  have hwd := intWidth_cases hty
  refine ⟨fun hu => performOp_intUn h hty hw false hu (val := fun a => (signedOf wd a).natAbs) fun a => modW_mod wd _,
    fun hu => ⟨performOp_intUn h hty hw true hu (val := fun a => ((List.range wd).countP a.testBit : Nat)) fun a => by
      rw [fnPopc_eq], ?_⟩⟩
  obtain ⟨w', hexec, hwrote⟩ := performOp_intUn h hty hw (f := fnClz) true hu (fun _ => rfl)
  refine ⟨w', hexec, hwrote.1, fun l hl hg => ?_⟩
  have hbounds := fnClz_bounds (e.w.elem_lt o.a l hwd)
  have hn : (w'.v o.d.toNat l).toNat = fnClz wd (e.w.elem o.a wd l) :=
    (Warp.toNat_v_of_wrote hwrote hl hg).trans (modW_of_lt (by omega))
  simp only [hn]
  exact hbounds

end Sys2Proof.Machine
end

section
/-!
Predicates and bytes: the bits of packed values, PRMT byte by byte, how PLOP, PRMT, PACK and UNPK end, and the obligation on them.
-/

namespace Sys2Proof.Machine

/-! ## Bits of packed values -/

theorem testBit_fld (w pos len i : Nat) : (fld w pos len).testBit i = (decide (i < len) && w.testBit (pos + i)) := by
  rw [fld, Nat.testBit_mod_two_pow, Nat.testBit_div_two_pow, Nat.add_comm]

theorem testBit_packCodes {bits i : Nat} (hi : i < bits) (cs : List Nat) (j : Nat) :
    (packCodes bits cs).testBit (bits * j + i) = (cs.getD j 0).testBit i := by
  induction cs generalizing j with
  | nil => simp [packCodes]
  | cons c cs ih =>
    have hcons : packCodes bits (c :: cs) = 2 ^ bits * packCodes bits cs + c % 2 ^ bits := by
      simp only [packCodes, List.foldr_cons]; ring
    rw [hcons, Nat.testBit_two_pow_mul_add _ (Nat.mod_lt _ (Nat.two_pow_pos bits))]
    cases j with
    | zero => simp [hi]
    | succ j =>
      have hge : ¬ bits * (j + 1) + i < bits := by rw [Nat.mul_succ]; omega
      have hsub : bits * (j + 1) + i - bits = bits * j + i := by rw [Nat.mul_succ]; omega
      rw [if_neg hge, hsub, ih, List.getD_cons_succ]

/-- A number with the field of `len` bits at `pos` replaced. -/
theorem testBit_replace_fld (x pos : Nat) {len v : Nat} (hv : v < 2 ^ len) (t : Nat) :
    (x - fld x pos len * 2 ^ pos + v * 2 ^ pos).testBit t =
      if pos ≤ t ∧ t < pos + len then v.testBit (t - pos) else x.testBit t := by
  have hlo : x % 2 ^ pos < 2 ^ pos := Nat.mod_lt _ (Nat.two_pow_pos pos)
  have hparts : x = 2 ^ pos * (2 ^ len * (x / 2 ^ pos / 2 ^ len) + fld x pos len) + x % 2 ^ pos := by
    rw [fld, Nat.div_add_mod, Nat.div_add_mod]
  have hsum : x - fld x pos len * 2 ^ pos + v * 2 ^ pos = 2 ^ pos * (2 ^ len * (x / 2 ^ pos / 2 ^ len) + v) + x % 2 ^ pos := by
    generalize x / 2 ^ pos / 2 ^ len = hi at *
    generalize fld x pos len = f at *
    generalize x % 2 ^ pos = lo at *
    rw [mul_add] at hparts ⊢
    have := Nat.mul_comm f (2 ^ pos)
    have := Nat.mul_comm v (2 ^ pos)
    omega
  rw [hsum, Nat.testBit_two_pow_mul_add _ hlo, Nat.testBit_two_pow_mul_add _ hv]
  by_cases h1 : t < pos
  · rw [if_pos h1, if_neg (by omega), Nat.testBit_mod_two_pow]; simp [h1]
  · by_cases h2 : t - pos < len
    · rw [if_neg h1, if_pos h2, if_pos (by omega)]
    · rw [if_neg h1, if_neg h2, if_neg (by omega), Nat.testBit_div_two_pow, Nat.testBit_div_two_pow]
      congr 1; omega

/-- Fields of `n` bits at different places do not meet. -/
theorem mem_field_iff {n t : Nat} (ht : t < n) (i j : Nat) : n * j ≤ n * i + t ∧ n * i + t < n * j + n ↔ i = j := by
  have hdiv : (n * i + t) / n = i := by rw [Nat.mul_add_div (by omega), Nat.div_eq_of_lt ht, Nat.add_zero]
  have hiff : (n * i + t) / n = j ↔ _ := Nat.div_eq_iff (by omega)
  rw [hdiv, Nat.mul_comm j n] at hiff
  rw [hiff]
  omega

theorem testBit_setNarrow (x : Word) {n i j t v : Nat} (ht : t < n) (hin : n * i + n ≤ 32) :
    (setNarrow x n j v).toNat.testBit (n * i + t) =
      if i = j then (v % 2 ^ n).testBit t else x.toNat.testBit (n * i + t) := by
  rw [setNarrow, narrow, BitVec.toNat_ofNat, Nat.testBit_mod_two_pow,
    testBit_replace_fld _ _ (Nat.mod_lt v (Nat.two_pow_pos n)), decide_eq_true (by omega), Bool.true_and]
  simp only [mem_field_iff ht]
  split
  · subst_vars; rw [Nat.add_sub_cancel_left]
  · rfl

/-- R108: a narrow element after one is replaced. -/
theorem fld_setNarrow (x : Word) {n i : Nat} (j v : Nat) (hi : i < 32 / n) :
    fld (setNarrow x n j v).toNat (n * i) n = if i = j then v % 2 ^ n else fld x.toNat (n * i) n := by
  have hin : n * i + n ≤ 32 := (Nat.mul_le_mul_left n hi).trans (Nat.mul_div_le 32 n)
  apply Nat.eq_of_testBit_eq
  intro t
  rw [testBit_fld]
  by_cases ht : t < n
  · rw [testBit_setNarrow x ht hin]
    split <;> simp [testBit_fld, ht]
  · split <;> simp [testBit_fld, ht]

/-! ## PRMT, byte by byte -/

/-- The operation of a control byte on bit `i` of its source byte (R171). -/
def prmtBit (op byte i : Nat) : Bool :=
  match op with
  | 0 => byte.testBit i
  | 1 => false
  | 2 => byte.testBit 7
  | _ => byte.testBit (7 - i)

theorem revByte_eq_packCodes (b : Nat) : revByte b = packCodes 1 ((List.range 8).map fun k => b / 2 ^ (7 - k)) := by
  have hstep : (fun a i => if bit b i then a + 2 ^ (7 - i) else a) = fun a i => a + b / 2 ^ i % 2 * 2 ^ (7 - i) := by
    funext a i
    rcases Nat.mod_two_eq_zero_or_one (b / 2 ^ i) with h | h <;> simp [bit, h]
  rw [revByte, List.foldl_filter, hstep]
  have hrange : List.range 8 = [0, 1, 2, 3, 4, 5, 6, 7] := rfl
  rw [hrange]
  simp only [packCodes, List.map_cons, List.map_nil, List.foldl_cons, List.foldl_nil, List.foldr_cons, List.foldr_nil,
    Nat.reduceSub, Nat.reducePow]
  ring

theorem testBit_revByte (b : Nat) {i : Nat} (hi : i < 8) : (revByte b).testBit i = b.testBit (7 - i) := by
  have h := testBit_packCodes (i := 0) Nat.one_pos ((List.range 8).map fun k => b / 2 ^ (7 - k)) i
  rw [Nat.one_mul, Nat.add_zero, ← revByte_eq_packCodes] at h
  rw [h]
  simp only [List.getD_eq_getElem?_getD, List.getElem?_map, List.getElem?_range hi, Option.map_some, Option.getD_some,
    Nat.testBit_div_two_pow, Nat.zero_add]

theorem testBit_prmtByte_of (a b : Nat) {ctl op byte i : Nat} (hi : i < 8)
    (hbyte : fld (a + b * 2 ^ 32) (8 * fld ctl 0 3) 8 = byte) (hop : fld ctl 3 2 = op) :
    (prmtByte a b ctl).testBit i = prmtBit op byte i := by
  simp only [prmtByte, hbyte, hop]
  rcases op with _ | _ | _ | _
  case zero => rfl
  case succ.zero => exact Nat.zero_testBit i
  case succ.succ.zero =>
    have hones : (255 : Nat).testBit i = true := by
      rw [show (255 : Nat) = 2 ^ 8 - 1 by rfl, Nat.testBit_two_pow_sub_one, decide_eq_true hi]
    simp only [prmtBit, bit_eq_testBit]
    cases byte.testBit 7
    · exact Nat.zero_testBit i
    · exact hones
  case succ.succ.succ => exact testBit_revByte byte hi

theorem testBit_prmtByte (a b ctl : Nat) {i : Nat} (hi : i < 8) :
    (prmtByte a b ctl).testBit i = prmtBit (ctl / 8 % 4) ((b * 2 ^ 32 + a) / 2 ^ (8 * (ctl % 8)) % 256) i :=
  testBit_prmtByte_of a b hi (by simp [fld, Nat.add_comm]) (by simp [fld])

/-! ## PLOP, PRMT, PACK and UNPK -/

theorem Env.refuseIf_of_false {e : Env} {bad : Bool} (h : bad = false) (info : Nat) : e.refuseIf bad info = .ok () := by
  rw [h]; rfl

theorem Env.only_of_mem {e : Env} {ok : List Fmt} {ty : Fmt} (h : ty ∈ ok) : e.only ok ty = .ok () :=
  Env.refuseIf_of_false (by simpa using h) 10

theorem signedOf_toNat (x : Word) : signedOf 32 x.toNat = x.toInt := by
  rw [signedOf, BitVec.toInt_eq_toNat_cond, Nat.mod_eq_of_lt x.isLt]
  split <;> split <;> omega

theorem Warp.setV_eq_setElem (w : Warp) (d : VReg) (l : Nat) (x : Word) : w.setV d.toNat l x = w.setElem d 32 l x.toNat := by
  simp [Warp.setElem]

/-- R172: the types of PACK and UNPK and their widths. -/
theorem typesPack_of {ty : Fmt} {n : Nat}
    (h : ty = .i4 ∧ n = 4 ∨ ty = .i8 ∧ n = 8 ∨ ty = .n8 ∧ n = 8 ∨ ty = .i16 ∧ n = 16 ∨ ty = .n16 ∧ n = 16) :
    ty ∈ typesPack ∧ ty.bits = n := by
  rcases h with ⟨rfl, rfl⟩ | ⟨rfl, rfl⟩ | ⟨rfl, rfl⟩ | ⟨rfl, rfl⟩ | ⟨rfl, rfl⟩ <;> decide

section
variable {s : State} {e : Env} (h : s.executes e) (hw : e.w.canonical)
include h hw

/-- R170. -/
theorem execPlop_wrotePred (o : OpPlop) (hty : o.ty = .n32) : ∃ w', execPlop o s = .next (e.retired s w') ∧
    e.w.wrotePred w' (e.g o.g) o.d (fun l =>
      o.lut.getLsbD ((if e.w.p o.a.toNat l then 2 else 0) + (if e.w.p o.b.toNat l then 1 else 0))) := by
  have hix : ∀ a b : Bool, (if a then 2 else 0) + (if b then 1 else 0) = 2 * a.toNat + b.toNat := by decide
  simp only [hix]
  exact ⟨_, performOp_aluOp h (except_bind_ok (Env.only_of_mem (by simp [hty])) _), e.w.wrotePred_overLanes hw _ o.d _⟩

/-- R171. -/
theorem execPrmt_wrote (o : OpRRRR) (hty : o.ty = .n32) (hu : e.usable [useD o.d 1, o.a.use 1 35, o.b.use 1 27, o.c.use 1 19]) :
    ∃ w', execPrmt o s = .next (e.retired s w') ∧ e.w.wrote w' (e.g o.g) o.d 32 (fun l =>
      packCodes 8 ((List.range 4).map fun j =>
        prmtByte (e.w.src o.a l).toNat (e.w.src o.b l).toNat (fld (e.w.src o.c l).toNat (8 * j) 8))) :=
  performOp_aluOp_wrote h hw (.inl rfl)
    ((except_bind_ok (Env.only_of_mem (by simp [hty])) _).trans (except_bind_ok (Env.need_of_usable hu) _)) fun _ => rfl

/-- R172. -/
theorem execPack_wrote (o : OpPack) {n : Nat} (hmem : o.ty ∈ typesPack) (hn : o.ty.bits = n) (hj : o.j.toNat < 32 / n)
    (hu : e.usable [useD o.d 1, o.a.use 1 35, o.b.use 1 27]) :
    ∃ w', execPack o s = .next (e.retired s w') ∧ e.w.wrote w' (e.g o.g) o.d 32 (fun l =>
      let x := (e.w.src o.a l).toInt
      (setNarrow (e.w.src o.b l) n o.j.toNat (modW n (if o.sat then satInt o.ty.isSigned n x else x))).toNat) := by
  subst hn
  simp only [← signedOf_toNat]
  exact performOp_aluOp_wrote h hw (.inl rfl)
    ((except_bind_ok (Env.only_of_mem hmem) _).trans ((except_bind_ok (Env.refuseIf_of_false (by simpa using hj) 19) _).trans
      ((except_bind_ok (Env.need_of_usable hu) _).trans (by simp only [Warp.setV_eq_setElem])))) fun _ => rfl

/-- R172. -/
theorem execUnpk_wrote (o : OpUnpk) {n : Nat} (hmem : o.ty ∈ typesPack) (hn : o.ty.bits = n) (hj : o.j.toNat < 32 / n)
    (hu : e.usable [useD o.d 1, o.a.use 1 35]) :
    ∃ w', execUnpk o s = .next (e.retired s w') ∧ e.w.wrote w' (e.g o.g) o.d 32 (fun l =>
      readInt o.ty.isSigned n ((e.w.src o.a l).toNat / 2 ^ (n * o.j.toNat) % 2 ^ n)) := by
  subst hn
  exact performOp_aluOp_wrote h hw (.inl rfl)
    ((except_bind_ok (Env.only_of_mem hmem) _).trans ((except_bind_ok (Env.refuseIf_of_false (by simpa using hj) 19) _).trans
      (except_bind_ok (Env.need_of_usable hu) _))) fun _ => modW_modW 32 _

end

/-- Settles O10: it holds, by the bits of the packed values. -/
theorem predicatesAndBytes : Obligations.PredicatesAndBytes := by
  refine ⟨fun s e o h hw hty => execPlop_wrotePred h hw o hty, fun s e o h hw hty hu => ?_,
    fun s e o n h hw hty hj hu => ?_, fun s e o n h hw hty hj hu => ?_⟩
  · obtain ⟨w', hexec, hwrote⟩ := execPrmt_wrote h hw o hty hu
    refine ⟨w', hexec, hwrote.1, fun l hl hg j hj i hi => ?_⟩
    rw [← BitVec.testBit_toNat, Warp.toNat_v_of_wrote hwrote hl hg, modW_natCast, Nat.testBit_mod_two_pow, testBit_packCodes hi]
    simp only [show 8 * j + i < 32 by omega, decide_true, Bool.true_and]
    rw [List.getD_eq_getElem _ _ (by simpa using hj), List.getElem_map, List.getElem_range]
    exact testBit_prmtByte _ _ _ hi
  · obtain ⟨hmem, hn⟩ := typesPack_of hty
    obtain ⟨w', hexec, hwrote⟩ := execPack_wrote h hw o hmem hn hj hu
    refine ⟨w', hexec, hwrote.1, fun l hl hg i hi => ?_⟩
    rw [Warp.toNat_v_of_wrote hwrote hl hg, modW_of_lt (BitVec.isLt _)]
    exact (fld_setNarrow _ _ _ hi).trans (if_congr Iff.rfl (Nat.mod_eq_of_lt (modW_lt n _)) rfl)
  · obtain ⟨hmem, hn⟩ := typesPack_of hty
    exact execUnpk_wrote h hw o hmem hn hj hu

end Sys2Proof.Machine
end

section
/-!
The plain control words: how a word that some lane must perform ends when none does, how NOP and PAUSE retire, what EXIT does while
threads of its warp are left and with the last of them, and the obligation on them.
-/

namespace Sys2Proof.Machine

/-! ## Words that some lane must perform -/

section
variable {s : State} {e : Env} (h : s.executes e)
include h

/-- R146: a word that no lane performs retires with no effect. -/
theorem performOp_oncePerWarp_of_eq_zero {g : Guard} (op : Op) (hg : e.g g = 0) :
    performOp (oncePerWarp g op) s = .next (e.retired s e.w) := by
  rw [performOp_of h, oncePerWarp, if_pos hg, Env.finish_same h]

/-- A word that some lane performs, and whose one effect is on its warp, retires with it. -/
theorem performOp_oncePerWarp_upd {g : Guard} (f : State → Warp → Warp) (hg : e.g g ≠ 0) :
    performOp (oncePerWarp g fun e s => .ok (e.upd s (f s))) s = .next (e.retired s (f s e.w)) := by
  rw [performOp_of h, oncePerWarp, if_neg hg, Env.upd, State.modWarp_of (State.warp?_of_env? h), Env.finish_setWarp]

/-- R202. -/
theorem execNop_eq (o : OpZ) : execNop o s = .next (e.retired s e.w) := by
  rw [execNop, performOp_of h, opNop, Env.finish_same h]

/-- R28, R202. -/
theorem execPause_eq (o : OpZ) :
    execPause o s = .next (e.retired s (if e.g o.g = 0 then e.w else { e.w with demoted := some (s.clk + 64) })) := by
  split
  · exact performOp_oncePerWarp_of_eq_zero h _ ‹_›
  · exact performOp_oncePerWarp_upd h (fun s w => { w with demoted := some (s.clk + 64) }) ‹_›

end

/-! ## EXIT -/

/-- R200: a word that performed, and left its warp able to go on, ends as its operation does. -/
theorem Env.unlessStuck_ok_of_not_stuck {e : Env} {s t : State}
    (hfree : ∀ v, (e.finish s (.ok t)).warp? e.c.core e.c.slot = some v → v.stuck = false) : e.unlessStuck t (.ok t) = .ok t := by
  unfold Env.unlessStuck
  dsimp only
  split
  · rw [hfree _ ‹_›, if_neg Bool.false_ne_true]
  · rfl

/-- `s` once the threads of `g` have exited: they are marked and are out of the barriers, and their warp still holds its slot. -/
def Env.exiting (e : Env) (s : State) (g : LaneMask) : State :=
  (s.setWarp e.c.core e.c.slot { e.w with exited := e.w.exited ||| g }).leaveBarriers e.wg e.w.widx (lanesOf g)

section
variable {s : State} {e : Env} (h : s.executes e) {o : OpZ} (hg : e.g o.g ≠ 0) (hbanks : e.w.bankCount = 0)
include h hg hbanks

/-- R201: EXIT of a warp that holds no banks, by the threads that are left. -/
theorem opExit_eq : opExit o e s =
    if (e.w.live &&& ~~~e.g o.g == 0) && e.wg.exitedWarps + 1 == e.wg.warps && s.wgBusy e.wg then .hold s
    else if e.w.live &&& ~~~e.g o.g == 0 then
      .ok ((e.exiting s (e.g o.g)).retireWarp e.c.core e.c.slot (((e.exiting s (e.g o.g)).wg? e.w.wg).getD e.wg))
    else e.unlessStuck (e.exiting s (e.g o.g)) (.ok (e.exiting s (e.g o.g))) := by
  obtain ⟨-, hwarp, hwg, -, -⟩ := State.env?_eq h
  simp only [opExit, hg, if_false, hwarp, hbanks, bne_self_eq_false, Bool.false_eq_true, hwg, Option.getD_some, Env.upd,
    State.modWarp_of hwarp, Env.exiting]

/-- R201: with threads of the warp left, the exiting ones go and the warp goes on. -/
theorem execExit_of_live_left (hleft : e.w.live &&& ~~~e.g o.g ≠ 0)
    (hfree : ∀ v, (e.finish s (.ok (e.exiting s (e.g o.g)))).warp? e.c.core e.c.slot = some v → v.stuck = false) :
    execExit o s = .next (e.finish s (.ok (e.exiting s (e.g o.g)))) := by
  have hlast : (e.w.live &&& ~~~e.g o.g == 0) = false := beq_false_of_ne hleft
  rw [execExit, performOp_of h, opExit_eq h hg hbanks, hlast, Bool.false_and, Bool.false_and, if_neg Bool.false_ne_true,
    if_neg Bool.false_ne_true, Env.unlessStuck_ok_of_not_stuck hfree]

/-- R39, R201: the last threads of a warp free it, and need not wait unless they free a workgroup that has work in flight. -/
theorem execExit_of_last (hlast : e.w.live &&& ~~~e.g o.g = 0)
    (hfree : ¬ (e.wg.exitedWarps + 1 = e.wg.warps ∧ s.wgBusy e.wg = true)) :
    execExit o s = .next (e.finish s (.ok ((e.exiting s (e.g o.g)).retireWarp e.c.core e.c.slot
      (((e.exiting s (e.g o.g)).wg? e.w.wg).getD e.wg)))) := by
  rw [execExit, performOp_of h, opExit_eq h hg hbanks, hlast, beq_self_eq_true, Bool.true_and,
    if_neg (by simpa using hfree), if_pos rfl]

end

/-! ## The obligation -/

/-- R28, R202, R203. -/
theorem plainControlWords : plainControlRule := by
  intro s e h
  refine ⟨execNop_eq h, execPause_eq h, fun o => ⟨fun hg => ⟨?_, ?_⟩, fun hg => ⟨?_, ?_⟩⟩⟩
  · exact performOp_oncePerWarp_of_eq_zero h _ hg
  · exact performOp_oncePerWarp_of_eq_zero h _ hg
  · exact performOp_oncePerWarp_trapAfter h (fun e _ => ⟨13, e.g o.g, o.n.toNat, []⟩) hg
  · exact performOp_oncePerWarp_trapAfter h (fun e _ => ⟨12, e.g o.g, o.n.toNat, []⟩) hg

/-- R201. -/
theorem exits : exitRule := fun _ _ _ h hg hbanks => ⟨execExit_of_live_left h hg hbanks, execExit_of_last h hg hbanks⟩

/-- Settles O19: it holds, by how each of the words ends with and without a lane that performs it, and by the threads EXIT leaves. -/
theorem plainControl : Obligations.PlainControl := ⟨plainControlWords, exits⟩

end Sys2Proof.Machine
end
